-- ==== Sys2Proof/Word.lean ====
section
/-!
DEFINITION. The word types of the PK8 (R10): bytes, 32-bit registers and 64-bit pairs.
-/
namespace Sys2Proof

/-- One byte of memory. -/
abbrev Byte := BitVec 8

/-- One thread or uniform register, one instruction word (R255, R257). -/
abbrev Word := BitVec 32

/-- A register pair, a pointer, a 64-bit register of the register file (R10, R20). -/
abbrev Dword := BitVec 64

end Sys2Proof
end

