-- ==== Sys2Proof/Machine/Float.lean ====
section
/-!
DEFINITION. The floating-point formats (R233) and one rounding of an exact value (R236 to R240).

A finite value is a sign and an exact magnitude n / d, so sums and products are exact and every result is
rounded once. Flags are the bits of FX (R241).
-/
namespace Sys2Proof.Machine

/-- Rounding modes (R235, RM). -/
inductive Rm where
  /-- Nearest, ties to even. -/
  | rne
  /-- Towards zero. -/
  | rtz
  /-- Towards plus infinity. -/
  | rup
  /-- Towards minus infinity. -/
  | rdn
  deriving DecidableEq, Repr

/-- The floating-point formats of R233. -/
inductive Fmt where
  /-- FP32. -/
  | f32
  /-- FP16. -/
  | f16
  /-- BF16. -/
  | bf16
  /-- E4M3. -/
  | e4m3
  /-- E5M2. -/
  | e5m2
  deriving DecidableEq, Repr

/-- The bits of FX (R241). -/
abbrev Fx := BitVec 7

/-- Inexact. -/
def fxNX : Fx := 0x01
/-- A tiny result that was inexact or flushed. -/
def fxUF : Fx := 0x02
/-- Overflow, or saturation by a conversion. -/
def fxOF : Fx := 0x04
/-- Division by zero. -/
def fxDZ : Fx := 0x08
/-- Invalid operation. -/
def fxNV : Fx := 0x10
/-- A malformed OI4 block was decoded. -/
def fxFMT : Fx := 0x20
/-- A member mask named an exited thread. -/
def fxXM : Fx := 0x40

/-- Width of a format in bits. -/
def Fmt.width : Fmt → Nat
  | .f32 => 32
  | .f16 => 16
  | .bf16 => 16
  | .e4m3 => 8
  | .e5m2 => 8

/-- Bits of the mantissa field. -/
def Fmt.mant : Fmt → Nat
  | .f32 => 23
  | .f16 => 10
  | .bf16 => 7
  | .e4m3 => 3
  | .e5m2 => 2

/-- Exponent bias. -/
def Fmt.bias : Fmt → Nat
  | .f32 => 127
  | .f16 => 15
  | .bf16 => 127
  | .e4m3 => 7
  | .e5m2 => 15

/-- Code of the largest finite value. -/
def Fmt.maxCode : Fmt → Nat
  | .f32 => 0x7F7FFFFF
  | .f16 => 0x7BFF
  | .bf16 => 0x7F7F
  | .e4m3 => 0x7E
  | .e5m2 => 0x7B

/-- Code of plus infinity; E4M3 has none, and gives its canonical NaN there (R250). -/
def Fmt.infCode : Fmt → Nat
  | .f32 => 0x7F800000
  | .f16 => 0x7C00
  | .bf16 => 0x7F80
  | .e4m3 => 0x7F
  | .e5m2 => 0x7C

/-- The canonical NaN (R238). -/
def Fmt.canon : Fmt → Nat
  | .f32 => 0x7FC00000
  | .f16 => 0x7E00
  | .bf16 => 0x7FC0
  | .e4m3 => 0x7F
  | .e5m2 => 0x7E

/-- FTZI and FTZO concern FP32, FP16 and BF16 only (R237). -/
def Fmt.flushes : Fmt → Bool
  | .f32 => true
  | .f16 => true
  | .bf16 => true
  | .e4m3 => false
  | .e5m2 => false

/-- The value of a floating-point code: a NaN, an infinity, or a sign with an exact magnitude `n / d`. -/
inductive FVal where
  /-- Not a number. -/
  | nan
  /-- An infinity; `true` is minus. -/
  | inf (neg : Bool)
  /-- `n / d`, negated when `neg`; a zero keeps its sign. -/
  | fin (neg : Bool) (n d : Nat)
  deriving DecidableEq, Repr

/-- A rounded result: the code and the flags it raises. -/
structure Rounded where
  /-- The code in the target format. -/
  code : Nat
  /-- The flags raised. -/
  fx : Fx
  deriving DecidableEq, Repr

/-- The fields of FPCR (R235). -/
def fpcrRm (fpcr : Word) : Rm :=
  match (fpcr.extractLsb' 0 2).toNat with
  | 0 => .rne
  | 1 => .rtz
  | 2 => .rup
  | _ => .rdn
/-- FPCR.FTZI. -/
def fpcrFtzi (fpcr : Word) : Bool := fpcr.getLsbD 2
/-- FPCR.FTZO. -/
def fpcrFtzo (fpcr : Word) : Bool := fpcr.getLsbD 3
/-- FPCR.SATN. -/
def fpcrSatn (fpcr : Word) : Bool := fpcr.getLsbD 4

/-- `m * 2 ^ e` as a fraction. -/
def scaled (neg : Bool) (m : Nat) (e : Int) : FVal :=
  if 0 ≤ e then .fin neg (m * 2 ^ e.toNat) 1 else .fin neg m (2 ^ (-e).toNat)

/-- The value of a code (R233). -/
def decodeFp (f : Fmt) (c : Nat) : FVal :=
  let neg := c / 2 ^ (f.width - 1) % 2 == 1
  let mag := c % 2 ^ (f.width - 1)
  let e := mag / 2 ^ f.mant
  let m := mag % 2 ^ f.mant
  if f = .e4m3 && mag = 0x7F then .nan
  else if mag > f.maxCode then (if mag = f.infCode then .inf neg else .nan)
  else if e = 0 then scaled neg m (1 - (f.bias : Int) - f.mant)
  else scaled neg (m + 2 ^ f.mant) ((e : Int) - f.bias - f.mant)

/-- An input read under FTZI (R237): a subnormal is taken as zero of its sign. -/
def decodeFtzi (fpcr : Word) (f : Fmt) (c : Nat) : FVal :=
  match decodeFp f c with
  | .fin neg n d =>
    if fpcrFtzi fpcr && f.flushes && c % 2 ^ (f.width - 1) / 2 ^ f.mant = 0 then .fin neg 0 1
    else .fin neg n d
  | v => v

/-- The exponent `e` with `2 ^ e ≤ n / d < 2 ^ (e + 1)`, for `n` and `d` not zero. -/
def ilog (n d : Nat) : Int :=
  let e : Int := (n.log2 : Int) - d.log2
  let below := if 0 ≤ e then n < d * 2 ^ e.toNat else n * 2 ^ (-e).toNat < d
  if below then e - 1 else e

/-- `n / d` rounded to an integer under `rm` (R236); the second part says whether it was inexact. -/
def roundNat (rm : Rm) (neg : Bool) (n d : Nat) : Nat × Bool :=
  let k := n / d
  let r := n % d
  if r = 0 then (k, false)
  else
    let up := match rm with
      | .rne => d < 2 * r || (2 * r = d && k % 2 = 1)
      | .rtz => false
      | .rup => !neg
      | .rdn => neg
    (if up then k + 1 else k, true)

/-- `n / d` in units of `2 ^ q`, rounded. -/
def roundUnits (rm : Rm) (neg : Bool) (n d : Nat) (q : Int) : Nat × Bool :=
  if 0 ≤ q then roundNat rm neg n (d * 2 ^ q.toNat) else roundNat rm neg (n * 2 ^ (-q).toNat) d

/-- The sign bit of a format. -/
def Fmt.signBit (f : Fmt) (neg : Bool) : Nat := if neg then 2 ^ (f.width - 1) else 0

/-- What an overflow gives (R236, R250): infinity or the largest finite value, with OF and NX. -/
def overflowTo (f : Fmt) (rm : Rm) (sat neg : Bool) : Rounded :=
  let toInf := match rm with
    | .rne => true
    | .rtz => false
    | .rup => !neg
    | .rdn => neg
  let code :=
    if toInf && !sat then (if f = .e4m3 then f.canon else f.signBit neg + f.infCode)
    else f.signBit neg + f.maxCode
  ⟨code, fxOF ||| fxNX⟩

/-- One rounding of a non-zero magnitude `n / d` (R236, R237): overflow, tininess, FTZO. -/
def roundMag (f : Fmt) (rm : Rm) (ftzo sat neg : Bool) (n d : Nat) : Rounded :=
  let e := ilog n d
  let emin : Int := 1 - (f.bias : Int)
  let q : Int := max e emin - f.mant
  let kr := roundUnits rm neg n d q
  let code := (q - (emin - f.mant)).toNat * 2 ^ f.mant + kr.1
  let tiny := e < emin && (roundUnits rm neg n d (e - f.mant)).1 < 2 ^ (emin - e + f.mant).toNat
  if code > f.maxCode then overflowTo f rm sat neg
  else if tiny && ftzo && f.flushes then ⟨f.signBit neg, fxUF ||| fxNX⟩
  else ⟨f.signBit neg + code, (if kr.2 then fxNX else 0) ||| (if tiny && kr.2 then fxUF else 0)⟩

/-- `round_to` (R280): one rounding of an exact value. `sat` is the saturation of R250. -/
def roundFp (f : Fmt) (rm : Rm) (ftzo sat : Bool) : FVal → Rounded
  | .nan => ⟨f.canon, 0⟩
  | .inf neg =>
    if sat then ⟨f.signBit neg + f.maxCode, fxOF ||| fxNX⟩
    else if f = .e4m3 then ⟨f.canon, fxOF ||| fxNX⟩
    else ⟨f.signBit neg + f.infCode, 0⟩
  | .fin neg n d => if n = 0 then ⟨f.signBit neg, 0⟩ else roundMag f rm ftzo sat neg n d

/-- Rounding of a vector result under FPCR (R251). -/
def roundVec (fpcr : Word) (f : Fmt) (v : FVal) : Rounded :=
  roundFp f (fpcrRm fpcr) (fpcrFtzo fpcr) false v

/-- Negation of a value. -/
def FVal.neg : FVal → FVal
  | .nan => .nan
  | .inf s => .inf !s
  | .fin s n d => .fin (!s) n d

/-- The exact sum of two finite values, with the sign of an exact zero as R240 says. -/
def addFin (rm : Rm) (s1 : Bool) (n1 d1 : Nat) (s2 : Bool) (n2 d2 : Nat) : FVal :=
  let a := n1 * d2
  let b := n2 * d1
  let d := d1 * d2
  if s1 = s2 then .fin s1 (a + b) d
  else if b < a then .fin s1 (a - b) d
  else if a < b then .fin s2 (b - a) d
  else .fin (rm = .rdn) 0 1

/-- An exact sum; the second part is NV (R239). -/
def FVal.add (rm : Rm) : FVal → FVal → FVal × Fx
  | .nan, _ => (.nan, 0)
  | _, .nan => (.nan, 0)
  | .inf a, .inf b => if a = b then (.inf a, 0) else (.nan, fxNV)
  | .inf a, .fin .. => (.inf a, 0)
  | .fin .., .inf b => (.inf b, 0)
  | .fin s1 n1 d1, .fin s2 n2 d2 => (addFin rm s1 n1 d1 s2 n2 d2, 0)

/-- An exact product; 0 × ∞ is invalid (R239, R240). -/
def FVal.mul : FVal → FVal → FVal × Fx
  | .nan, _ => (.nan, 0)
  | _, .nan => (.nan, 0)
  | .inf a, .inf b => (.inf (a != b), 0)
  | .inf a, .fin b n _ => if n = 0 then (.nan, fxNV) else (.inf (a != b), 0)
  | .fin a n _, .inf b => if n = 0 then (.nan, fxNV) else (.inf (a != b), 0)
  | .fin s1 n1 d1, .fin s2 n2 d2 => (.fin (s1 != s2) (n1 * n2) (d1 * d2), 0)

/-- An exact quotient by a finite value that is not zero (R250, TSCALE). -/
def FVal.divFin : FVal → FVal → FVal
  | .fin s1 n1 d1, .fin s2 n2 d2 => .fin (s1 != s2) (n1 * d2) (d1 * n2)
  | .inf a, .fin b _ _ => .inf (a != b)
  | _, _ => .nan

/-- `a × b + c` formed exactly (R315): 0 × ∞ is invalid even when `c` is NaN; then a NaN input raises nothing. -/
def FVal.fma (rm : Rm) (a b c : FVal) : FVal × Fx :=
  let p := a.mul b
  if p.2 ≠ 0 then p else p.1.add rm c

/-- A value and the flags of forming it, rounded: flags are OR-ed (R241). -/
def finish (fpcr : Word) (f : Fmt) (r : FVal × Fx) : Rounded :=
  let o := roundVec fpcr f r.1
  ⟨o.code, o.fx ||| r.2⟩

/-- Addition of two codes under FPCR (R310, R314). -/
def fpAdd (fpcr : Word) (f : Fmt) (a b : Nat) : Rounded :=
  finish fpcr f ((decodeFtzi fpcr f a).add (fpcrRm fpcr) (decodeFtzi fpcr f b))

/-- Subtraction. -/
def fpSub (fpcr : Word) (f : Fmt) (a b : Nat) : Rounded :=
  finish fpcr f ((decodeFtzi fpcr f a).add (fpcrRm fpcr) (decodeFtzi fpcr f b).neg)

/-- Multiplication. -/
def fpMul (fpcr : Word) (f : Fmt) (a b : Nat) : Rounded :=
  finish fpcr f ((decodeFtzi fpcr f a).mul (decodeFtzi fpcr f b))

/-- Fused multiply-add with the signs of the product and of the addend (R315). -/
def fpFma (fpcr : Word) (f : Fmt) (negP negC : Bool) (a b c : Nat) : Rounded :=
  let va := decodeFtzi fpcr f a
  let vc := decodeFtzi fpcr f c
  finish fpcr f (FVal.fma (fpcrRm fpcr) (if negP then va.neg else va) (decodeFtzi fpcr f b)
    (if negC then vc.neg else vc))

/-- Strict order of two finite or infinite values as reals. -/
def FVal.lt : FVal → FVal → Bool
  | .nan, _ => false
  | _, .nan => false
  | .inf a, .inf b => a && !b
  | .inf a, .fin .. => a
  | .fin .., .inf b => !b
  | .fin s1 n1 d1, .fin s2 n2 d2 =>
    let a : Int := if s1 then -(n1 * d2 : Int) else (n1 * d2 : Int)
    let b : Int := if s2 then -(n2 * d1 : Int) else (n2 * d1 : Int)
    a < b

/-- A value is a NaN. -/
def FVal.isNan : FVal → Bool
  | .nan => true
  | _ => false

/-- The sign of a value that is no NaN. -/
def FVal.sign : FVal → Bool
  | .nan => false
  | .inf s => s
  | .fin s _ _ => s

/-- An integer value under a rounding mode; `none` for NaN and infinities. The Bool says inexact. -/
def FVal.toInt (rm : Rm) : FVal → Option (Int × Bool)
  | .fin s n d =>
    let r := roundNat rm s n d
    some (if s then -(r.1 : Int) else (r.1 : Int), r.2)
  | _ => none

/-- Conversion to an integer range (R251, R318, R250): clamped with NV, 0 with NV for NaN. -/
def fpToInt (rm : Rm) (lo hi : Int) (v : FVal) : Int × Fx :=
  match v with
  | .nan => (0, fxNV)
  | .inf s => (if s then lo else hi, fxNV)
  | .fin s n d =>
    let r := roundNat rm s n d
    let k : Int := if s then -(r.1 : Int) else (r.1 : Int)
    if k < lo then (lo, fxNV) else if hi < k then (hi, fxNV) else (k, if r.2 then fxNX else 0)

/-- An integer as an exact value. -/
def ofInt (k : Int) : FVal := .fin (k < 0) k.natAbs 1

end Sys2Proof.Machine
end

