-- ==== Sys2Proof/Machine/Flags.lean ====
section
/-!
DEFINITION. Conditions and predicates: the comparisons of ICMP, ICMPI and FCMP and how their result meets the old
predicate (R270, R289, R312).
-/
namespace Sys2Proof.Machine

/-- Condition codes of ICMP and ICMPI on `w` bits (R270). -/
def intCond {w : Nat} (cc : Nat) (a b : BitVec w) : Bool :=
  match cc with
  | 0 => a == b
  | 1 => a != b
  | 2 => a.slt b
  | 3 => a.sle b
  | 4 => b.slt a
  | 5 => b.sle a
  | 6 => a.ult b
  | 7 => a.ule b
  | 8 => b.ult a
  | _ => b.ule a

/-- Condition codes of FCMP (R270): all but NE and UN are false on a NaN. -/
def floatCond (cc : Nat) (a b : FVal) : Bool :=
  let un := a.isNan || b.isNan
  let lt := a.lt b
  let gt := b.lt a
  match cc with
  | 0 => !un && !lt && !gt
  | 1 => un || lt || gt
  | 2 => !un && lt
  | 3 => !un && !gt
  | 4 => !un && gt
  | 5 => !un && !lt
  | 6 => un
  | _ => !un

/-- How a comparison result meets the old predicate: 0 set, 1 and, 2 or, 3 set-not (R270). -/
def combine (cmb : BitVec 2) (old r : Bool) : Bool :=
  match cmb.toNat with
  | 0 => r
  | 1 => old && r
  | 2 => old || r
  | _ => !r

end Sys2Proof.Machine
end

