-- ==== Sys2Proof/Config.lean ====
section
/-!
DEFINITION. What the spec leaves open or only names: opaque constants without a body, so that no proof can
depend on what they are. Each is named in a row of notes/assumptions.
-/
namespace Sys2Proof.Config

/-- The free values of the model: cycle counts, bytes of cancelled copies and the like (log 10).
The argument is the counter State.fv, which every use advances. -/
opaque freeValue : Nat → BitVec 64

/-- The free values of telemetry records: times and cycle counts (log 10). The argument is the counter State.tv, which
nothing but a record advances, so that no filter changes what a context reads (R413). -/
opaque tapValue : Nat → BitVec 64

/-- The Ed25519 check of signed bytes and a signature under the key burnt into the package (R452): the spec names the
algorithm and does not define it (log 11). -/
opaque ed25519Verify : List Byte → List Byte → Bool

/-- The ML-DSA-65 check of signed bytes and a signature (R452), likewise (log 11). -/
opaque mldsa65Verify : List Byte → List Byte → Bool

/-- The signature over SPDM measurements (R453), likewise (log 11). -/
opaque spdmSign : List Byte → List Byte

/-- The ML-DSA-65 signature over SPDM measurements (R453), likewise (log 11). -/
opaque spdmSignPq : List Byte → List Byte

/-- The public halves of the identity keys of the nine logic dies, the Foyer being 8: Ed25519, and with `true` ML-DSA-65
(R451). They are made at manufacture and stand in no register (log 11). -/
opaque publicKey : Nat → Bool → List Byte

/-- The manufacturer's certificates of the identity keys of a logic die, the Foyer being 8 (R451, R453; log 11). -/
opaque certificates : Nat → List Byte

/-- The answer to an SPDM request for which the spec gives no content (R453; log 33). -/
opaque spdmOther : List Byte → List Byte

/-- A special function whose value 512 bits of working precision do not decide (R252): none is known (log 12). -/
opaque sfuUndecided : Nat → BitVec 32 → BitVec 32

/-- The number of this package in its scale-up domain (R456), which no register holds (log 17). -/
opaque packageIndex : BitVec 10

/-- Slots of the atomic unit of an L2 slice (R189), a number that the spec does not give (log 102). -/
opaque atomicSlots : Nat

/-- MIGR landing slots of a die (R189), a number that the spec does not give (log 102). -/
opaque landingSlots : Nat

/-- The child identifier that hardware writes to PKEY (R228), a value that the spec leaves open but for being non-zero:
a function of the child's key, so that it is the same on every run (log 20). -/
opaque childId : List Nat → BitVec 64

end Sys2Proof.Config
end

