-- ==== Sys2Proof/Machine/Sparse.lean ====
section
/-!
DEFINITION. Sparse tables in one canonical form: keys strictly rising, no entry equal to zero, which is what an
unlisted key reads as. Memories and register files of the machine are such tables.
-/
namespace Sys2Proof.Machine

/-- A table from numbers to words of `w` bits. -/
abbrev Sparse (w : Nat) := List (Nat × BitVec w)

/-- The entry of a key, zero when unlisted. -/
def Sparse.get {w : Nat} : Sparse w → Nat → BitVec w
  | [], _ => 0
  | (a, v) :: r, k => if a = k then v else Sparse.get r k

/-- Insertion before the first larger key. -/
def Sparse.ins {w : Nat} (k : Nat) (v : BitVec w) : Sparse w → Sparse w
  | [] => [(k, v)]
  | (a, x) :: r => if k < a then (k, v) :: (a, x) :: r else (a, x) :: Sparse.ins k v r

/-- Removal of a key. -/
def Sparse.del {w : Nat} (k : Nat) : Sparse w → Sparse w
  | [] => []
  | (a, x) :: r => if a = k then Sparse.del k r else (a, x) :: Sparse.del k r

/-- Writing a key; writing zero removes the entry. -/
def Sparse.set {w : Nat} (m : Sparse w) (k : Nat) (v : BitVec w) : Sparse w :=
  if v = 0 then m.del k else (m.del k).ins k v

/-- Every key is above `k`. -/
def Sparse.above {w : Nat} (k : Nat) (m : Sparse w) : Bool := m.all (fun e => k < e.1)

/-- The canonical form: keys strictly rising, no zero entry. -/
def Sparse.wf {w : Nat} : Sparse w → Bool
  | [] => true
  | (a, v) :: r => v != 0 && Sparse.above a r && Sparse.wf r

/-- A byte-addressed memory. -/
abbrev Memory := Sparse 8

/-- The canonical form of a memory. -/
def Memory.wf (m : Memory) : Bool := Sparse.wf m

/-- Removal of every key from `lo` up to, but without, `hi`. -/
def Sparse.clear {w : Nat} (lo hi : Nat) (m : Sparse w) : Sparse w :=
  m.filter (fun e => e.1 < lo || hi ≤ e.1)

end Sys2Proof.Machine
end

