-- ==== Sys2Proof/Syntax.lean ====
section
/-!
DEFINITION. The steps of the PK8, one constructor per row of spec/opcode_table.json.

The first 228 rows are words of 32 bits (R259, R270); a constructor's arguments are the row's fields,
in the order of the table, each with the width of its field. The other 74 rows are events of the
device (95_what_each_step_holds.md); they have no word, and their arguments say on which object of
the state the event acts, or what the outside world brings.
-/
namespace Sys2Proof

/-- A step of the PK8: an instruction word or a device event. -/
inductive Instr where
  /-- ILL (R270): The all-zero word of major 0x00, which raises ILLEGAL. -/
  | ill
  /-- XT_IMM (R267): Prefix that supplies a 32-bit immediate or unscaled offset to the following word. -/
  | xtImm (p : BitVec 24)
  /-- XT_OPD (R268): Prefix that supplies a lookahead and an addend register to the following word. -/
  | xtOpd (l : BitVec 4) (c : BitVec 7)
  /-- XT_MEM (R266): Prefix that supplies colour, atomicity and cache policy to the following memory word. -/
  | xtMem (e : BitVec 1) (k : BitVec 3) (t : BitVec 2) (p : BitVec 2)
  /-- ADD (R285): 32-bit wrapping addition per thread. -/
  | add (d : BitVec 7) (a : BitVec 7) (b : BitVec 7)
  /-- SUB (R285): 32-bit wrapping subtraction per thread. -/
  | sub (d : BitVec 7) (a : BitVec 7) (b : BitVec 7)
  /-- AND (R285): Bitwise AND per thread. -/
  | and (d : BitVec 7) (a : BitVec 7) (b : BitVec 7)
  /-- OR (R285): Bitwise OR per thread. -/
  | or (d : BitVec 7) (a : BitVec 7) (b : BitVec 7)
  /-- XOR (R285): Bitwise exclusive OR per thread. -/
  | xor (d : BitVec 7) (a : BitVec 7) (b : BitVec 7)
  /-- ANDN (R285): a AND NOT b per thread. -/
  | andn (d : BitVec 7) (a : BitVec 7) (b : BitVec 7)
  /-- SHL (R285): Logical shift left by b[4:0]. -/
  | shl (d : BitVec 7) (a : BitVec 7) (b : BitVec 7)
  /-- SHR (R285): Logical shift right by b[4:0]. -/
  | shr (d : BitVec 7) (a : BitVec 7) (b : BitVec 7)
  /-- SAR (R285): Arithmetic shift right by b[4:0]. -/
  | sar (d : BitVec 7) (a : BitVec 7) (b : BitVec 7)
  /-- ROTL (R285): Rotate left by b[4:0]. -/
  | rotl (d : BitVec 7) (a : BitVec 7) (b : BitVec 7)
  /-- MIN (R285): Signed minimum per thread. -/
  | min (d : BitVec 7) (a : BitVec 7) (b : BitVec 7)
  /-- MAX (R285): Signed maximum per thread. -/
  | max (d : BitVec 7) (a : BitVec 7) (b : BitVec 7)
  /-- MINZ (R285): Unsigned minimum per thread. -/
  | minz (d : BitVec 7) (a : BitVec 7) (b : BitVec 7)
  /-- MAXZ (R285): Unsigned maximum per thread. -/
  | maxz (d : BitVec 7) (a : BitVec 7) (b : BitVec 7)
  /-- MUL (R285): Low 32 bits of the product. -/
  | mul (d : BitVec 7) (a : BitVec 7) (b : BitVec 7)
  /-- MULH (R285): High 32 bits of the signed product. -/
  | mulh (d : BitVec 7) (a : BitVec 7) (b : BitVec 7)
  /-- MULHZ (R285): High 32 bits of the unsigned product. -/
  | mulhz (d : BitVec 7) (a : BitVec 7) (b : BitVec 7)
  /-- ABSD (R285): Absolute signed difference. -/
  | absd (d : BitVec 7) (a : BitVec 7) (b : BitVec 7)
  /-- ADD64 (R285): 64-bit wrapping addition of register pairs. -/
  | add64 (d : BitVec 7) (a : BitVec 7) (b : BitVec 7)
  /-- SUB64 (R285): 64-bit wrapping subtraction of register pairs. -/
  | sub64 (d : BitVec 7) (a : BitVec 7) (b : BitVec 7)
  /-- POPC (R285): Population count. -/
  | popc (d : BitVec 7) (a : BitVec 7)
  /-- CLZ (R285): Count of leading zero bits. -/
  | clz (d : BitVec 7) (a : BitVec 7)
  /-- BREV (R285): Bit reversal. -/
  | brev (d : BitVec 7) (a : BitVec 7)
  /-- SADD (R285): Signed saturating addition. -/
  | sadd (d : BitVec 7) (a : BitVec 7) (b : BitVec 7)
  /-- SSUB (R285): Signed saturating subtraction. -/
  | ssub (d : BitVec 7) (a : BitVec 7) (b : BitVec 7)
  /-- ADDI (R286): Addition of a sign-extended immediate. -/
  | addi (d : BitVec 7) (a : BitVec 7) (i : BitVec 12)
  /-- ANDI (R286): AND with a zero-extended immediate. -/
  | andi (d : BitVec 7) (a : BitVec 7) (i : BitVec 12)
  /-- ORI (R286): OR with a zero-extended immediate. -/
  | ori (d : BitVec 7) (a : BitVec 7) (i : BitVec 12)
  /-- XORI (R286): Exclusive OR with a zero-extended immediate. -/
  | xori (d : BitVec 7) (a : BitVec 7) (i : BitVec 12)
  /-- SHFI_SHL (R287): Shift left by an immediate amount. -/
  | shfiShl (d : BitVec 7) (a : BitVec 7) (n : BitVec 5)
  /-- SHFI_SHR (R287): Logical shift right by an immediate amount. -/
  | shfiShr (d : BitVec 7) (a : BitVec 7) (n : BitVec 5)
  /-- SHFI_SAR (R287): Arithmetic shift right by an immediate amount. -/
  | shfiSar (d : BitVec 7) (a : BitVec 7) (n : BitVec 5)
  /-- SHFI_ROTL (R287): Rotate left by an immediate amount. -/
  | shfiRotl (d : BitVec 7) (a : BitVec 7) (n : BitVec 5)
  /-- MOVI (R288): Writes a sign-extended 19-bit immediate. -/
  | movi (d : BitVec 7) (i : BitVec 19)
  /-- MOVH (R288): Writes an immediate into bits [31:13] and keeps d[12:0]. -/
  | movh (d : BitVec 7) (i : BitVec 19)
  /-- ICMP (R289): Integer compare of registers, combined into a predicate. -/
  | icmp (p : BitVec 3) (m : BitVec 2) (a : BitVec 7) (b : BitVec 7) (c : BitVec 4) (t : BitVec 3)
  /-- ICMPI (R289): Integer compare with an immediate, setting a predicate. -/
  | icmpi (p : BitVec 3) (c : BitVec 4) (a : BitVec 7) (i : BitVec 12)
  /-- SEL (R290): Selects a or b per thread under the guard. -/
  | sel (d : BitVec 7) (a : BitVec 7) (b : BitVec 7) (g : BitVec 4)
  /-- IMAD (R291): 32-bit multiply-add. -/
  | imad (d : BitVec 7) (a : BitVec 7) (b : BitVec 7)
  /-- IMADW (R291): Signed widening multiply-add into a pair. -/
  | imadw (d : BitVec 7) (a : BitVec 7) (b : BitVec 7)
  /-- IMADWZ (R291): Unsigned widening multiply-add into a pair. -/
  | imadwz (d : BitVec 7) (a : BitVec 7) (b : BitVec 7)
  /-- BFE (R292): Signed bit-field extract. -/
  | bfe (d : BitVec 7) (a : BitVec 7) (p : BitVec 5) (l : BitVec 5)
  /-- BFEZ (R292): Unsigned bit-field extract. -/
  | bfez (d : BitVec 7) (a : BitVec 7) (p : BitVec 5) (l : BitVec 5)
  /-- BFI (R292): Bit-field insert. -/
  | bfi (d : BitVec 7) (a : BitVec 7) (p : BitVec 5) (l : BitVec 5)
  /-- BMSK (R292): Builds a bit mask. -/
  | bmsk (d : BitVec 7) (p : BitVec 5) (l : BitVec 5)
  /-- PADD (R293): Adds a signed offset to a tagged pointer, raising ADDRESS on overflow. -/
  | padd (d : BitVec 7) (a : BitVec 7) (b : BitVec 7)
  /-- PTAG (R293): Replaces the SPACE and RANK of a pointer. -/
  | ptag (d : BitVec 7) (a : BitVec 7) (b : BitVec 7)
  /-- PRANK (R293): Replaces the rank of a scratchpad pointer. -/
  | prank (d : BitVec 7) (a : BitVec 7) (b : BitVec 7)
  /-- PINFO (R294): Returns a pointer's space, rank and check result. -/
  | pinfo (d : BitVec 7) (a : BitVec 7)
  /-- PHND (R293): Converts a scratchpad pointer to a scratch handle. -/
  | phnd (d : BitVec 7) (a : BitVec 7)
  /-- FADD (R310): FP32 addition rounded once. -/
  | fadd (d : BitVec 7) (a : BitVec 7) (b : BitVec 7)
  /-- FSUB (R310): FP32 subtraction rounded once. -/
  | fsub (d : BitVec 7) (a : BitVec 7) (b : BitVec 7)
  /-- FMUL (R310): FP32 multiplication rounded once. -/
  | fmul (d : BitVec 7) (a : BitVec 7) (b : BitVec 7)
  /-- FMIN (R311): FP32 minimum. -/
  | fmin (d : BitVec 7) (a : BitVec 7) (b : BitVec 7)
  /-- FMAX (R311): FP32 maximum. -/
  | fmax (d : BitVec 7) (a : BitVec 7) (b : BitVec 7)
  /-- FABS (R312): FP32 absolute value. -/
  | fabs (d : BitVec 7) (a : BitVec 7)
  /-- FNEG (R312): FP32 negation. -/
  | fneg (d : BitVec 7) (a : BitVec 7)
  /-- FCPYS (R312): Copies the sign of b onto a. -/
  | fcpys (d : BitVec 7) (a : BitVec 7) (b : BitVec 7)
  /-- FRND_N (R313): Round to integral, nearest even. -/
  | frndN (d : BitVec 7) (a : BitVec 7)
  /-- FRND_Z (R313): Round to integral towards zero. -/
  | frndZ (d : BitVec 7) (a : BitVec 7)
  /-- FRND_P (R313): Round to integral towards plus infinity. -/
  | frndP (d : BitVec 7) (a : BitVec 7)
  /-- FRND_M (R313): Round to integral towards minus infinity. -/
  | frndM (d : BitVec 7) (a : BitVec 7)
  /-- HADD2_F16 (R314): Packed FP16 addition. -/
  | hadd2F16 (d : BitVec 7) (a : BitVec 7) (b : BitVec 7)
  /-- HSUB2_F16 (R314): Packed FP16 subtraction. -/
  | hsub2F16 (d : BitVec 7) (a : BitVec 7) (b : BitVec 7)
  /-- HMUL2_F16 (R314): Packed FP16 multiplication. -/
  | hmul2F16 (d : BitVec 7) (a : BitVec 7) (b : BitVec 7)
  /-- HMIN2_F16 (R314): Packed FP16 minimum. -/
  | hmin2F16 (d : BitVec 7) (a : BitVec 7) (b : BitVec 7)
  /-- HMAX2_F16 (R314): Packed FP16 maximum. -/
  | hmax2F16 (d : BitVec 7) (a : BitVec 7) (b : BitVec 7)
  /-- HADD2_BF16 (R314): Packed BF16 addition. -/
  | hadd2Bf16 (d : BitVec 7) (a : BitVec 7) (b : BitVec 7)
  /-- HSUB2_BF16 (R314): Packed BF16 subtraction. -/
  | hsub2Bf16 (d : BitVec 7) (a : BitVec 7) (b : BitVec 7)
  /-- HMUL2_BF16 (R314): Packed BF16 multiplication. -/
  | hmul2Bf16 (d : BitVec 7) (a : BitVec 7) (b : BitVec 7)
  /-- HMIN2_BF16 (R314): Packed BF16 minimum. -/
  | hmin2Bf16 (d : BitVec 7) (a : BitVec 7) (b : BitVec 7)
  /-- HMAX2_BF16 (R314): Packed BF16 maximum. -/
  | hmax2Bf16 (d : BitVec 7) (a : BitVec 7) (b : BitVec 7)
  /-- FFMA (R315): Fused a × b + c rounded once. -/
  | ffma (d : BitVec 7) (a : BitVec 7) (b : BitVec 7)
  /-- FFMS (R315): Fused a × b − c rounded once. -/
  | ffms (d : BitVec 7) (a : BitVec 7) (b : BitVec 7)
  /-- FNMA (R315): Fused −(a × b) + c rounded once. -/
  | fnma (d : BitVec 7) (a : BitVec 7) (b : BitVec 7)
  /-- HFMA2_F16 (R315): Packed FP16 fused multiply-add. -/
  | hfma2F16 (d : BitVec 7) (a : BitVec 7) (b : BitVec 7)
  /-- HFMA2_BF16 (R315): Packed BF16 fused multiply-add. -/
  | hfma2Bf16 (d : BitVec 7) (a : BitVec 7) (b : BitVec 7)
  /-- FCMP (R316): Floating-point compare, combined into a predicate. -/
  | fcmp (p : BitVec 3) (m : BitVec 2) (a : BitVec 7) (b : BitVec 7) (c : BitVec 4) (t : BitVec 3)
  /-- RCP (R317): Correctly rounded reciprocal. -/
  | rcp (d : BitVec 7) (a : BitVec 7)
  /-- RSQ (R317): Correctly rounded reciprocal square root. -/
  | rsq (d : BitVec 7) (a : BitVec 7)
  /-- SQRT (R317): Correctly rounded square root. -/
  | sqrt (d : BitVec 7) (a : BitVec 7)
  /-- EXP2 (R317): Correctly rounded 2^x. -/
  | exp2 (d : BitVec 7) (a : BitVec 7)
  /-- LOG2 (R317): Correctly rounded base-2 logarithm. -/
  | log2 (d : BitVec 7) (a : BitVec 7)
  /-- SINPI (R317): Correctly rounded sin(πx). -/
  | sinpi (d : BitVec 7) (a : BitVec 7)
  /-- COSPI (R317): Correctly rounded cos(πx). -/
  | cospi (d : BitVec 7) (a : BitVec 7)
  /-- TANH (R317): Correctly rounded tanh. -/
  | tanh (d : BitVec 7) (a : BitVec 7)
  /-- CVT_F32_F16 (R318): Converts FP16 to FP32. -/
  | cvtF32F16 (d : BitVec 7) (a : BitVec 7)
  /-- CVT_F16_F32 (R318): Converts FP32 to FP16. -/
  | cvtF16F32 (d : BitVec 7) (a : BitVec 7)
  /-- CVT_F32_BF16 (R318): Converts BF16 to FP32. -/
  | cvtF32Bf16 (d : BitVec 7) (a : BitVec 7)
  /-- CVT_BF16_F32 (R318): Converts FP32 to BF16. -/
  | cvtBf16F32 (d : BitVec 7) (a : BitVec 7)
  /-- CVT_S32_F32 (R318): Converts FP32 to a clamped signed integer. -/
  | cvtS32F32 (d : BitVec 7) (a : BitVec 7)
  /-- CVT_Z32_F32 (R318): Converts FP32 to a clamped unsigned integer. -/
  | cvtZ32F32 (d : BitVec 7) (a : BitVec 7)
  /-- CVT_F32_S32 (R318): Converts a signed integer to FP32. -/
  | cvtF32S32 (d : BitVec 7) (a : BitVec 7)
  /-- CVT_F32_Z32 (R318): Converts an unsigned integer to FP32. -/
  | cvtF32Z32 (d : BitVec 7) (a : BitVec 7)
  /-- PACK2 (R318): Packs two 16-bit halves into one register. -/
  | pack2 (d : BitVec 7) (a : BitVec 7) (b : BitVec 7)
  /-- SHFL (R322): Each thread reads a from the member named by its d. -/
  | shfl (d : BitVec 7) (a : BitVec 7) (g : BitVec 5)
  /-- SHFLUP (R322): Each thread reads a from thread t − δ. -/
  | shflup (d : BitVec 7) (a : BitVec 7) (g : BitVec 5)
  /-- SHFLDN (R322): Each thread reads a from thread t + δ. -/
  | shfldn (d : BitVec 7) (a : BitVec 7) (g : BitVec 5)
  /-- SHFLX (R322): Each thread reads a from thread t xor δ. -/
  | shflx (d : BitVec 7) (a : BitVec 7) (g : BitVec 5)
  /-- BCST (R322): Broadcasts a of the thread named by gk. -/
  | bcst (d : BitVec 7) (a : BitVec 7) (g : BitVec 5)
  /-- PREV (R322): Each thread reads a of the highest member below it. -/
  | prev (d : BitVec 7) (a : BitVec 7) (g : BitVec 5)
  /-- SCAN_ADD (R323): Inclusive integer sum over members. -/
  | scanAdd (d : BitVec 7) (a : BitVec 7) (g : BitVec 5)
  /-- SCAN_MIN (R323): Inclusive signed minimum over members. -/
  | scanMin (d : BitVec 7) (a : BitVec 7) (g : BitVec 5)
  /-- SCAN_MAX (R323): Inclusive signed maximum over members. -/
  | scanMax (d : BitVec 7) (a : BitVec 7) (g : BitVec 5)
  /-- SCAN_MINZ (R323): Inclusive unsigned minimum over members. -/
  | scanMinz (d : BitVec 7) (a : BitVec 7) (g : BitVec 5)
  /-- SCAN_MAXZ (R323): Inclusive unsigned maximum over members. -/
  | scanMaxz (d : BitVec 7) (a : BitVec 7) (g : BitVec 5)
  /-- SCAN_AND (R323): Inclusive bitwise AND over members. -/
  | scanAnd (d : BitVec 7) (a : BitVec 7) (g : BitVec 5)
  /-- SCAN_OR (R323): Inclusive bitwise OR over members. -/
  | scanOr (d : BitVec 7) (a : BitVec 7) (g : BitVec 5)
  /-- SCAN_FADD (R323): Inclusive FP32 sum in ascending thread order. -/
  | scanFadd (d : BitVec 7) (a : BitVec 7) (g : BitVec 5)
  /-- RED_ADD (R323): Integer sum over all members to every active thread. -/
  | redAdd (d : BitVec 7) (a : BitVec 7) (g : BitVec 5)
  /-- RED_MIN (R323): Signed minimum over all members. -/
  | redMin (d : BitVec 7) (a : BitVec 7) (g : BitVec 5)
  /-- RED_MAX (R323): Signed maximum over all members. -/
  | redMax (d : BitVec 7) (a : BitVec 7) (g : BitVec 5)
  /-- RED_MINZ (R323): Unsigned minimum over all members. -/
  | redMinz (d : BitVec 7) (a : BitVec 7) (g : BitVec 5)
  /-- RED_MAXZ (R323): Unsigned maximum over all members. -/
  | redMaxz (d : BitVec 7) (a : BitVec 7) (g : BitVec 5)
  /-- RED_AND (R323): Bitwise AND over all members. -/
  | redAnd (d : BitVec 7) (a : BitVec 7) (g : BitVec 5)
  /-- RED_OR (R323): Bitwise OR over all members. -/
  | redOr (d : BitVec 7) (a : BitVec 7) (g : BitVec 5)
  /-- RED_FADD (R323): FP32 sum over all members in ascending thread order. -/
  | redFadd (d : BitVec 7) (a : BitVec 7) (g : BitVec 5)
  /-- VOTE_ANY (R324): 1 when any member's a is non-zero. -/
  | voteAny (d : BitVec 7) (a : BitVec 7) (g : BitVec 5)
  /-- VOTE_ALL (R324): 1 when every member's a is non-zero. -/
  | voteAll (d : BitVec 7) (a : BitVec 7) (g : BitVec 5)
  /-- VOTE_UNI (R324): 1 when all non-exited members hold equal a. -/
  | voteUni (d : BitVec 7) (a : BitVec 7) (g : BitVec 5)
  /-- BALLOT (R324): Mask of members whose a is non-zero. -/
  | ballot (d : BitVec 7) (a : BitVec 7) (g : BitVec 5)
  /-- MATCH (R324): Mask of members whose a equals the thread's own. -/
  | matchEq (d : BitVec 7) (a : BitVec 7) (g : BitVec 5)
  /-- UADD (R295): Uniform addition. -/
  | uadd (d : BitVec 5) (a : BitVec 5) (b : BitVec 5)
  /-- USUB (R295): Uniform subtraction. -/
  | usub (d : BitVec 5) (a : BitVec 5) (b : BitVec 5)
  /-- UAND (R295): Uniform AND. -/
  | uand (d : BitVec 5) (a : BitVec 5) (b : BitVec 5)
  /-- UOR (R295): Uniform OR. -/
  | uor (d : BitVec 5) (a : BitVec 5) (b : BitVec 5)
  /-- UXOR (R295): Uniform exclusive OR. -/
  | uxor (d : BitVec 5) (a : BitVec 5) (b : BitVec 5)
  /-- USHL (R295): Uniform shift left. -/
  | ushl (d : BitVec 5) (a : BitVec 5) (b : BitVec 5)
  /-- USHR (R295): Uniform logical shift right. -/
  | ushr (d : BitVec 5) (a : BitVec 5) (b : BitVec 5)
  /-- USAR (R295): Uniform arithmetic shift right. -/
  | usar (d : BitVec 5) (a : BitVec 5) (b : BitVec 5)
  /-- UMUL (R295): Uniform multiplication. -/
  | umul (d : BitVec 5) (a : BitVec 5) (b : BitVec 5)
  /-- UMIN (R295): Uniform signed minimum. -/
  | umin (d : BitVec 5) (a : BitVec 5) (b : BitVec 5)
  /-- UMAX (R295): Uniform signed maximum. -/
  | umax (d : BitVec 5) (a : BitVec 5) (b : BitVec 5)
  /-- UMINZ (R295): Uniform unsigned minimum. -/
  | uminz (d : BitVec 5) (a : BitVec 5) (b : BitVec 5)
  /-- UMAXZ (R295): Uniform unsigned maximum. -/
  | umaxz (d : BitVec 5) (a : BitVec 5) (b : BitVec 5)
  /-- UADDI (R296): Uniform addition of a sign-extended immediate. -/
  | uaddi (d : BitVec 5) (a : BitVec 5) (i : BitVec 16)
  /-- UMOVI (R296): Writes a sign-extended 16-bit immediate to a uniform register. -/
  | umovi (d : BitVec 5) (i : BitVec 16)
  /-- UMOVH (R296): Writes an immediate into the upper half of a uniform register. -/
  | umovh (d : BitVec 5) (i : BitVec 16)
  /-- RDG (R297): Copies a uniform register to each active thread. -/
  | rdg (x : BitVec 7) (g : BitVec 5)
  /-- WRGF (R297): Copies x of the lowest active thread to a uniform register. -/
  | wrgf (x : BitVec 7) (g : BitVec 5)
  /-- WRGT (R297): Copies x of thread n to a uniform register. -/
  | wrgt (x : BitVec 7) (g : BitVec 5) (n : BitVec 5)
  /-- LDB (R329): Loads a byte, zero-extended. -/
  | ldb (d : BitVec 7) (a : BitVec 7) (l : BitVec 4) (o : BitVec 8)
  /-- LDBS (R329): Loads a byte, sign-extended. -/
  | ldbs (d : BitVec 7) (a : BitVec 7) (l : BitVec 4) (o : BitVec 8)
  /-- LDH (R329): Loads a half-word, zero-extended. -/
  | ldh (d : BitVec 7) (a : BitVec 7) (l : BitVec 4) (o : BitVec 8)
  /-- LDHS (R329): Loads a half-word, sign-extended. -/
  | ldhs (d : BitVec 7) (a : BitVec 7) (l : BitVec 4) (o : BitVec 8)
  /-- LDW (R329): Loads a word. -/
  | ldw (d : BitVec 7) (a : BitVec 7) (l : BitVec 4) (o : BitVec 8)
  /-- LDD (R329): Loads 8 bytes into a pair. -/
  | ldd (d : BitVec 7) (a : BitVec 7) (l : BitVec 4) (o : BitVec 8)
  /-- LDQ (R329): Loads 16 bytes into a quad. -/
  | ldq (d : BitVec 7) (a : BitVec 7) (l : BitVec 4) (o : BitVec 8)
  /-- STB (R331): Stores a byte per guarded thread. -/
  | stb (s : BitVec 7) (a : BitVec 7) (g : BitVec 4) (o : BitVec 8)
  /-- STH (R331): Stores a half-word per guarded thread. -/
  | sth (s : BitVec 7) (a : BitVec 7) (g : BitVec 4) (o : BitVec 8)
  /-- STW (R331): Stores a word per guarded thread. -/
  | stw (s : BitVec 7) (a : BitVec 7) (g : BitVec 4) (o : BitVec 8)
  /-- STD (R331): Stores 8 bytes per guarded thread. -/
  | std (s : BitVec 7) (a : BitVec 7) (g : BitVec 4) (o : BitVec 8)
  /-- STQ (R331): Stores 16 bytes per guarded thread. -/
  | stq (s : BitVec 7) (a : BitVec 7) (g : BitVec 4) (o : BitVec 8)
  /-- ULDW (R333): Uniform 4-byte load. -/
  | uldw (d : BitVec 5) (a : BitVec 5) (l : BitVec 4) (o : BitVec 12)
  /-- ULDD (R333): Uniform 8-byte load into a pair. -/
  | uldd (d : BitVec 5) (a : BitVec 5) (l : BitVec 4) (o : BitVec 12)
  /-- ATOM_ADD (R334): Atomic add returning the old value. -/
  | atomAdd (d : BitVec 7) (a : BitVec 7) (g : BitVec 4) (r : BitVec 2) (s : BitVec 2) (w : BitVec 1)
  /-- ATOM_MIN (R334): Atomic signed minimum. -/
  | atomMin (d : BitVec 7) (a : BitVec 7) (g : BitVec 4) (r : BitVec 2) (s : BitVec 2) (w : BitVec 1)
  /-- ATOM_MAX (R334): Atomic signed maximum. -/
  | atomMax (d : BitVec 7) (a : BitVec 7) (g : BitVec 4) (r : BitVec 2) (s : BitVec 2) (w : BitVec 1)
  /-- ATOM_MINZ (R334): Atomic unsigned minimum. -/
  | atomMinz (d : BitVec 7) (a : BitVec 7) (g : BitVec 4) (r : BitVec 2) (s : BitVec 2) (w : BitVec 1)
  /-- ATOM_MAXZ (R334): Atomic unsigned maximum. -/
  | atomMaxz (d : BitVec 7) (a : BitVec 7) (g : BitVec 4) (r : BitVec 2) (s : BitVec 2) (w : BitVec 1)
  /-- ATOM_AND (R334): Atomic AND. -/
  | atomAnd (d : BitVec 7) (a : BitVec 7) (g : BitVec 4) (r : BitVec 2) (s : BitVec 2) (w : BitVec 1)
  /-- ATOM_OR (R334): Atomic OR. -/
  | atomOr (d : BitVec 7) (a : BitVec 7) (g : BitVec 4) (r : BitVec 2) (s : BitVec 2) (w : BitVec 1)
  /-- ATOM_XOR (R334): Atomic exclusive OR. -/
  | atomXor (d : BitVec 7) (a : BitVec 7) (g : BitVec 4) (r : BitVec 2) (s : BitVec 2) (w : BitVec 1)
  /-- ATOMX_EXCH (R335): Atomic exchange. -/
  | atomxExch (d : BitVec 7) (a : BitVec 7) (g : BitVec 4) (r : BitVec 2) (s : BitVec 2) (w : BitVec 1)
  /-- ATOMX_CAS (R335): Atomic compare-and-swap. -/
  | atomxCas (d : BitVec 7) (a : BitVec 7) (g : BitVec 4) (r : BitVec 2) (s : BitVec 2) (w : BitVec 1)
  /-- ATOMX_FADD (R335): Atomic FP32 addition. -/
  | atomxFadd (d : BitVec 7) (a : BitVec 7) (g : BitVec 4) (r : BitVec 2) (s : BitVec 2)
  /-- FENCE (R337): Orders earlier loads and named-colour stores and acquires at a scope. -/
  | fence (m : BitVec 8) (s : BitVec 2)
  /-- SETCLR (R338): Sets the group's store colour. -/
  | setclr (c : BitVec 3)
  /-- MON (R339): Adds lines to the group's armed monitor set. -/
  | mon (a : BitVec 7)
  /-- MON_CLR (R339): Empties the armed monitor set. -/
  | monClr
  /-- MWAIT (R340): Sleeps on the armed set and returns FIRED, TIMEOUT or EMPTY. -/
  | mwait (d : BitVec 5) (t : BitVec 5)
  /-- CEDE (R344): Closes the round and sleeps n rounds, or yields for n × 1,024 cycles in FREE mode. -/
  | cede (n : BitVec 16)
  /-- INVL1 (R345): Invalidates the core's L1, and the die's RDC at device or system scope. -/
  | invl1 (s : BitVec 2)
  /-- PREF (R346): Requests a line into the L1 or an outer level. -/
  | pref (a : BitVec 7) (v : BitVec 1)
  /-- QFENCE (R347): Orders later copies after earlier copies of the named queues. -/
  | qfence (q : BitVec 4)
  /-- CLKRD (R348): Reads the logical clock into a uniform pair. -/
  | clkrd (d : BitVec 5)
  /-- BINIT (R350): Initialises a transaction barrier. -/
  | binit (a : BitVec 5) (b : BitVec 5)
  /-- BEXP (R350): Adds expected bytes to a barrier. -/
  | bexp (a : BitVec 5) (b : BitVec 5)
  /-- BARV (R350): Arrives at a barrier, declaring bytes. -/
  | barv (a : BitVec 5) (b : BitVec 5)
  /-- BWAIT (R350): Waits until a barrier phase completes and returns its status. -/
  | bwait (a : BitVec 5) (b : BitVec 5) (c : BitVec 5) (l : BitVec 4)
  /-- BTEST (R350): Reports a barrier phase status without waiting. -/
  | btest (a : BitVec 5) (b : BitVec 5) (c : BitVec 5) (l : BitVec 4)
  /-- RINIT (R352): Initialises a slot ring header. -/
  | rinit (a : BitVec 5) (b : BitVec 5) (c : BitVec 5)
  /-- AWAITF (R352): Waits until ring slot n is filled and returns its handle. -/
  | awaitf (a : BitVec 5) (b : BitVec 5) (c : BitVec 5) (l : BitVec 4)
  /-- RELS (R352): Releases the oldest filled ring slot once. -/
  | rels (a : BitVec 5)
  /-- RSTAT (R352): Returns WIDX, RIDX and FILLED of a ring. -/
  | rstat (a : BitVec 5) (c : BitVec 5) (l : BitVec 4)
  /-- AWAITF_EMPTY (R352): Waits until ring slot n may be filled. -/
  | awaitfEmpty (a : BitVec 5) (b : BitVec 5) (c : BitVec 5) (l : BitVec 4)
  /-- CPY (R353): Starts a one-dimensional copy. -/
  | cpy (a : BitVec 5) (b : BitVec 5) (c : BitVec 5)
  /-- CPYT (R353): Starts a strided copy into scratchpad. -/
  | cpyt (a : BitVec 5) (b : BitVec 5) (c : BitVec 5)
  /-- CPYS (R353): Starts a copy out of scratchpad. -/
  | cpys (a : BitVec 5) (b : BitVec 5) (c : BitVec 5)
  /-- CPYM (R353): Starts a multicast copy to several ranks. -/
  | cpym (a : BitVec 5) (b : BitVec 5) (c : BitVec 5)
  /-- CPYR (R353): Starts a reducing copy that adds into its destination. -/
  | cpyr (a : BitVec 5) (b : BitVec 5) (c : BitVec 5)
  /-- BRA (R298): Guarded relative branch with rejoin-mask update. -/
  | bra (g : BitVec 4) (j : BitVec 4) (d : BitVec 18)
  /-- CALL (R299): Guarded relative call pushing the return address. -/
  | call (g : BitVec 4) (j : BitVec 4) (d : BitVec 18)
  /-- CALLI (R300): Indirect call through per-thread targets. -/
  | calli (a : BitVec 7)
  /-- BRI (R300): Indirect branch through per-thread targets. -/
  | bri (a : BitVec 7)
  /-- RET (R300): Returns by popping the return stack. -/
  | ret
  /-- JOIN (R204): Parks or releases threads at a reconvergence point. -/
  | join (j : BitVec 4)
  /-- JMRK (R302): Marks the issuing path's threads in a rejoin mask. -/
  | jmrk (j : BitVec 4)
  /-- JCLR (R302): Clears a rejoin mask. -/
  | jclr (j : BitVec 4)
  /-- JSAV (R302): Saves a rejoin mask to a thread register. -/
  | jsav (j : BitVec 4) (x : BitVec 7)
  /-- JRST (R302): Restores a rejoin mask from a thread register. -/
  | jrst (j : BitVec 4) (x : BitVec 7)
  /-- EXIT (R303): Exits the active threads and closes the round in ORDERED mode. -/
  | exit
  /-- YIELD (R304): Lets the lane choose another group. -/
  | yield
  /-- NOP (R304): Does nothing but add weight. -/
  | nop
  /-- MMA (R367): Matrix multiply-accumulate into the leader half of a tile. -/
  | mma (c : BitVec 3) (s : BitVec 3) (t : BitVec 3) (a : BitVec 5) (b : BitVec 5) (z : BitVec 1)
  /-- MMA2 (R367): Two-shot matrix multiply-accumulate into both halves of a tile. -/
  | mma2 (c : BitVec 3) (s : BitVec 3) (t : BitVec 3) (a : BitVec 5) (b : BitVec 5) (z : BitVec 1)
  /-- ACQA (R359): Acquires a tile's token for the group. -/
  | acqa (c : BitVec 3)
  /-- RELA (R359): Returns a tile's token to the MXU for the group. -/
  | rela (c : BitVec 3)
  /-- LDA (R370): Loads a tile from scratchpad. -/
  | lda (c : BitVec 3) (s : BitVec 3) (a : BitVec 5)
  /-- STA (R370): Stores a tile to scratchpad. -/
  | sta (c : BitVec 3) (s : BitVec 3) (a : BitVec 5)
  /-- DRAIN (R372): Converts a tile to an output format and writes it to scratchpad. -/
  | drain (c : BitVec 3) (s : BitVec 3) (t : BitVec 3) (a : BitVec 5)
  /-- ZACC (R370): Zeroes a tile. -/
  | zacc (c : BitVec 3)
  /-- ACCRD (R373): Reads tile elements into thread registers. -/
  | accrd (c : BitVec 3) (x : BitVec 6) (a : BitVec 5)
  /-- ACCWR (R373): Writes thread registers into tile elements. -/
  | accwr (c : BitVec 3) (x : BitVec 6) (a : BitVec 5)
  /-- SRD (R376): Reads a system register. -/
  | srd (x : BitVec 7) (i : BitVec 10)
  /-- SWR (R376): Writes a system register. -/
  | swr (x : BitVec 7) (i : BitVec 10)
  /-- TRAP (R377): Raises SOFTWARE after completing. -/
  | trap (n : BitVec 10)
  /-- BKPT (R377): Raises BREAKPOINT after completing. -/
  | bkpt (n : BitVec 10)
  /-- EMIT (R378): Sends a user telemetry event to the die's TCO. -/
  | emit (x : BitVec 7) (n : BitVec 10)
  /-- MIGR (R379): Closes the round and moves the group to the die homing an address. -/
  | migr (x : BitVec 7)
  /-- LAUNCH (R382): Launches a child grid and returns a status. -/
  | launch (x : BitVec 7) (g : BitVec 5)
  /-- HALTCTX (R384): Halts every other group of the context from the handler. -/
  | haltctx (c : BitVec 1) (g : BitVec 5)
  /-- RFT (R393): Returns from the trap handler and resumes the saved instruction. -/
  | rft
  /-- CYCRD (R387): Reads the die cycle counter. -/
  | cycrd (x : BitVec 7)
  /-- TRAP_DELIVERY (R390): A trap with SRC 1, 2 or 3 is delivered at the group's next instruction boundary. -/
  | trapDelivery (g : Nat)
  /-- WORKGROUP_START (R215): The distributor starts a workgroup or gang-starts a team once resources and predecessors allow. -/
  | workgroupStart (gd team core : Nat)
  /-- ROUND_APPLY (R121): Once every live group of a scope has closed round q, its contributions are applied in key order. -/
  | roundApply (dom : Nat)
  /-- GROUP_WAKE (R127): A sleeping group re-enters the cue minima at its wake round. -/
  | groupWake (g : Nat)
  /-- MWAIT_TIMEOUT (R340): The timeout of a FREE MWAIT expires and it returns TIMEOUT. -/
  | mwaitTimeout (g : Nat)
  /-- CEDE_EXPIRY (R344): The n × 1,024 cycles of a FREE CEDE elapse and the group issues again. -/
  | cedeExpiry (g : Nat)
  /-- DEADLOCK (R128): Every live group sleeps with nothing pending, so DEADLOCK is raised in the smallest-key sleeper. -/
  | deadlock (dom : Nat)
  /-- EXTERNAL_WRITE_LAND (R133): An external write lands at its home slice between two rounds of a domain. -/
  | externalWriteLand (i : Nat)
  /-- HOST_BAR_WRITE (R163): A host write through a BAR arrives and is performed at the home slice. -/
  | hostBarWrite (addr : Nat) (data : List (BitVec 8))
  /-- HOST_COMPLETION (R45): A host or peer completion returns for a non-posted access, with error completions raising ADDRESS. -/
  | hostCompletion (g : Nat) (status : BitVec 8) (data : List (BitVec 8))
  /-- LOAD_RESPONSE (R400): A load response returns, writing its destination unless its generation tag is stale. -/
  | loadResponse (g k : Nat)
  /-- STORE_PERFORM (R53): A FREE store is performed at its home slice or bank, setting FIRED bits of monitors. -/
  | storePerform (g k : Nat)
  /-- ATOMIC_PERFORM (R73): A FREE atomic is performed at the home slice's atomic unit or the owning bank. -/
  | atomicPerform (g k : Nat)
  /-- COPY_PERFORM (R173): A FREE copy is performed by the streamer after the previous copy of its queue has credited. -/
  | copyPerform (i : Nat) (status : BitVec 8)
  /-- MXU_COMPLETE (R368): An MXU instruction finishes and releases waiting ACQA, ACCRD and flag reads. -/
  | mxuComplete (core : Nat)
  /-- MIGR_ARRIVAL (R379): A migrating group takes a landing slot on the target core and runs again. -/
  | migrArrival (g core : Nat)
  /-- HALTCTX_COMPLETE (R384): In FREE mode HALTCTX completes and writes gs once every group has halted and copies are settled. -/
  | haltctxComplete (g : Nat)
  /-- TIER_MIGRATION (R102): Hardware moves an unpinned page between attic and cellar of its home die. -/
  | tierMigration (pte frame : Nat)
  /-- WAY_MOVE (R442): Every 2^20 Foyer cycles hardware may move one L2 way per slice between owners. -/
  | wayMove (slice src dst : Nat)
  /-- TIME_SLICE_SWITCH (R443): At the end of a SLICE the Foyer saves one time-sliced function and restores the next. -/
  | timeSliceSwitch
  /-- MACHINE_CHECK (R406): An uncorrectable error is delivered as ECC_UNCORRECTABLE and reported through AER. -/
  | machineCheck (unit : BitVec 4) (loc : BitVec 64)
  /-- FAULT_RING_WRITE (R94): A translation fault record is written to the function's fault ring once it has space and the group parks. -/
  | faultRingWrite (i : Nat)
  /-- TINV_PAGE (R92): TINV scope 0 invalidates the translations of one page. -/
  | tinvPage (f : Nat) (va : BitVec 55)
  /-- TINV_ASID (R92): TINV scope 1 invalidates the translations of one address space. -/
  | tinvAsid (f : Nat) (asid : BitVec 12)
  /-- TINV_FUNCTION (R92): TINV scope 2 invalidates every translation of the function. -/
  | tinvFunction (f : Nat)
  /-- TINV_COMPLETE (R92): Old translations are gone and their accesses performed, so TINVST.BUSY clears. -/
  | tinvComplete (f : Nat)
  /-- FACMD_BASE_FRAME (R98): Allocates and zeroes a base frame and writes a level-2 leaf. -/
  | facmdBaseFrame (frame : Nat)
  /-- FACMD_HUGE_FRAME (R98): Allocates a run of 8,192 frames and writes a level-1 leaf. -/
  | facmdHugeFrame (frame : Nat)
  /-- FACMD_TABLE_FRAME (R98): Allocates and zeroes a table frame and writes a pointer entry. -/
  | facmdTableFrame (frame : Nat)
  /-- FACMD_RELEASE (R99): Releases a frame after any migration, clearing P and invalidating the page. -/
  | facmdRelease
  /-- FREPLY_RETRY (R94): Resumes a parked group at RIX with a new walk, or continues a copy. -/
  | freplyRetry (f : Nat) (id : BitVec 32)
  /-- FREPLY_FAIL (R94): Delivers the fault's trap to a parked group, or abandons the copy. -/
  | freplyFail (f : Nat) (id : BitVec 32)
  /-- QCTL_ENABLE (R219): Setting QCTL.EN checks the queue and resets QHEAD, QTAIL and QDONE. -/
  | qctlEnable (q : Nat) (v : BitVec 64)
  /-- QCTL_DISABLE (R220): Clearing QCTL.EN stops fetching and cancels waiting packets. -/
  | qctlDisable (q : Nat) (v : BitVec 64)
  /-- QTAIL_DOORBELL (R219): A write of QTAIL makes packets visible to the queue engine. -/
  | qtailDoorbell (q : Nat) (v : BitVec 32)
  /-- PACKET_FETCH (R219): The queue engine fetches packet QHEAD and advances QHEAD. -/
  | packetFetch (q : Nat)
  /-- NOP_PACKET (R223): A NOP packet begins and completes at once. -/
  | nopPacket (q seq : Nat)
  /-- LAUNCH_PACKET (R193): A LAUNCH packet begins, reads and checks the launch record and starts the grid or refuses it. -/
  | launchPacket (q seq : Nat)
  /-- WAITSEQ (R223): A WAITSEQ packet begins once the named queue's QDONE reaches SEQ. -/
  | waitseq (q seq : Nat)
  /-- SIGNAL (R223): A SIGNAL packet stores 8 bytes once every earlier packet has completed. -/
  | signal (q seq : Nat)
  /-- QUIESCE_STOP (R232): QUIESCE OP 0 stops an ordering domain at the effective round. -/
  | quiesceStop (q seq : Nat)
  /-- QUIESCE_RESUME (R232): QUIESCE OP 1 lets a stopped domain continue from round e + 1. -/
  | quiesceResume (q seq : Nat)
  /-- QUIESCE_STOP_AND_SAVE (R232): QUIESCE OP 2 stops the domain and saves its shard. -/
  | quiesceStopAndSave (q seq : Nat)
  /-- DOMAIN_QUIESCED (R232): Once every scope has applied round e the domain stops and the QUIESCE completes with QUIESCED. -/
  | domainQuiesced (dom : Nat)
  /-- TELEM_ATTACH (R415): A TELEM packet reads, validates and attaches a filter program to a slot. -/
  | telemAttach (q seq : Nat)
  /-- TELEM_DETACH (R415): A TELEM packet frees a filter slot after runs already begun. -/
  | telemDetach (q seq : Nat)
  /-- GRID_COMPLETE (R229): When every group, child and counter of a grid has drained, the completion record is written, QDONE advanced and VEC raised. -/
  | gridComplete (gd : Nat)
  /-- PCTL_SAVE (R399): Stops every group of the queue's contexts within 0.15 µs and captures their state. -/
  | pctlSave (q : Nat)
  /-- SAVE_DONE (R399): Every byte of the save area has been written, so PSTAT.DONE is set. -/
  | saveDone (q : Nat)
  /-- PCTL_RESTORE (R401): Reads the save area and resumes every saved group, re-sending replay packets. -/
  | pctlRestore (q : Nat)
  /-- PCTL_DISCARD (R401): Ends a saved context with CANCELLED and frees its resources. -/
  | pctlDiscard (q : Nat)
  /-- PCR_ENABLE (R440): Writing PCR.EN := 1 stores the fields and enables the function if every check passes. -/
  | pcrEnable (f : Nat) (v : BitVec 64)
  /-- PCR_DISABLE (R440): Writing PCR.EN := 0 performs an FLR and disables the function. -/
  | pcrDisable (f : Nat) (v : BitVec 64)
  /-- PCR_FLR (R446): Writing PCR.FLR starts a function level reset. -/
  | pcrFlr (f : Nat) (v : BitVec 64)
  /-- PCIE_FLR (R446): A PCIe function level reset of a VF arrives on the link. -/
  | pcieFlr (f : Nat)
  /-- FLR_DONE (R446): The reset finishes, setting FLRSTAT.DONE and clearing BUSY. -/
  | flrDone (f : Nat)
  /-- PF_RESOURCE_WRITE (R488): A write of function 0's resource maps while enabled is checked against every other function. -/
  | pfResourceWrite (off : Nat) (v : BitVec 64)
  /-- TBUD_WRITE (R439): A TBUD write is ignored with PERR reason 5 when the budgets would exceed 262,144. -/
  | tbudWrite (f : Nat) (v : BitVec 64)
  /-- MERGE_SUM (R433): MERGE OP 0 sums state-memory words of named dies into TCO 8, saturating. -/
  | mergeSum (f : Nat) (v : BitVec 64)
  /-- MERGE_MAX (R433): MERGE OP 1 takes the bytewise maximum of state-memory words into TCO 8. -/
  | mergeMax (f : Nat) (v : BitVec 64)
  /-- REGISTER_WRITE (R14): A write to a register that has no row of its own. -/
  | registerWrite (off size : Nat) (v : BitVec 64)
  /-- TCO_RECORD_INTAKE (R417): An event record reaches a TCO and is sampled, charged and queued for each matching slot. -/
  | tcoRecordIntake (t : Nat)
  /-- TCO_RUN (R418): An engine performs a queued filter run in its tenant's allotted cycles. -/
  | tcoRun (t f : Nat)
  /-- BUDGET_WINDOW (R417): A window of 65,536 TCO cycles begins and USED returns to 0. -/
  | budgetWindow (t : Nat)
  /-- FABRIC_FLIT_RECEIVE (R457): A flit arrives on a fabric port and is served, reduced or dropped on a stale GEN. -/
  | fabricFlitReceive (w0 w1 : BitVec 64) (data : List (BitVec 8))
  /-- REDUCTION_RESULT (R463): The home package writes a completed reduction element to WRES. -/
  | reductionResult (w o : Nat)
  /-- BOOT (R452): At reset each die's boot ROM verifies and loads its firmware image. -/
  | boot (images : List (List (BitVec 8)))
  /-- SPDM_REQUEST (R453): The Foyer answers an SPDM request with signed measurements. -/
  | spdmRequest (req : List (BitVec 8))
  /-- COPY_SOURCE_READ_DONE (R126): The source reads and translations of an ORDERED copy finish, so its issuing group may close the round of issue. -/
  | copySourceReadDone (i : Nat)
  /-- BARRIER_NETWORK_ARRIVAL (R186): A FREE-mode BEXP, BARV or copy credit for a barrier on another rank arrives on the barrier network and is performed atomically at the owning core. -/
  | barrierNetworkArrival (i : Nat)
  /-- NACK_RETRY (R189): Hardware retries a NACKed request for a synchronisation resource, by ticket or after a quota-mode back-off, and it is accepted when a slot frees. -/
  | nackRetry (g : Nat)
  /-- CORRECTABLE_ERROR (R82): A soft error is corrected in place, or an L1 or RDC parity error discards and refills the line, and it is counted for telemetry. -/
  | correctableError (unit : BitVec 4) (loc : BitVec 64)
  /-- MERGE_COMPLETE (R434): A merge at TCO 8 finishes and MERGESTAT.BUSY clears. -/
  | mergeComplete (f : Nat)
  /-- TDISP_REQUEST (R454): A TDISP message from the host moves a VF's TDI into or out of the locked and run states. -/
  | tdispRequest (f : Nat) (msg : BitVec 8)
  deriving DecidableEq, Repr

end Sys2Proof
end

