-- ==== Sys2Proof/Machine/State.lean ====
section
/-!
DEFINITION. The state of one PK8 package as plain data, and the state after reset.

Lists of grids, workgroups and groups only grow: an index is an identity for life. Numbers that the manual
computes with as exact integers (clocks R111, keys R105, rounds R113, identifiers R105) are natural numbers;
register contents are bit vectors.
-/
namespace Sys2Proof.Machine

/-- Why the machine stops. A closed type without members: every stop the spec describes is a trap, which is
a next state, so no step faults (safe: nothing is hidden by a stop). -/
inductive Fault where
  deriving DecidableEq, Repr

/-- Why a step has no meaning in this model. -/
inductive Refusal where
  /-- The dispatcher raises it for an instruction without a meaning; no arm does (safe). -/
  | notModelled (mnemonic : String)
  deriving DecidableEq, Repr

/-- A trap: the fields of the trap record (R389). -/
structure Trap where
  /-- CODE (R388). -/
  code : BitVec 8
  /-- THREAD. -/
  thread : Nat
  /-- DETAIL. -/
  detail : BitVec 16
  /-- AUX. -/
  aux : Word
  /-- INFO. -/
  info : Dword
  /-- SRC. -/
  src : BitVec 2
  /-- WHOLE. -/
  whole : Bool
  deriving DecidableEq, Repr

/-- One take-buffer entry (R116): a line, its byte mask and data. -/
structure TakeEntry where
  /-- Scratchpad space, else global. -/
  scratch : Bool
  /-- The rank, for scratchpad. -/
  rank : Nat
  /-- Line number of the virtual address or of the scratchpad offset. -/
  line : Nat
  /-- Line number of the storage: device-physical, or of the scratchpad key. -/
  place : Nat
  /-- Bytes written. -/
  mask : BitVec 64
  /-- Their values. -/
  data : BitVec 512
  /-- Cache policy of the last store to the line, which applies when the line is published (R55). -/
  policy : Nat
  /-- The page is uncached (R56). -/
  uc : Bool
  /-- The entry lies in the overflow area of the core (R66). -/
  spilled : Bool
  deriving DecidableEq, Repr

/-- How an access goes to its home: whose it is, by which cache policy, and to what kind of page (R53 to R56, R71). -/
structure Via where
  /-- The tenant whose ways its lines may take. -/
  tenant : BitVec 6
  /-- XT.MEM policy: 0 default, 1 .BY, 2 .ST, 3 .NA (R266). -/
  policy : Nat
  /-- The page is uncached. -/
  uc : Bool
  /-- The page is read-only-shared. -/
  ros : Bool
  /-- The ordering domain of an ORDERED access. -/
  dom : Option Nat
  deriving DecidableEq, Repr

/-- Operations of ATOM and ATOMX (R334, R335). -/
inductive AtomOp where
  /-- Addition. -/
  | add
  /-- Signed minimum. -/
  | min
  /-- Signed maximum. -/
  | max
  /-- Unsigned minimum. -/
  | minz
  /-- Unsigned maximum. -/
  | maxz
  /-- And. -/
  | and
  /-- Or. -/
  | or
  /-- Exclusive or. -/
  | xor
  /-- Exchange. -/
  | exch
  /-- Compare and swap. -/
  | cas
  /-- FP32 addition. -/
  | fadd
  deriving DecidableEq, Repr

/-- An atomic of one thread: where, what, its operands and its destination (R334, R335). -/
structure AtomReq where
  /-- The thread. -/
  thread : Nat
  /-- The operation. -/
  op : AtomOp
  /-- 64 bits wide. -/
  wide : Bool
  /-- Scratchpad, else global. -/
  scratch : Bool
  /-- Device-physical address or scratchpad key of the first byte. -/
  addr : Nat
  /-- The value, compare or exchange operand. -/
  v : Dword
  /-- The new value of a CAS. -/
  n : Dword
  /-- Destination register. -/
  d : Nat
  deriving DecidableEq, Repr

/-- A memory access of a FREE group that has been issued and is not performed or answered yet (R53, R400; log 113).
Accesses are cut into units of 4 bytes unless .A8 or .A16 keeps them whole (R152). -/
structure Flight where
  /-- The group's generation tag when it was sent (R400). -/
  gen : BitVec 16
  /-- 0 load, 1 store, 2 atomic. -/
  kind : Nat
  /-- The thread. -/
  thread : Nat
  /-- A uniform destination. -/
  uni : Bool
  /-- First destination register. -/
  reg : Nat
  /-- First byte of the access that this piece covers. -/
  lo : Nat
  /-- Bytes of this piece. -/
  n : Nat
  /-- Bytes of the whole access. -/
  size : Nat
  /-- Sign-extension of the loaded value. -/
  sx : Bool
  /-- Scratchpad, else global. -/
  scratch : Bool
  /-- Device-physical address or scratchpad key of the piece. -/
  addr : Nat
  /-- Effective pointer of the whole access, kept for a replay packet (R400). -/
  ptr : Dword
  /-- Colour of a store (R156). -/
  colour : BitVec 3
  /-- How it goes to its home. -/
  via : Via
  /-- Data of a store piece. -/
  data : BitVec 128
  /-- The atomic. -/
  atom : Option AtomReq
  /-- It stands in the slot that the instance reserves for the group's core (R189). -/
  res : Bool
  deriving DecidableEq, Repr

/-- A host or peer access of one thread that waits for its completion (R45). -/
structure HostReq where
  /-- Effective pointer. -/
  ptr : Dword
  /-- Bytes. -/
  size : Nat
  /-- A store, else a load. -/
  store : Bool
  /-- The thread. -/
  thread : Nat
  /-- A uniform destination. -/
  uni : Bool
  /-- Destination register. -/
  reg : Nat
  /-- Sign-extension. -/
  sx : Bool
  /-- Store data. -/
  data : BitVec 128
  /-- The group's generation tag when it was sent (R400). -/
  gen : BitVec 16
  deriving DecidableEq, Repr

/-- An open lookahead window (R263). -/
structure Window where
  /-- First register. -/
  reg : Nat
  /-- A uniform register. -/
  uni : Bool
  /-- Registers: 1, 2 or 4. -/
  count : Nat
  /-- Issues that remain. -/
  left : Nat
  deriving DecidableEq, Repr

/-- A line of an armed set (R339). -/
structure ArmedLine where
  /-- Scratchpad, else global. -/
  scratch : Bool
  /-- Rank, for scratchpad. -/
  rank : Nat
  /-- Line number of the virtual address or offset. -/
  line : Nat
  /-- Line number of the storage. -/
  place : Nat
  /-- A write of another agent touched it since it was armed or last reported (R340). -/
  fired : Bool
  /-- Its monitor entry is the one that the core reserves (R189). -/
  res : Bool
  deriving DecidableEq, Repr

/-- What a sleeping group waits for (R127). -/
inductive SleepKind where
  /-- MWAIT; the status goes to this uniform register. -/
  | mwait (gd : Nat)
  /-- CEDE. -/
  | cede
  /-- BWAIT: result register, barrier handle, phase awaited to pass, TOVR is read at the wake. -/
  | bwait (gc : Nat) (handle : Word) (phase : Bool)
  /-- AWAITF or AWAITF.EMPTY: result register, ring handle, sequence number. -/
  | awaitf (gc : Nat) (handle n : Word) (empty : Bool)
  deriving DecidableEq, Repr

/-- A sleep, with what DEADLOCK needs to perform the instruction again (R394). -/
structure Sleep where
  /-- What is awaited. -/
  kind : SleepKind
  /-- Address of the instruction. -/
  pc : Nat
  /-- The threads that issued it. -/
  mask : Word
  deriving DecidableEq, Repr

/-- A credit of a landed copy that the barrier network has refused (R186, R189). -/
structure Credit where
  /-- The barrier's handle. -/
  handle : Word
  /-- Its core: the instance. -/
  inst : Nat
  /-- NACKs so far. -/
  count : Nat
  /-- Ticket held. -/
  ticket : Option Nat
  deriving DecidableEq, Repr

/-- A copy (R168 to R178). -/
structure Copy where
  /-- Issuing group. -/
  group : Nat
  /-- Its workgroup. -/
  wg : Nat
  /-- COPY fn code: 0 CPY, 1 CPYT, 2 CPYS, 3 CPYM, 4 CPYR. -/
  form : Nat
  /-- The descriptor as read at issue (R168). -/
  desc : BitVec 512
  /-- Descriptor handle. -/
  dhandle : Word
  /-- Completion handle. -/
  chandle : Word
  /-- Slot sequence number. -/
  n : Word
  /-- Round of issue. -/
  round : Nat
  /-- Thread whose private region SRC and DST name (R171). -/
  thread : Nat
  /-- Source elements, in loop order; `none` until they are read (R126). -/
  data : Option (List Dword)
  /-- Device-physical addresses of the destination elements, translated with the source (R177); of a copy whose ring slots
  are filled, the ranks at which they are. -/
  dest : List Nat
  /-- Uncached pages of the destination, as numbers of 65,536 bytes (R56). -/
  uncached : List Nat
  /-- 0 outstanding, 1 landed, 2 cancelled, 3 abandoned, 4 waits for a fault reply, 5 its ring slots are filled and not
  landed yet (R181), 6 its bytes are written and some of its credits are refused (R189). -/
  st : Nat
  /-- The refused credits. -/
  credits : List Credit
  /-- Trap of an abandoned ORDERED copy, due at its producer's round-closing point (R178). -/
  due : Option Trap
  deriving DecidableEq, Repr

/-- An ordered operation of a round (R120, R125). -/
inductive OrdOp where
  /-- An atomic. -/
  | atom (r : AtomReq)
  /-- BINIT. -/
  | binit (handle : Word) (count : Nat) (tovr : Bool)
  /-- BEXP. -/
  | bexp (handle : Word) (bytes : Nat)
  /-- BARV. -/
  | barv (handle : Word) (bytes : Nat)
  /-- RINIT. -/
  | rinit (handle base cfg : Word)
  /-- RELS. -/
  | rels (handle : Word)
  /-- Landing of a copy, by its index. -/
  | land (copy : Nat)
  /-- Bytes written by STA or DRAIN at a scratchpad key (R371). -/
  | bytes (key : Nat) (data : List Byte)
  /-- RELA (R361). -/
  | rela (tile : Nat)
  /-- ACQA that took effect at once in the issuer's view (R361). -/
  | acqa (tile : Nat)
  /-- ACQA deferred to the end of the round (R361). -/
  | acqaLate (tile : Nat)
  deriving DecidableEq, Repr

/-- The contribution of a group to a round (R120). -/
structure Contribution where
  /-- The round. -/
  round : Nat
  /-- The group. -/
  group : Nat
  /-- Buffered bytes. -/
  take : List TakeEntry
  /-- Ordered operations, in program order. -/
  ops : List OrdOp
  deriving DecidableEq, Repr

/-- Group states (R211); PRE-EMPTED is a property of the grid. -/
inductive GroupState where
  /-- Issues. -/
  | running
  /-- Sleeps (R127). -/
  | sleeping
  /-- Parked on a translation fault (R94). -/
  | parked
  /-- In its trap handler (R391). -/
  | handler
  /-- On its way to another core (R379). -/
  | migrating
  /-- All threads have exited, or the context was halted. -/
  | retired
  deriving DecidableEq, Repr

/-- A refused request for a synchronisation resource (R189). -/
structure Nack where
  /-- Class: 0 monitor entry, 1 MIGR landing slot, 2 slice atomic unit, 3 barrier-network entry (R411). -/
  unit : Nat
  /-- Instance: core, die, slice or core. -/
  inst : Nat
  /-- NACKs so far. -/
  count : Nat
  /-- The group's armed set is to be taken again, after a restore or a move (R343). -/
  again : Bool
  /-- A slot has been found: the request is made again as the instruction goes on. -/
  granted : Bool
  deriving DecidableEq, Repr

/-- What an instruction whose walk is interrupted has decided so far (R110, R117, R305). -/
structure WalkMem where
  /-- Threads that a branch or call has moved to its target. -/
  taken : Word
  /-- Threads it has moved to the next word. -/
  kept : Word
  /-- The quota decision has been made. -/
  quota : Bool
  /-- A host or MMIO access has been made: the round closes after the instruction. -/
  close : Bool
  deriving DecidableEq, Repr

/-- Nothing decided. -/
def WalkMem.none : WalkMem := ⟨0, 0, false, false⟩

/-- One group: 32 threads (R191). -/
structure Group where
  /-- Its grid. -/
  grid : Nat
  /-- Its workgroup. -/
  wg : Nat
  /-- GIX. -/
  gix : Nat
  /-- State (R211). -/
  st : GroupState
  /-- Generation tag (R400). -/
  gen : BitVec 16
  /-- GSR.PRIV (R214). -/
  priv : BitVec 2
  /-- GSR.JF. -/
  jf : Bool
  /-- GSR.CLR. -/
  clr : BitVec 3
  /-- GSR.RIX. -/
  rix : BitVec 5
  /-- Logical clock (R108). -/
  lc : Nat
  /-- FX (R241). -/
  fx : BitVec 7
  /-- Flags of MXU work of this round, seen from the next (R374). -/
  fxLater : BitVec 7
  /-- Exited threads. -/
  exited : Word
  /-- Parked threads. -/
  parked : Word
  /-- LAUNCH issues so far (R227). -/
  nlaunch : Nat
  /-- Children accepted in the current round: their number and the round (R383). -/
  launched : Nat × Nat
  /-- TRAPREC0 to TRAPREC3 (R389). -/
  trapRec : BitVec 128
  /-- Armed lines (R339). -/
  armed : List ArmedLine
  /-- Round m of the armed set (R340). -/
  monRound : Nat
  /-- Open windows (R263). -/
  windows : List Window
  /-- j0 to j14 (R203). -/
  j : Sparse 32
  /-- p0 to p6, a mask of threads each. -/
  p : Sparse 32
  /-- g1 to g31. -/
  g : Sparse 32
  /-- Thread registers, key 128 × thread + register. -/
  x : Sparse 32
  /-- Per-thread PC. -/
  pc : Sparse 64
  /-- Per-thread SPB. -/
  spb : Sparse 32
  /-- Per-thread RSD. -/
  rsd : Sparse 32
  /-- On-chip return-stack entries, key 4 × thread + (entry − 1) mod 4 (R206). -/
  rst : Sparse 64
  /-- Exchange snapshot: a of thread t at t, d at 32 + t (R321). -/
  snap : Sparse 32
  /-- Saved PCs (R391). -/
  savedPc : Sparse 64
  /-- Saved parked mask. -/
  savedParked : Word
  /-- Take buffer of the current round (R116). -/
  take : List TakeEntry
  /-- Ordered operations of the current round (R120). -/
  ops : List OrdOp
  /-- Accesses in flight (FREE). -/
  flight : List Flight
  /-- PC of the path that issues next (R200). -/
  sel : Nat
  /-- The same, as it stood when the handler was entered (R393). -/
  savedSel : Nat
  /-- Thread at which the interrupted walk goes on, if one is interrupted (R110). -/
  walkFrom : Option Nat
  /-- The trap that the group handles is that of a load sent again: where the interrupted walk stood (R93, R400; log 109). -/
  savedFrom : Option (Option Nat)
  /-- What the interrupted instruction has decided so far. -/
  walk : WalkMem
  /-- The same of the instruction at the saved PC, while in the handler. -/
  savedWalk : WalkMem
  /-- Traps that wait for an instruction boundary (R390). -/
  pend : List Trap
  /-- The sleep, when asleep. -/
  sleep : Option Sleep
  /-- Known wake round (R127). -/
  wake : Option Nat
  /-- Host access under way (R45). -/
  hostReq : Option HostReq
  /-- A refused request for a synchronisation resource (R189). -/
  nack : Option Nack
  /-- Ticket held: class, instance and number (R189). -/
  ticket : Option (Nat × Nat × Nat)
  /-- The landing slot of its MIGR is the one that the die reserves for its core (R189). -/
  landing : Bool
  /-- Physical core, 144 × die + core. -/
  core : Nat
  /-- Lane of the core (R199). -/
  lane : Nat
  /-- Group slot of the lane (R199). -/
  gslot : Nat
  /-- Target die of a MIGR. -/
  target : Nat
  /-- The group has issued HALTCTX (R386). -/
  halter : Bool
  /-- A HALTCTX of this FREE group waits for its end: the register gs, copies to drain, copies cancelled (R384). -/
  haltWait : Option (Nat × Nat × Nat)
  /-- A fault id under which the group is parked (R94). -/
  faultId : Option Word
  /-- The group was halted rather than retired by EXIT: its state is kept (R384, R395). -/
  halted : Bool
  /-- A round that is closed as soon as the copies issued in it have read their sources (R177). -/
  closing : Option Nat
  deriving DecidableEq, Repr

/-- Where a tile's token is (R359). -/
inductive Token where
  /-- At the MXU for a user group. -/
  | mxu (user : Nat)
  /-- Held by a group. -/
  | held (by' : Nat)
  deriving DecidableEq, Repr

/-- A workgroup that has started (R191, R194). -/
structure Workgroup where
  /-- Its grid. -/
  grid : Nat
  /-- Linear identifier (R105). -/
  id : Nat
  /-- Slot of its logical core (R194). -/
  slot : Nat
  /-- Index of the first workgroup of its team. -/
  team : Nat
  /-- Home core (the leader of a pair), 144 × die + core. -/
  core : Nat
  /-- Tokens of a0 to a7, by GIX (R359). -/
  tokens : List Token
  /-- Every group has retired. -/
  retired : Bool
  /-- Largest LC at which a group retired (R129). -/
  lastLc : Nat
  /-- Cancelled copies (R384, R405). -/
  cancelled : List Nat
  /-- QFENCE marks: queues named, and the number of copies issued before it (R173). -/
  qfences : List (BitVec 4 × Nat)
  deriving DecidableEq, Repr

/-- States of a grid. -/
inductive GridState where
  /-- Runs. -/
  | running
  /-- Stopped by QUIESCE after a round (R232). -/
  | stopped
  /-- Its contexts are saved (R399). -/
  | saved
  /-- Complete. -/
  | done
  deriving DecidableEq, Repr

/-- A trap that ends a context (R395): round, group, trap, and whether it is a double fault. -/
structure Ending where
  /-- Round in which it fell. -/
  round : Nat
  /-- The group. -/
  group : Nat
  /-- The trap record. -/
  trap : Trap
  /-- A double fault (R396). -/
  double : Bool
  deriving DecidableEq, Repr

/-- A grid: one accepted launch (R192, R222). -/
structure Grid where
  /-- The launch record as used (256 bytes). -/
  lrec : List Byte
  /-- Function. -/
  fn : Nat
  /-- Package-wide queue number. -/
  queue : Nat
  /-- Sequence number of the LAUNCH; for a child, its identifier in PKEY. -/
  seq : Nat
  /-- IMAGE (R222). -/
  image : List Byte
  /-- Usable dies, ascending (R226). -/
  dies : List Nat
  /-- PINMODE (R222). -/
  pin : Bool
  /-- Parent grid, for a child (R227). -/
  parent : Option Nat
  /-- Key of the parent group followed by the call index (R106); empty for a queue-launched grid. -/
  key : List Nat
  /-- The queue-launched grid above it (itself when it is one). -/
  root : Nat
  /-- Levels below the queue-launched grid. -/
  depth : Nat
  /-- Level-0 table (R85). -/
  table : Nat
  /-- Address space. -/
  asid : BitVec 12
  /-- Tenant. -/
  tenant : BitVec 6
  /-- Supervisor grid (R487). -/
  sup : Bool
  /-- Memory as it stood when the launch was accepted, from which instructions are fetched (R258). -/
  code : Sparse 8
  /-- Round at which its first workgroups are born (R131). -/
  birth : Nat
  /-- Next team to offer (R217). -/
  nextTeam : Nat
  /-- State. -/
  st : GridState
  /-- MODEL: its contexts are saved because the time slice of its function has ended (R443), not by a SAVE. -/
  sliced : Bool
  /-- The save area that holds it: the function whose addresses it lies at, and its address (R399, R403). -/
  area : Option (Nat × Nat)
  /-- Completion status and detail, once known. -/
  status : Option (Nat × Dword)
  /-- FX of the groups retired so far (R230). -/
  fx : BitVec 7
  /-- External input was admitted (R134). -/
  ext : Bool
  /-- A completion record was lost (R229). -/
  crecLost : Bool
  /-- A machine check was received (R406). -/
  mcheck : Bool
  /-- Domain: rounds applied so far (R121); kept in the root. -/
  applied : Nat
  /-- Domain: the highest round that one of its groups has closed, plus one (R128, R232). -/
  closed : Nat
  /-- Domain: lines of device memory that loads of the present round have read (R133). -/
  reads : List Nat
  /-- Domain: lines of device memory that it has read during its life (R133, R411). -/
  seen : List Nat
  /-- Domain: lines of device memory that others have written after loads of the present round had read them: what each
  held before, and the bytes written since; to the domain those land after the round (R133; log 16). -/
  old : List (Nat × BitVec 512 × BitVec 64)
  /-- Domain: contributions not yet applied. -/
  contribs : List Contribution
  /-- Domain: HALTCTX in effect: round h and issuer (R385). -/
  halt : Option (Nat × Nat)
  /-- Domain: traps that end the context (R395). -/
  ending : List Ending
  /-- Domain: each QUIESCE that has begun and not been resumed from: effective round and the packet's index (R232). -/
  quiesce : List (Nat × Nat)
  /-- Domain: lines of device memory that others have written during its life (R134). -/
  extLines : List Nat
  /-- Domain: frames that frame changes have zeroed during its life: first, and how many (R133, R134). -/
  extFrames : List (Nat × Nat)
  /-- Domain: writes that a monitor's round m may look back to (R127, R340): round plus one, scratchpad, line of the
  storage, and the writing group (2^64 for another agent). -/
  wrote : List (Nat × Bool × Nat × Nat)
  deriving DecidableEq, Repr

/-- States of a packet (R223). -/
inductive PacketState where
  /-- Fetched. -/
  | fetched
  /-- Waiting. -/
  | waiting
  /-- Begun. -/
  | begun
  /-- Done. -/
  | done
  deriving DecidableEq, Repr

/-- A fetched packet (R221 to R223). -/
structure Packet where
  /-- Package-wide queue. -/
  queue : Nat
  /-- Sequence number. -/
  seq : Nat
  /-- The eight words. -/
  words : List Dword
  /-- State. -/
  st : PacketState
  /-- The grid of a LAUNCH. -/
  grid : Option Nat
  /-- Enabling of the queue under which it was fetched still holds. -/
  live : Bool
  deriving DecidableEq, Repr

/-- A cached translation (R91). -/
structure TlbEntry where
  /-- Function. -/
  fn : Nat
  /-- Address space. -/
  asid : BitVec 12
  /-- Virtual page of 64 KiB. -/
  page : Nat
  /-- Device-physical address of the page. -/
  base : Nat
  /-- Effective attributes as a leaf entry holds them (R86, R90). -/
  attr : Dword
  /-- Device-physical address of the leaf whose D bit a write sets. -/
  leaf : Nat
  /-- For a VF, address of the stage-2 leaf and the guest page. -/
  leaf2 : Option (Nat × Nat)
  /-- Level of the leaf whose attributes are the context's own: stage 1 (R85). -/
  level : Nat
  /-- For a VF, stage 1's own leaf and the level of the stage-2 leaf (R90, R95). -/
  guest : Option (Dword × Nat)
  /-- D is known to be set. -/
  dirty : Bool
  deriving DecidableEq, Repr

/-- A sector of 32 bytes that an L1 or an RDC holds: a clean copy (R52, R57, R75). -/
structure Sector where
  /-- Core (L1) or die (RDC). -/
  owner : Nat
  /-- Device-physical address divided by 32. -/
  sector : Nat
  /-- Its bytes. -/
  data : BitVec 256
  /-- The page is read-only-shared (R62). -/
  ros : Bool
  /-- Way of its set in which its line stands (R51). -/
  way : Nat
  /-- Tenant whose line it is (R71, R444). -/
  tenant : BitVec 6
  /-- Evicted first: policy .ST (R55). -/
  first : Bool
  /-- Ordering domain, and the number of its rounds that the line reflects; `none` when a FREE access filled it (R60). -/
  round : Option (Nat × Nat)
  deriving DecidableEq, Repr

/-- A sector of 32 bytes that the L2 of its home die holds (R52, R71, R72). Its bytes are those of State.mem, which is
memory as the home serves it; what the frame below still holds stands here. -/
structure HomeSector where
  /-- Device-physical address divided by 32. -/
  sector : Nat
  /-- Way of its set in which its line stands. -/
  way : Nat
  /-- Tenant that owns the way. -/
  tenant : BitVec 6
  /-- Evicted first: policy .ST (R55). -/
  first : Bool
  /-- Written since it was filled: it goes to the frame when it leaves (R72). -/
  dirty : Bool
  /-- The bytes of the frame under it. -/
  frame : BitVec 256
  deriving DecidableEq, Repr

/-- A frame the allocator has handed out at some time (R98 to R100). -/
structure Frame where
  /-- Device-physical address divided by 65,536. -/
  frame : Nat
  /-- Last owner. -/
  tenant : BitVec 6
  /-- Last owner's address space. -/
  asid : BitVec 12
  /-- Held at present. -/
  held : Bool
  /-- Function whose quota it counts against. -/
  fn : Nat
  /-- Address of the entry that names it. -/
  back : Nat
  /-- A table frame. -/
  table : Bool
  deriving DecidableEq, Repr

/-- A translation fault that waits for a record or a reply (R94, R95). -/
structure FaultEntry where
  /-- FAULTID. -/
  id : Word
  /-- Function. -/
  fn : Nat
  /-- Words 0 to 2 of the record. -/
  words : List Dword
  /-- The group, for a thread's fault. -/
  group : Option Nat
  /-- The copy, for a streamer's fault. -/
  copy : Option Nat
  /-- The trap that FAIL delivers. -/
  trap : Trap
  /-- The record has been written. -/
  written : Bool
  /-- A reply to it, RETRY (true) or FAIL, that came while the context was saved: it takes effect at the restore (R211). -/
  reply : Option Bool
  deriving DecidableEq, Repr

/-- An accepted MXU instruction, its operand bytes read (R368, R369). -/
structure MxuOp where
  /-- Physical core of the MXU. -/
  core : Nat
  /-- Issuing group. -/
  group : Nat
  /-- 0 MMA, 1 MMA2, 2 LDA, 3 STA, 4 DRAIN, 5 ZACC. -/
  kind : Nat
  /-- Tile. -/
  tile : Nat
  /-- Zero first. -/
  zero : Bool
  /-- Slots sa and sb. -/
  sa : Nat
  /-- Slot sb. -/
  sb : Nat
  /-- Handles. -/
  ha : Word
  /-- Handle of B. -/
  hb : Word
  /-- Operand A, or the source of LDA. -/
  a : List Byte
  /-- Operand B of each half taking part. -/
  b : List (List Byte)
  /-- Store colour at issue. -/
  colour : BitVec 3
  /-- The instruction word, as a save area holds it (R405). -/
  word : Word
  deriving DecidableEq, Repr

/-- A message of the barrier network (R186). -/
structure BarMsg where
  /-- The group it belongs to. -/
  group : Nat
  /-- 0 BEXP, 1 BARV, 2 credit. -/
  kind : Nat
  /-- Handle. -/
  handle : Word
  /-- Bytes. -/
  bytes : Nat
  /-- It stands in the entry reserved for the core that sent it (R189). -/
  res : Bool
  deriving DecidableEq, Repr

/-- An event record on its way to a TCO (R410). -/
structure TcoRecord where
  /-- The TCO. -/
  tco : Nat
  /-- W3 to W0. -/
  bits : BitVec 128
  deriving DecidableEq, Repr

/-- A charged filter run (R417). -/
structure TcoRun where
  /-- The TCO. -/
  tco : Nat
  /-- Function. -/
  fn : Nat
  /-- Slot. -/
  slot : Nat
  /-- The record. -/
  bits : BitVec 128
  /-- The program as it stood. -/
  prog : List Word
  /-- Where the run stands: the next instruction, and f0 to f7; zero and zeros until an engine takes it (R418, R419). -/
  pc : Nat
  /-- f0 to f7. -/
  regs : List Word
  deriving DecidableEq, Repr

/-- An attached filter (R415). -/
structure TcoSlot where
  /-- The TCO. -/
  tco : Nat
  /-- Slot. -/
  slot : Nat
  /-- Function. -/
  fn : Nat
  /-- Event kind. -/
  kind : Nat
  /-- Sampling exponent. -/
  sample : Nat
  /-- Sampling counter. -/
  count : Word
  /-- Instruction words. -/
  prog : List Word
  /-- Enabled. -/
  enabled : Bool
  /-- Runs performed. -/
  runs : Word
  /-- A DETACH waits for the runs begun: the slot takes no record (R415, R223). -/
  leaving : Bool
  deriving DecidableEq, Repr

/-- One partial node of a reduction element (R461, R462). -/
structure ReduceNode where
  /-- Window. -/
  win : Nat
  /-- Element offset. -/
  off : Nat
  /-- First rank. -/
  lo : Nat
  /-- Ranks. -/
  n : Nat
  /-- Value. -/
  v : Word
  deriving DecidableEq, Repr

/-- A flit sent to another package (R457). -/
structure FlitOut where
  /-- Header word 0. -/
  w0 : Dword
  /-- Header word 1. -/
  w1 : Dword
  /-- Payload. -/
  data : List Byte
  deriving DecidableEq, Repr

/-- TDISP states of a TDI (R454). -/
inductive TdiState where
  /-- Configuration unlocked. -/
  | unlocked
  /-- Configuration locked. -/
  | locked
  /-- Run. -/
  | run
  /-- Error. -/
  | error
  deriving DecidableEq, Repr

/-- A logic die: the Foyer (index 8) or a shader die (R451, R452). -/
structure Die where
  /-- Its firmware has been loaded. -/
  up : Bool
  /-- Security version of the loaded image. -/
  svn : Word
  /-- Its digest. -/
  digest : List Byte
  /-- Minimum SVN in the fuses. -/
  fuse : Word
  /-- Cycle counter (R139). -/
  cyc : Dword
  deriving DecidableEq, Repr

/-- A write of another agent that has not landed (R133): at most one line. -/
structure ExtWrite where
  /-- Device-physical address. -/
  addr : Nat
  /-- Bytes. -/
  data : List Byte
  /-- A posted write of the host, which lands in the order of PCIe (R163). -/
  host : Bool
  deriving DecidableEq, Repr

/-- A SAVE whose bytes are still to be written (R399). -/
structure SaveJob where
  /-- Queue. -/
  queue : Nat
  /-- PAREA as it stood when the command was written. -/
  area : Dword
  /-- An uncorrectable error has been met while saving (R402). -/
  bad : Bool
  deriving DecidableEq, Repr

/-- A register write that is an event of its own: the row of the opcode table that bears its name performs it. -/
inductive Command where
  /-- TINV of one page. -/
  | tinvPage (f : Nat) (va : BitVec 55)
  /-- TINV of an address space. -/
  | tinvAsid (f : Nat) (asid : BitVec 12)
  /-- TINV of a function. -/
  | tinvFunction (f : Nat)
  /-- FREPLY RETRY. -/
  | freplyRetry (f : Nat) (id : Word)
  /-- FREPLY FAIL. -/
  | freplyFail (f : Nat) (id : Word)
  /-- QCTL with EN set. -/
  | qctlEnable (q : Nat) (v : Dword)
  /-- QCTL with EN clear. -/
  | qctlDisable (q : Nat) (v : Dword)
  /-- QTAIL. -/
  | qtail (q : Nat) (v : Word)
  /-- PCTL SAVE. -/
  | pctlSave (q : Nat)
  /-- PCTL RESTORE. -/
  | pctlRestore (q : Nat)
  /-- PCTL DISCARD. -/
  | pctlDiscard (q : Nat)
  /-- PCR with EN set. -/
  | pcrEnable (f : Nat) (v : Dword)
  /-- PCR with EN clear. -/
  | pcrDisable (f : Nat) (v : Dword)
  /-- PCR with FLR set. -/
  | pcrFlr (f : Nat) (v : Dword)
  /-- A resource map of function 0. -/
  | pfResource (off : Nat) (v : Dword)
  /-- TBUD. -/
  | tbud (f : Nat) (v : Dword)
  /-- MERGE OP 0. -/
  | mergeSum (f : Nat) (v : Dword)
  /-- MERGE OP 1. -/
  | mergeMax (f : Nat) (v : Dword)
  /-- Any other register. -/
  | register (off size : Nat) (v : Dword)
  deriving DecidableEq, Repr

/-- Which agent moves next. -/
inductive Item where
  /-- A group issues. -/
  | issue (group : Nat)
  /-- A group issues, and its walk stops before a thread (R399). -/
  | issueTo (group thread : Nat)
  /-- A device event. -/
  | event (e : Instr)
  /-- The host writes its own memory. -/
  | hostWrite (addr : Nat) (data : List Byte)
  /-- The host answers with an error completion at these bus addresses from now on. -/
  | hostErr (ranges : List (Nat × Nat))
  /-- Hardware drops a cached sector of an L1 (R57). -/
  | evictL1 (core sector : Nat)
  /-- Hardware drops a cached sector of an RDC (R75). -/
  | evictRdc (die sector : Nat)
  /-- Hardware drops a sector of the L2, and writes it to its frame when it is dirty (R72). -/
  | evictL2 (sector : Nat)
  /-- Hardware drops a cached translation (R91). -/
  | evictTlb (index : Nat)
  deriving DecidableEq, Repr

/-- The state of the package. -/
structure State where
  /-- Device memory as its home slices serve it, by device-physical address (R53, R83). -/
  mem : Sparse 8
  /-- Host memory by bus address (R43): the device and the host write it. -/
  host : Sparse 8
  /-- Bus addresses at which the host answers with an error completion: first, and how many (R45, R219). -/
  hostErr : List (Nat × Nat)
  /-- Scratchpads, key (2 × workgroup + half) × 2^19 + offset (R24). -/
  scratch : Sparse 8
  /-- Accumulator tiles, key (2 × workgroup + half) × 32,768 + 4,096 × tile + element (R358). -/
  tiles : Sparse 32
  /-- L1 sectors (R57). -/
  l1 : List Sector
  /-- RDC sectors (R75). -/
  rdc : List Sector
  /-- L2 sectors (R71, R72). -/
  l2 : List HomeSector
  /-- Translations (R91). -/
  tlb : List TlbEntry
  /-- Control registers: 32-bit words by MMIO offset ÷ 4 (R48). -/
  regs : Sparse 32
  /-- Frames (R98). -/
  frames : List Frame
  /-- Translation faults (R94). -/
  faults : List FaultEntry
  /-- Next FAULTID of each function (R95, R444). -/
  faultNext : Sparse 32
  /-- Grids. -/
  grids : List Grid
  /-- Workgroups. -/
  wgs : List Workgroup
  /-- Groups. -/
  groups : List Group
  /-- Packets. -/
  packets : List Packet
  /-- The rotation of the queue engine: of a priority level, the queue served last and how many packets it has begun in
  its turn (R224). -/
  served : List (Nat × Nat × Nat)
  /-- Copies. -/
  copies : List Copy
  /-- MXU queues, in issue order. -/
  mxu : List MxuOp
  /-- Barrier network. -/
  barNet : List BarMsg
  /-- External writes not landed. -/
  ext : List ExtWrite
  /-- Event records on their way. -/
  tcoIn : List TcoRecord
  /-- Charged runs. -/
  tcoRuns : List TcoRun
  /-- Attached filters. -/
  slots : List TcoSlot
  /-- State memory, key (32 × TCO + function) × 4,096 + word (R425). -/
  tcoMem : Sparse 32
  /-- Engine cycles that a function has used in the present window of a TCO, key 32 × TCO + function (R419). -/
  tcoCycles : Sparse 32
  /-- Vectors and HALTDUMPs a TCO raised in this window: TCO, function, vector (2,048 for HALTDUMP) (R430). -/
  trigDone : List (Nat × Nat × Nat)
  /-- A merge under way: function and command (R433). -/
  merges : List (Nat × Dword)
  /-- MSI-X vectors raised: function and vector, oldest first. -/
  irqs : List (Nat × Nat)
  /-- Saves under way. -/
  saves : List SaveJob
  /-- Queues whose RESTORE waits for resources (R401). -/
  restores : List Nat
  /-- Areas that a SAVE of a queue wrote and whose contexts are saved no longer: queue and CHECK (R401, R465). -/
  spent : List (Nat × Dword)
  /-- Queues whose SAVE found no context: no LAUNCH of theirs begins until software acts on them (R449; log 120). -/
  heldQueues : List Nat
  /-- Functions under reset (R446). -/
  flr : List Nat
  /-- Reduction nodes (R461). -/
  reduce : List ReduceNode
  /-- Nodes that have been sent to their home: window, element offset, first rank, ranks (R460, R462). -/
  sent : List (Nat × Nat × Nat × Nat)
  /-- Flits sent. -/
  fabricOut : List FlitOut
  /-- SPDM answers sent. -/
  spdmOut : List (List Byte)
  /-- Errors reported through AER: function and location (R407). -/
  aer : List (Nat × Nat)
  /-- Level-0 table of stage 2, by function (R90; log 15). -/
  stage2 : List Nat
  /-- TDISP states by function (R454). -/
  tdi : List TdiState
  /-- Logic dies; the Foyer is entry 8. -/
  dies : List Die
  /-- The Foyer has reported the package as failed (R452). -/
  failed : Bool
  /-- Time-sliced function that runs at present (R443). -/
  slice : Nat
  /-- Poisoned granules of 8 bytes (R406): structure, and address or scratchpad key divided by 8. -/
  poison : List (Nat × Nat)
  /-- Next ticket of a tenant at an instance of a synchronisation resource, key 64 × (2,048 × class + instance) + tenant
  (R189, R444; log 119). -/
  tickets : Sparse 32
  /-- Register writes that have been accepted and are performed next, in order (R50, R163). -/
  posted : List Command
  /-- MODEL: agents to move, in order. -/
  agenda : List Item
  /-- MODEL: group in issue. -/
  cur : Nat
  /-- MODEL: address of the instruction in issue (of its XT prefix when it has one). -/
  at' : Nat
  /-- MODEL: instruction word in issue. -/
  ir : Word
  /-- MODEL: the XT word in front of it. -/
  pfx : Option Word
  /-- MODEL: the thread before which the walk of the issue under way stops. -/
  cut : Option Nat
  /-- MODEL: FREE accesses stay in flight until an event performs them. -/
  late : Bool
  /-- MODEL: counter of the free values. -/
  fv : Nat
  /-- MODEL: counter of the free values of telemetry records, apart so that no filter changes what a context reads
  (R413). -/
  tv : Nat
  deriving DecidableEq, Repr

/-- Words of a register block as table entries: zeros are left out. -/
def regEntries (base : Nat) : List Word → Sparse 32
  | [] => []
  | v :: r => if v = 0 then regEntries (base + 1) r else (base, v) :: regEntries (base + 1) r

/-- Reset values of the control registers (R437): the physical function owns everything; all others are zero. -/
def regsReset : Sparse 32 :=
  regEntries (0x01000000 / 4)
    ([1, 0, 0xFFFFFFFF, 0xFFFF] ++ List.replicate 6 0xFFFFFFFF ++ List.replicate 8 0xFFFFFFFF ++
      [0x1010, 0, 65536, 0, 0, 0, 0, 0, 0, 0, 0, 0, 0, 0] ++
      (List.replicate 8 [45056, 0, 2359296, 0]).flatten ++ List.replicate 18 0xFFFFFFFF) ++
  regEntries (0x01000200 / 4) (List.replicate 64 0xFFFFFFFF)

/-- The package right after reset: every die held in reset until its firmware loads (R452), no queue enabled,
registers at their reset values. Fields without a reset value in the spec: logs 1 to 9. -/
def State.reset : State where
  mem := []
  host := []
  hostErr := []
  scratch := []
  tiles := []
  l1 := []
  rdc := []
  l2 := []
  tlb := []
  regs := regsReset
  frames := []
  faults := []
  faultNext := []
  grids := []
  wgs := []
  groups := []
  packets := []
  served := []
  copies := []
  mxu := []
  barNet := []
  ext := []
  tcoIn := []
  tcoRuns := []
  slots := []
  tcoMem := []
  tcoCycles := []
  trigDone := []
  merges := []
  irqs := []
  saves := []
  restores := []
  spent := []
  heldQueues := []
  flr := []
  reduce := []
  sent := []
  fabricOut := []
  spdmOut := []
  aer := []
  stage2 := List.replicate 32 0
  tdi := List.replicate 32 .unlocked
  dies := List.replicate 9 ⟨false, 0, [], 0, 0⟩
  failed := false
  slice := 0
  poison := []
  tickets := []
  posted := []
  agenda := []
  cur := 0
  at' := 0
  ir := 0
  pfx := none
  cut := none
  late := false
  fv := 0
  tv := 0

end Sys2Proof.Machine
end

