-- ==== Sys2Proof/Machine/Ops.lean ====
section
/-!
DEFINITION. The named operations over the state: records by index, launch-record fields, registers, bytes of the
memories, control-register words, telemetry taps, taking a trap and returning from one (R388 to R397).
-/
namespace Sys2Proof.Machine

/-! ### Records by index -/

/-- The group that stands where no group is. -/
def Group.blank : Group where
  grid := 0
  wg := 0
  gix := 0
  st := .retired
  gen := 0
  priv := 0
  jf := false
  clr := 0
  rix := 0
  lc := 0
  fx := 0
  fxLater := 0
  exited := 0xFFFFFFFF
  parked := 0
  nlaunch := 0
  launched := (0, 0)
  trapRec := 0
  armed := []
  monRound := 0
  windows := []
  j := []
  p := []
  g := []
  x := []
  pc := []
  spb := []
  rsd := []
  rst := []
  snap := []
  savedPc := []
  savedParked := 0
  take := []
  ops := []
  flight := []
  sel := 0
  savedSel := 0
  walkFrom := none
  savedFrom := none
  walk := .none
  savedWalk := .none
  pend := []
  sleep := none
  wake := none
  hostReq := none
  nack := none
  ticket := none
  landing := false
  core := 0
  lane := 0
  gslot := 0
  target := 0
  halter := false
  haltWait := none
  faultId := none
  halted := false
  closing := none

/-- The workgroup that stands where none is. -/
def Workgroup.blank : Workgroup := ⟨0, 0, 0, 0, 0, [], true, 0, [], []⟩

/-- The grid that stands where none is. -/
def Grid.blank : Grid where
  lrec := []
  fn := 0
  queue := 0
  seq := 0
  image := []
  dies := []
  pin := false
  parent := none
  key := []
  root := 0
  depth := 0
  table := 0
  asid := 0
  tenant := 0
  sup := false
  code := []
  birth := 0
  nextTeam := 0
  st := .done
  sliced := false
  area := none
  status := none
  fx := 0
  ext := false
  crecLost := false
  mcheck := false
  applied := 0
  closed := 0
  reads := []
  seen := []
  old := []
  contribs := []
  halt := none
  ending := []
  quiesce := []
  extLines := []
  extFrames := []
  wrote := []

/-- Group `i`. -/
def State.grp (s : State) (i : Nat) : Group := s.groups.getD i Group.blank
/-- Replaces group `i`. -/
def State.setGrp (s : State) (i : Nat) (g : Group) : State := { s with groups := s.groups.set i g }
/-- Changes group `i`. -/
def State.modGrp (s : State) (i : Nat) (f : Group → Group) : State := s.setGrp i (f (s.grp i))
/-- Workgroup `i`. -/
def State.wgp (s : State) (i : Nat) : Workgroup := s.wgs.getD i Workgroup.blank
/-- Changes workgroup `i`. -/
def State.modWg (s : State) (i : Nat) (f : Workgroup → Workgroup) : State :=
  { s with wgs := s.wgs.set i (f (s.wgp i)) }
/-- Grid `i`. -/
def State.grd (s : State) (i : Nat) : Grid := s.grids.getD i Grid.blank
/-- Changes grid `i`. -/
def State.modGrid (s : State) (i : Nat) (f : Grid → Grid) : State :=
  { s with grids := s.grids.set i (f (s.grd i)) }

/-- The group in issue. -/
def State.me (s : State) : Group := s.grp s.cur
/-- Changes the group in issue. -/
def State.modMe (s : State) (f : Group → Group) : State := s.modGrp s.cur f
/-- The grid of group `i`. -/
def State.gridOf (s : State) (i : Nat) : Grid := s.grd (s.grp i).grid
/-- The workgroup of group `i`. -/
def State.wgOf (s : State) (i : Nat) : Workgroup := s.wgp (s.grp i).wg
/-- The root grid (context, ordering domain) of group `i`. -/
def State.rootOf (s : State) (i : Nat) : Grid := s.grd (s.gridOf i).root

/-- All indices of the groups. -/
def State.groupIds (s : State) : List Nat := List.range s.groups.length

/-- The groups of a context, by its root grid. -/
def State.ctxGroups (s : State) (root : Nat) : List Nat :=
  s.groupIds.filter (fun i => (s.gridOf i).root == root)

/-! ### Launch record (R192) -/

/-- A little-endian number of `n` bytes at offset `o` of a list of bytes. -/
def leAt (b : List Byte) (o : Nat) : Nat → Nat
  | 0 => 0
  | n + 1 => (b.getD o 0).toNat + 256 * leAt b (o + 1) n

/-- The bytes of a number, little-endian. -/
def leBytes : Nat → Nat → List Byte
  | 0, _ => []
  | n + 1, v => BitVec.ofNat 8 v :: leBytes n (v / 256)

/-- ENTRY. -/
def Grid.entry (g : Grid) : Nat := leAt g.lrec 0x000 8
/-- ARGS. -/
def Grid.args (g : Grid) : Nat := leAt g.lrec 0x008 8
/-- GRIDX. -/
def Grid.gx (g : Grid) : Nat := leAt g.lrec 0x010 4
/-- GRIDY. -/
def Grid.gy (g : Grid) : Nat := leAt g.lrec 0x014 4
/-- GRIDZ. -/
def Grid.gz (g : Grid) : Nat := leAt g.lrec 0x018 4
/-- LCORES. -/
def Grid.lcores (g : Grid) : Nat := leAt g.lrec 0x01C 4
/-- NGRP. -/
def Grid.ngrp (g : Grid) : Nat := leAt g.lrec 0x020 2
/-- Registers per thread. -/
def Grid.nregs (g : Grid) : Nat := 8 * leAt g.lrec 0x022 1
/-- TEAM. -/
def Grid.team (g : Grid) : Nat := leAt g.lrec 0x023 1
/-- SCRATCH. -/
def Grid.scratchBytes (g : Grid) : Nat := leAt g.lrec 0x024 4
/-- ACCS. -/
def Grid.accs (g : Grid) : Nat := leAt g.lrec 0x028 1
/-- TAKE. -/
def Grid.takeQuota (g : Grid) : Nat := leAt g.lrec 0x029 1
/-- PRODUCER. -/
def Grid.producer (g : Grid) : Nat := leAt g.lrec 0x02A 1
/-- FLAGS. -/
def Grid.flags (g : Grid) : Byte := g.lrec.getD 0x02B 0
/-- FLAGS.ORDERED (R9). -/
def Grid.ordered (g : Grid) : Bool := g.flags.getLsbD 0
/-- FLAGS.TWOSHOT. -/
def Grid.twoshot (g : Grid) : Bool := g.flags.getLsbD 1
/-- FLAGS.HOSTWAKE. -/
def Grid.hostwake (g : Grid) : Bool := g.flags.getLsbD 2
/-- FLAGS.TIMEREAD. -/
def Grid.timeread (g : Grid) : Bool := g.flags.getLsbD 3
/-- FLAGS.HANDLER. -/
def Grid.handler (g : Grid) : Bool := g.flags.getLsbD 4
/-- FPCR. -/
def Grid.fpcr (g : Grid) : Word := BitVec.ofNat 32 (leAt g.lrec 0x02C 4)
/-- HPC. -/
def Grid.hpc (g : Grid) : Nat := leAt g.lrec 0x030 8
/-- PBASE. -/
def Grid.pbase (g : Grid) : Nat := leAt g.lrec 0x038 8
/-- PRIV: private bytes per thread. -/
def Grid.priv (g : Grid) : Nat := leAt g.lrec 0x040 4
/-- Format slot `i` (R246). -/
def Grid.fmt (g : Grid) (i : Nat) : Dword := BitVec.ofNat 64 (leAt g.lrec (0x048 + 8 * i) 8)
/-- CREC. -/
def Grid.crec (g : Grid) : Nat := leAt g.lrec 0x088 8
/-- Workgroups of the grid. -/
def Grid.nwg (g : Grid) : Nat := g.gx * g.gy * g.gz
/-- Groups of a workgroup on one core (R194). -/
def Grid.groupsPerCore (g : Grid) : Nat := if g.twoshot then g.ngrp / 2 else g.ngrp
/-- Groups per lane (R6). -/
def Grid.perLane (g : Grid) : Nat := min 8 (256 / g.nregs)
/-- Slots of a logical core (R194). -/
def Grid.slots (g : Grid) : Nat :=
  let a := 16 * g.perLane / g.groupsPerCore
  let b := if g.scratchBytes = 0 then a else min a (393216 / g.scratchBytes)
  if g.accs = 0 then b else min b (8 / g.accs)
/-- Cores of a team (R26, R27). -/
def Grid.teamCores (g : Grid) : Nat := if g.twoshot then 2 * g.team else g.team

/-! ### Keys and rounds (R105, R106, R113) -/

/-- Lexicographic order of keys; a shorter key that starts a longer one is smaller (R106). -/
def keyLt : List Nat → List Nat → Bool
  | [], [] => false
  | [], _ :: _ => true
  | _ :: _, [] => false
  | a :: as, b :: bs => if a < b then true else if b < a then false else keyLt as bs

/-- The key of group `i` (R105, R106). -/
def State.key (s : State) (i : Nat) : List Nat :=
  (s.gridOf i).key ++ [32 * (s.wgOf i).id + (s.grp i).gix]

/-- The group with the smallest key. -/
def State.smallest (s : State) : List Nat → Nat
  | [] => 0
  | [a] => a
  | a :: r => if keyLt (s.key a) (s.key (s.smallest r)) then a else s.smallest r

/-- The round of a group (R113). -/
def Group.round (g : Group) : Nat := g.lc / 64

/-! ### Threads and registers (R255) -/

/-- Bit `t` of a thread mask. -/
def inMask (m : Word) (t : Nat) : Bool := m.getLsbD t

/-- The mask of a list of threads. -/
def maskOf (ts : List Nat) : Word := ts.foldl (fun m t => m ||| (1#32 <<< t)) 0

/-- PC of thread `t`. -/
def Group.pcOf (g : Group) (t : Nat) : Nat := (g.pc.get t).toNat

/-- Threads that have not exited. -/
def Group.alive (g : Group) : List Nat := (List.range 32).filter (fun t => !inMask g.exited t)

/-- Threads eligible to issue (R200). -/
def Group.eligible (g : Group) : List Nat :=
  (List.range 32).filter (fun t => !inMask g.exited t && !inMask g.parked t)

/-- The issuing path: the eligible threads at the selected PC (R200). -/
def Group.path (g : Group) : List Nat := g.eligible.filter (fun t => g.pcOf t == g.sel)

/-- The lowest-numbered active thread. -/
def Group.lowest (g : Group) : Nat := g.path.headD 0

/-- The lowest-numbered thread that has not exited. -/
def Group.lowestAlive (g : Group) : Nat := g.alive.headD 0

/-- Thread register `r` of thread `t`. -/
def Group.rx (g : Group) (t r : Nat) : Word := g.x.get (128 * t + r)
/-- Writes a thread register. -/
def Group.wx (g : Group) (t r : Nat) (v : Word) : Group := { g with x := g.x.set (128 * t + r) v }
/-- A pair (R10). -/
def Group.rx64 (g : Group) (t r : Nat) : Dword := g.rx t (r + 1) ++ g.rx t r
/-- Writes a pair. -/
def Group.wx64 (g : Group) (t r : Nat) (v : Dword) : Group :=
  (g.wx t r (v.extractLsb' 0 32)).wx t (r + 1) (v.extractLsb' 32 32)
/-- A quad. -/
def Group.rx128 (g : Group) (t r : Nat) : BitVec 128 := g.rx64 t (r + 2) ++ g.rx64 t r
/-- Uniform register `r`; g0 reads as zero. -/
def Group.rg (g : Group) (r : Nat) : Word := if r = 0 then 0 else g.g.get r
/-- Writes a uniform register; g0 ignores it. -/
def Group.wg' (g : Group) (r : Nat) (v : Word) : Group := if r = 0 then g else { g with g := g.g.set r v }
/-- A uniform pair. -/
def Group.rg64 (g : Group) (r : Nat) : Dword := g.rg (r + 1) ++ g.rg r
/-- Predicate `p` of thread `t`; p7 reads as true. -/
def Group.rp (g : Group) (t p : Nat) : Bool := if p = 7 then true else inMask (g.p.get p) t
/-- Writes a predicate of one thread. -/
def Group.wp (g : Group) (t p : Nat) (v : Bool) : Group :=
  let m := g.p.get p
  { g with p := g.p.set p (if v then m ||| (1#32 <<< t) else m &&& ~~~(1#32 <<< t)) }
/-- The guard value of thread `t` (R262): bit 3 negates. -/
def Group.guard (g : Group) (t : Nat) (gd : BitVec 4) : Bool :=
  g.rp t (gd.extractLsb' 0 3).toNat != gd.getLsbD 3
/-- Rejoin mask `j`. -/
def Group.rj (g : Group) (j : Nat) : Word := g.j.get j
/-- Writes a rejoin mask. -/
def Group.wj (g : Group) (j : Nat) (v : Word) : Group := { g with j := g.j.set j v }
/-- Sets the PC of a thread. -/
def Group.wpc (g : Group) (t pc : Nat) : Group := { g with pc := g.pc.set t (BitVec.ofNat 64 pc) }
/-- ORs flags into FX (R241). -/
def Group.orFx (g : Group) (f : Fx) : Group := { g with fx := g.fx ||| f }

/-- GSR.TOK: the tiles whose token the group holds (R359). In ORDERED mode its own token operations of the round count. -/
def tokenView (toks : List Token) (gix : Nat) (ops : List OrdOp) : List Token :=
  ops.foldl (fun ts o => match o with
    | .rela i => ts.set i (.mxu gix)
    | .acqa i => ts.set i (.held gix)
    | _ => ts) toks

/-- The tokens as group `i` sees them (R360, R361). -/
def State.tokens (s : State) (i : Nat) : List Token :=
  tokenView (s.wgOf i).tokens (s.grp i).gix (s.grp i).ops

/-- GSR of group `i` (R214). -/
def State.gsr (s : State) (i : Nat) : Word :=
  let g := s.grp i
  let gr := s.gridOf i
  let toks := s.tokens i
  let tok : BitVec 8 := (List.range 8).foldl
    (fun m k => if toks.getD k (.mxu 0) = .held g.gix then m ||| (1#8 <<< k) else m) 0
  g.priv ++ BitVec.ofBool gr.ordered ++ BitVec.ofBool gr.twoshot ++ BitVec.ofBool g.jf ++ 0#3 ++ tok ++
    0#3 ++ g.clr ++ 0#5 ++ g.rix

/-! ### Bytes of the memories -/

/-- `n` bytes of a table from key `a` up, as a little-endian number. -/
def readBytes (m : Sparse 8) (a : Nat) : Nat → Nat
  | 0 => 0
  | n + 1 => (m.get a).toNat + 256 * readBytes m (a + 1) n

/-- Writes bytes from key `a` up. -/
def writeBytes (m : Sparse 8) (a : Nat) : List Byte → Sparse 8
  | [] => m
  | b :: bs => writeBytes (m.set a b) (a + 1) bs

/-- `n` bytes of a table as a list. -/
def byteList (m : Sparse 8) (a : Nat) : Nat → List Byte
  | 0 => []
  | n + 1 => m.get a :: byteList m (a + 1) n

/-- Key of a scratchpad byte. -/
def scratchKey (wg half off : Nat) : Nat := (2 * wg + half) * 2 ^ 19 + off

/-- Key of a scratchpad byte of a rank of the team of group `i` (R26): workgroup and half, then the offset. -/
def State.rankKey (s : State) (i rank off : Nat) : Nat :=
  let w := s.wgOf i
  if (s.gridOf i).twoshot then scratchKey (w.team + rank / 2) (rank % 2) off
  else scratchKey (w.team + rank) 0 off

/-- TRANK of group `i` (R26). -/
def State.trank (s : State) (i : Nat) : Nat :=
  let g := s.grp i
  let gr := s.gridOf i
  let k := g.wg - (s.wgOf i).team
  if gr.twoshot then 2 * k + (if gr.groupsPerCore ≤ g.gix then 1 else 0) else k

/-- Whether the group sits on the follower core of a pair (R210). -/
def State.follower (s : State) (i : Nat) : Bool :=
  (s.gridOf i).twoshot && (s.gridOf i).groupsPerCore ≤ (s.grp i).gix

/-- The core of a group's workgroup on which it starts: the follower's, for the upper groups of a pair (R210). Its streamer
stays there after a MIGR (R166, R380). -/
def State.ownCore (s : State) (i : Nat) : Nat := (s.wgOf i).core + (if s.follower i then 1 else 0)

/-! ### Control-register words (R48) -/

/-- A 32-bit word of the register file. -/
def State.reg (s : State) (off : Nat) : Word := s.regs.get (off / 4)
/-- Sets a 32-bit word. -/
def State.setReg (s : State) (off : Nat) (v : Word) : State := { s with regs := s.regs.set (off / 4) v }
/-- A 64-bit register. -/
def State.reg64 (s : State) (off : Nat) : Dword := s.reg (off + 4) ++ s.reg off
/-- Sets a 64-bit register. -/
def State.setReg64 (s : State) (off : Nat) (v : Dword) : State :=
  (s.setReg off (v.extractLsb' 0 32)).setReg (off + 4) (v.extractLsb' 32 32)

/-- Partition block of function `f` (R437). -/
def partBase (f : Nat) : Nat := 0x01000000 + 0x1000 * f
/-- Registers of queue `q` (R218). -/
def queueBase (q : Nat) : Nat := 0x00200000 + 64 * q
/-- QCTL of a queue (R218). -/
def State.qctl (s : State) (q : Nat) : Dword := s.reg64 (queueBase q + 8)
/-- PRIO of a queue. -/
def State.queuePrio (s : State) (q : Nat) : Nat := ((s.qctl q).extractLsb' 1 3).toNat
/-- Pre-emption registers of queue `q` (R398). -/
def preemptBase (q : Nat) : Nat := 0x00300000 + 32 * q
/-- Translation registers of function `f` (R96). -/
def transBase (f : Nat) : Nat := 0x00010000 + 0x100 * f
/-- Telemetry block of function `f` for TCO `t` (R432). -/
def tcoBase (f t : Nat) : Nat := 0x00400000 + 0x10000 * f + 0x1000 * t

/-- PCR.EN of a function. -/
def State.fnEnabled (s : State) (f : Nat) : Bool := (s.reg (partBase f)).getLsbD 0
/-- PCR.TENANT of a function. -/
def State.fnTenant (s : State) (f : Nat) : BitVec 6 := (s.reg (partBase f)).extractLsb' 8 6
/-- PCR.TS of a function. -/
def State.fnSliced (s : State) (f : Nat) : Bool := (s.reg (partBase f)).getLsbD 1
/-- PCR.GEN of a function. -/
def State.fnGen (s : State) (f : Nat) : BitVec 16 := (s.reg (partBase f)).extractLsb' 16 16

/-- Bit `i` of the map of 32-bit words that starts at an offset. -/
def State.mapBit (s : State) (off i : Nat) : Bool := (s.reg (off + 4 * (i / 32))).getLsbD (i % 32)

/-- The enabled function that owns queue `q` (R218, R437). -/
def State.queueOwner (s : State) (q : Nat) : Option Nat :=
  (List.range 32).find? (fun f => s.fnEnabled f && s.mapBit (partBase f + 0x028) (q / 64))

/-- Queues of a function, ascending: its local numbering (R218). -/
def State.fnQueues (s : State) (f : Nat) : List Nat :=
  (List.range 256).flatMap (fun b =>
    if s.mapBit (partBase f + 0x028) b then (List.range 64).map (fun i => 64 * b + i) else [])

/-- Local number of queue `q` of function `f`: the blocks below it that the function owns. -/
def State.localQueue (s : State) (f q : Nat) : Nat :=
  64 * ((List.range (q / 64)).filter (fun b => s.mapBit (partBase f + 0x028) b)).length + q % 64

/-- The next free value (log 10), and the counter advanced. -/
def State.free (s : State) : Dword × State := (Config.freeValue s.fv, { s with fv := s.fv + 1 })

/-! ### Telemetry taps (R409 to R412) -/

/-- A filter that would look at a record of this kind and tenant is attached to the TCO (R414, R417). -/
def State.watched (s : State) (tco kind : Nat) (tenant : BitVec 6) : Bool :=
  s.slots.any (fun sl => sl.tco == tco && sl.kind == kind && (sl.fn == 0 || s.fnTenant sl.fn == tenant))

/-- Sends a record to a TCO. A record that no attached filter looks at has no effect and is left out (R417). -/
def State.tap (s : State) (tco kind : Nat) (tenant : BitVec 6) (bits : BitVec 128) : State :=
  if s.watched tco kind tenant then { s with tcoIn := s.tcoIn ++ [⟨tco, bits⟩] } else s

/-- The next free value of telemetry (log 10), and its counter advanced. -/
def State.tapFree (s : State) : Dword × State := (Config.tapValue s.tv, { s with tv := s.tv + 1 })

/-- STAMP: the low bits of the cycle counter of a die, or of the Foyer (8), which has run on by a free number of cycles
since it was last read (R139, R410; log 6). -/
def State.stamp (s : State) (die : Nat) : Word × State :=
  let (v, s1) := s.tapFree
  ((((s.dies.getD die ⟨false, 0, [], 0, 0⟩).cyc + v).extractLsb' 0 32 : Word), s1)

/-- A record whose source is a group (R410): the TCO of its die, its lane (R199), its position in rounds when ORDERED
and the die's counter otherwise. -/
def State.tapGroup (s : State) (i kind : Nat) (a b : Word) : State :=
  let g := s.grp i
  let gr := s.gridOf i
  let die := g.core / 144
  if s.watched die kind gr.tenant then
    let (v, s1) := s.stamp die
    let w0 : Word := BitVec.ofNat 8 kind ++ gr.tenant ++ BitVec.ofNat 3 die ++ BitVec.ofNat 8 (g.core % 144) ++
      BitVec.ofNat 4 g.lane ++ BitVec.ofBool gr.ordered ++ 0#2
    let w1 : Word :=
      if gr.ordered then BitVec.ofNat 8 (32 * (s.wgOf i).id + g.gix) ++ BitVec.ofNat 24 g.round
      else v
    s1.tap die kind gr.tenant (b ++ a ++ w1 ++ w0)
  else s

/-- A record of the Foyer (R409, R410). -/
def State.tapFoyer (s : State) (kind unit : Nat) (tenant : BitVec 6) (a b : Word) : State :=
  if s.watched 8 kind tenant then
    let (v, s1) := s.stamp 8
    let w0 : Word := BitVec.ofNat 8 kind ++ tenant ++ 0#3 ++ BitVec.ofNat 8 unit ++ 0#7
    s1.tap 8 kind tenant (b ++ a ++ v ++ w0)
  else s

/-- A record of a unit of a shader die that is no group: a slice, or a resource of a core (R410). -/
def State.tapDie (s : State) (die kind unit : Nat) (tenant : BitVec 6) (a b : Word) : State :=
  if s.watched die kind tenant then
    let (v, s1) := s.stamp die
    s1.tap die kind tenant (b ++ a ++ v ++
      (BitVec.ofNat 8 kind ++ tenant ++ BitVec.ofNat 3 die ++ BitVec.ofNat 8 unit ++ 0#7))
  else s

/-! ### Traps (R388 to R396) -/

/-- Trap codes (R388). -/
def codeIllegal : BitVec 8 := 0x01
/-- PRIVILEGE. -/
def codePrivilege : BitVec 8 := 0x02
/-- ADDRESS. -/
def codeAddress : BitVec 8 := 0x03
/-- PERMISSION. -/
def codePermission : BitVec 8 := 0x04
/-- MISALIGN. -/
def codeMisalign : BitVec 8 := 0x05
/-- ATOMIC_SPACE. -/
def codeAtomicSpace : BitVec 8 := 0x06
/-- MEMBER. -/
def codeMember : BitVec 8 := 0x07
/-- PARTIAL_MASK. -/
def codePartialMask : BitVec 8 := 0x08
/-- TOKEN. -/
def codeToken : BitVec 8 := 0x09
/-- PRODUCER. -/
def codeProducer : BitVec 8 := 0x0A
/-- MCAST_RANGE. -/
def codeMcastRange : BitVec 8 := 0x0B
/-- BAR_OVERRUN. -/
def codeBarOverrun : BitVec 8 := 0x0C
/-- RING. -/
def codeRing : BitVec 8 := 0x0D
/-- DEADLOCK. -/
def codeDeadlock : BitVec 8 := 0x0E
/-- STACK. -/
def codeStack : BitVec 8 := 0x0F
/-- SOFTWARE. -/
def codeSoftware : BitVec 8 := 0x10
/-- BREAKPOINT. -/
def codeBreakpoint : BitVec 8 := 0x11
/-- ECC_UNCORRECTABLE. -/
def codeEcc : BitVec 8 := 0x12
/-- TIMEREAD. -/
def codeTimeread : BitVec 8 := 0x13
/-- FORMAT. -/
def codeFormat : BitVec 8 := 0x14
/-- LOOKAHEAD. -/
def codeLookahead : BitVec 8 := 0x15
/-- LANDING. -/
def codeLanding : BitVec 8 := 0x16
/-- DOUBLE. -/
def codeDouble : BitVec 8 := 0x17

/-- A trap with SRC 0 and no details. -/
def Trap.plain (code : BitVec 8) (thread : Nat) : Trap := ⟨code, thread, 0, 0, 0, 0, false⟩

/-- The trap record of a trap (R389), TRAPREC3 in the upper bits. -/
def Trap.record (t : Trap) : BitVec 128 :=
  t.info ++ t.aux ++ (t.detail ++ BitVec.ofBool t.whole ++ t.src ++ BitVec.ofNat 5 t.thread ++ t.code)

/-- Halts a group for good; its state is kept (R384, R395). -/
def Group.halt (g : Group) : Group :=
  if g.st = .retired then g else { g with st := .retired, halted := true }

/-- The state of a group that issues again: in its handler, if it has not left it. -/
def Group.resumed (g : Group) : GroupState := if g.priv = 1 then .handler else .running

/-- Threads of a halted group below the resume index have completed the instruction: RIX is where the walk stands, or
the lowest thread of the path that would have issued (R384, R399). -/
def Group.stopWalk (g : Group) : Group :=
  if g.st = .retired then g
  else
    match g.walkFrom with
    | some t => { g with rix := BitVec.ofNat 5 t }
    | none => if g.st = .handler then g else { g with rix := BitVec.ofNat 5 g.lowest }

/-- RIX of a group that a SAVE stops: in the middle of a walk, the first thread not yet walked (R399). The walk goes on
there after the restore, and the group reads the RIX that it had (R137, R485; log 123). -/
def Group.stoppedAt (g : Group) : BitVec 5 :=
  match g.walkFrom with
  | some t => if g.st = .retired then g.rix else BitVec.ofNat 5 t
  | none => g.rix

/-- Copies of a context in one of some states. -/
def State.copiesIn (s : State) (root : Nat) (p : Nat → Bool) : List Nat :=
  (List.range s.copies.length).filter (fun k =>
    match s.copies[k]? with
    | some c => (s.gridOf c.group).root == root && p c.st
    | none => false)

/-- A copy stops without credit; the bytes of one whose ring slots are filled, or that only waits for its credits, are
written. -/
def Copy.cancel (c : Copy) : Copy := { c with st := 2, data := if 5 ≤ c.st then some [] else c.data, credits := [] }

/-- Cancels copies, and lists them with their workgroups (R384, R385). -/
def State.cancelCopies (s : State) (ks : List Nat) : State :=
  { s with
    copies := s.copies.mapIdx (fun k (c : Copy) => if ks.contains k then c.cancel else c)
    wgs := s.wgs.mapIdx (fun w x =>
      { x with cancelled := x.cancelled ++ ks.filter (fun k => (s.copies[k]?).any (fun c => c.wg == w)) }) }

/-- No workgroup of a context starts any more. -/
def State.closeContext (s : State) (root : Nat) : State :=
  { s with grids := s.grids.map (fun g => if g.root == root then { g with nextTeam := g.nwg } else g) }

/-- The state of a copy that is outstanding: it has not landed, with its credits, or been cancelled or abandoned. -/
def copyOpen (st : Nat) : Bool := st == 0 || 4 ≤ st

/-- Outstanding copies of a context. -/
def State.openCopies (s : State) (root : Nat) : List Nat := s.copiesIn root copyOpen

/-- Halts every group of a context and cancels its outstanding copies (R384, R395). MXU work that has been accepted goes on,
and its flags reach the record (R242, R374). -/
def State.haltContext (s : State) (root : Nat) : State :=
  let s1 := (s.cancelCopies (s.openCopies root)).closeContext root
  { s1 with
    groups := s1.groups.map (fun g => if (s.grd g.grid).root == root then g.stopWalk.halt else g)
    barNet := s1.barNet.filter (fun m => (s.gridOf m.group).root != root) }

/-- STATUS and DETAIL of a context that a trap ends (R395, R396, R406). -/
def endStatus (mcheck : Bool) (e : Ending) : Nat × Dword :=
  if mcheck then (6, 0)
  else if e.double then (2, 0x17)
  else if e.trap.code = codeDeadlock then (3, e.trap.info)
  else (2, e.trap.code.setWidth 64)

/-- Ends a context: every grid of it takes the status (R395). -/
def State.endContext (s : State) (root : Nat) (e : Ending) : State :=
  let st := endStatus (s.grd root).mcheck e
  let s1 := s.haltContext root
  { s1 with grids := s1.grids.map (fun g =>
      if g.root == root && g.st != .done then
        { g with status := some st, contribs := [], ending := if g.parent = none then [e] else g.ending }
      else g) }

/-- A delivered trap ends the context of group `i` (R395, R396). In FREE mode at once; in ORDERED mode the group
stops and the domain ends when every group has finished the round (log 14). -/
def State.endingTrap (s : State) (i : Nat) (t : Trap) (double : Bool) : State :=
  let root := (s.gridOf i).root
  let e : Ending := ⟨(s.grp i).round, i, t, double⟩
  let s1 := s.modGrp i (fun g => { g with trapRec := if double then g.trapRec else t.record, rix := BitVec.ofNat 5 t.thread }.halt)
  if (s.gridOf i).ordered then s1.modGrid root (fun g => { g with ending := g.ending ++ [e] })
  else s1.endContext root e

/-- Entry to the trap handler (R391). -/
def Group.enterHandler (g : Group) (hpc : Nat) (t : Trap) : Group :=
  { g with
    windows := []
    savedPc := g.pc
    savedParked := g.parked
    savedSel := g.sel
    trapRec := t.record
    rix := BitVec.ofNat 5 t.thread
    priv := 1
    st := .handler
    parked := 0
    pc := g.alive.foldl (fun m k => m.set k (BitVec.ofNat 64 hpc)) g.pc
    sel := hpc
    walkFrom := none
    savedFrom := none
    savedWalk := g.walk
    walk := .none
    sleep := none
    wake := none }

/-- The record of a double fault (R396): both codes, and the second trap's AUX and INFO. -/
def doubleRecord (first : BitVec 128) (t : Trap) : Trap :=
  { t with code := codeDouble, detail := t.code ++ first.extractLsb' 0 8 }

/-- TAKING A TRAP: delivery of `t` to group `i` (R390 to R392, R395, R396). -/
def State.takeTrap (s : State) (i : Nat) (t : Trap) : State :=
  let g := s.grp i
  let s0 := if t.code = codeEcc then s.modGrid (s.gridOf i).root (fun r => { r with mcheck := true }) else s
  let s1 := s0.tapGroup i 0x31 (0#17 ++ t.src ++ BitVec.ofNat 5 t.thread ++ t.code)
    (BitVec.ofNat 32 (g.pcOf t.thread))
  if g.priv = 1 then s1.endingTrap i (doubleRecord g.trapRec t) true
  else if g.priv = 0 && (s.gridOf i).handler then
    s1.modGrp i (fun g => g.enterHandler (s.gridOf i).hpc t)
  else s1.endingTrap i t false

/-- A trap record after which the group goes on with the next instruction (R393): SRC 1 to 3, TRAP and BKPT. -/
def continuesNext (r : BitVec 128) : Bool :=
  r.extractLsb' 13 2 != 0 || r.extractLsb' 0 8 == codeSoftware || r.extractLsb' 0 8 == codeBreakpoint

/-- RETURN FROM A TRAP (R393): PRIV, PCs and the parked mask, and the thread at which the walk resumes; after the trap of a
load that was sent again, where it stood (log 109). -/
def Group.leaveHandler (g : Group) : Group :=
  { g with
    priv := 0
    st := .running
    pc := g.alive.foldl (fun m k => m.set k (g.savedPc.get k)) g.pc
    parked := g.savedParked
    sel := g.savedSel
    walkFrom := match g.savedFrom with
      | some w => w
      | none => if continuesNext g.trapRec || g.trapRec.getLsbD 15 then none else some g.rix.toNat
    savedFrom := none
    walk := if continuesNext g.trapRec then .none else g.savedWalk
    windows := [] }

end Sys2Proof.Machine
end

