-- ==== Sys2Proof/Machine/Cache.lean ====
section
/-!
DEFINITION. The cache levels (R51 to R62, R71 to R77): whose ways a line may take, where it stands in its set, lookups
and fills of an L1 and of an RDC, the L2 of the home, and what a write leaves of the copies of its lines.
-/
namespace Sys2Proof.Machine

/-! ### Ways (R436, R441, R442) -/

/-- An enabled hard function. -/
def State.isHard (s : State) (f : Nat) : Bool := s.fnEnabled f && !s.fnSliced f
/-- Offset of the way mask of a slice. -/
def wayReg (f n : Nat) : Nat := partBase f + 0x200 + 2 * n
/-- The way mask of a function in a slice. -/
def State.ways (s : State) (f n : Nat) : BitVec 16 := (s.reg (wayReg f n)).extractLsb' (16 * (n % 2)) 16
/-- The ways of a mask. -/
def wayList (m : BitVec 16) : List Nat := (List.range 16).filter (fun k => m.getLsbD k)
/-- Ways of a mask. -/
def wayCount (m : BitVec 16) : Nat := (wayList m).length

/-- The pool's ways in a slice: those no enabled hard function owns. -/
def State.poolWays (s : State) (n : Nat) : BitVec 16 :=
  ~~~((List.range 32).foldl (fun m f => if s.isHard f then m ||| s.ways f n else m) 0)

/-- The ways of slice `n` that a tenant's lines may take: those of its function, or the pool's (R71, R436). -/
def State.tenantWays (s : State) (tenant : BitVec 6) (n : Nat) : List Nat :=
  match (List.range 32).find? (fun f => s.fnEnabled f && s.fnTenant f == tenant) with
  | none => []
  | some f => wayList (if s.fnSliced f then s.poolWays n else s.ways f n)

/-! ### Places of an address -/

/-- Home die of a device-physical address (R83). -/
def homeDie (addr : Nat) : Nat := addr / 2 ^ 44 % 8
/-- The address lies in a cellar frame (R83). -/
def inCellar (addr : Nat) : Bool := addr / 2 ^ 43 % 2 == 1
/-- L2 slice of a device-physical address, within its die (R71). -/
def sliceOf (pa : Nat) : Nat :=
  (pa / 2 ^ 6 % 16) ^^^ (pa / 2 ^ 10 % 16) ^^^ (pa / 2 ^ 14 % 16) ^^^ (pa / 2 ^ 18 % 16)
/-- Package-wide number of the slice that holds an address (R71). -/
def sliceNumber (pa : Nat) : Nat := homeDie pa * 16 + sliceOf pa
/-- Channel of its die in which a cellar frame lies: 98,304 consecutive frames to a channel (R79; log 98). -/
def channelOf (pa : Nat) : Nat := pa % 2 ^ 43 / 65536 / 98304
/-- Device-physical line number, bits [37:6] (R411). -/
def lineField (pa : Nat) : Word := BitVec.ofNat 32 (pa / 64)

/-- A sector of 32 bytes at its home. -/
def State.homeSector (s : State) (sec : Nat) : BitVec 256 := BitVec.ofNat 256 (readBytes s.mem (32 * sec) 32)

/-! ### Records of misses (R411) -/

/-- A record whose source is the L2 slice of an address (R410). -/
def State.tapSlice (s : State) (kind : Nat) (tenant : BitVec 6) (pa : Nat) (a b : Word) : State :=
  s.tapDie (homeDie pa) kind (sliceOf pa) tenant a b

/-- A record of a fill, whose cycles are a free value (log 10). -/
def State.tapFill (s : State) (die kind unit : Nat) (tenant : BitVec 6) (sec : Nat) : State :=
  if s.watched die kind tenant then
    let (v, s1) := s.tapFree
    s1.tapDie die kind unit tenant (lineField (32 * sec)) (v.extractLsb' 0 32)
  else s

/-- The records of an L2 miss: of the slice, and of the attic or the cellar when the frame is read. -/
def State.tapMiss (s : State) (tenant : BitVec 6) (sec : Nat) (reads : Bool) : State :=
  let pa := 32 * sec
  let s1 := s.tapSlice 0x11 tenant pa (lineField pa) (if inCellar pa then 1 else 0)
  if !reads then s1
  else if inCellar pa then s1.tapDie (homeDie pa) 0x14 (channelOf pa) tenant (lineField pa) 1
  else s1.tapDie (homeDie pa) 0x13 0 tenant (lineField pa) 1

/-! ### Where a line stands in its set (R51, R55; log 99) -/

/-- What stands in a set: way, line, and whether it is evicted first. -/
abbrev Standing := Nat × Nat × Bool

/-- The way for a line among those it may take: the one in which it stands, an empty one, or one whose line is evicted
first. -/
def wayFor (occ : List Standing) (ways : List Nat) (line : Nat) : Option Nat :=
  match ways.find? (fun w => occ.any (fun o => o.1 == w && o.2.1 == line)) with
  | some w => some w
  | none =>
    match ways.find? (fun w => occ.all (fun o => o.1 != w)) with
    | some w => some w
    | none => ways.find? (fun w => occ.any (fun o => o.1 == w && o.2.2))

/-- The way for a line; of a full set any may be the victim. -/
def State.chooseWay (s : State) (occ : List Standing) (ways : List Nat) (line : Nat) : Nat × State :=
  match wayFor occ ways line with
  | some w => (w, s)
  | none =>
    let (v, s1) := s.free
    (ways.getD (v.toNat % ways.length) 0, s1)

/-- Two sectors of one cache lie in the same set, of `sets` in all. -/
def Sector.sameSet (x : Sector) (sets : Nat) (y : Sector) : Bool :=
  x.owner == y.owner && x.sector / 2 % sets == y.sector / 2 % sets

/-- Puts a sector into a cache of `sets` sets; the line that stood in its way leaves (R57). -/
def State.place (s : State) (c : List Sector) (sets : Nat) (ways : List Nat) (x : Sector) : List Sector × State :=
  if ways = [] then (c, s)
  else
    let line := x.sector / 2
    let (w, s1) := s.chooseWay ((c.filter (x.sameSet sets)).map (fun y => (y.way, y.sector / 2, y.first))) ways line
    let leaves := fun (y : Sector) => x.sameSet sets y && y.way == w && (y.sector / 2 != line || y.sector == x.sector)
    ({ x with way := w } :: c.filter (fun y => !leaves y), s1)

/-- Sets of an L1 (R51). -/
def l1Sets : Nat := 256
/-- Sets of an RDC, those of its eight slices together (R51). -/
def rdcSets : Nat := 16384
/-- RDC slice of a sector (log 99). -/
def rdcSlice (sec : Nat) : Nat := sec / 2 % 8

/-! ### The L2 of the home (R53, R55, R56, R71, R72) -/

/-- Set of the package in which the L2 holds a sector (log 99). -/
def l2Set (sec : Nat) : Nat := sliceNumber (32 * sec) * 2048 + 32 * sec / 1024 % 2048

/-- The home's L2 holds a sector. -/
def State.l2Holds (s : State) (sec : Nat) : Bool := s.l2.any (fun x => x.sector == sec)

/-- A line enters a way of its tenant; what stood there goes to its frame (R71, R72). -/
def State.fillL2 (s : State) (v : Via) (sec : Nat) : State :=
  let ways := s.tenantWays v.tenant (sliceNumber (32 * sec))
  if ways = [] then s
  else
    let same := fun (y : HomeSector) => l2Set y.sector == l2Set sec
    let (w, s1) := s.chooseWay ((s.l2.filter same).map (fun y => (y.way, y.sector / 2, y.first))) ways (sec / 2)
    let stays := fun (y : HomeSector) => !(same y && y.way == w && y.sector / 2 != sec / 2)
    { s1 with l2 := ⟨sec, w, v.tenant, v.policy == 2, false, s.homeSector sec⟩ :: s1.l2.filter stays }

/-- An access reaches a sector's home slice: on a miss the frame is read, unless a store covers the whole sector, and
the line is allocated, unless the policy or the page forbids it (R53, R55, R56, R72). -/
def State.homeAccess (s : State) (v : Via) (sec : Nat) (covered : Bool) : State :=
  if s.l2Holds sec then s
  else
    let s1 := s.tapMiss v.tenant sec (!covered)
    if v.uc || v.policy == 3 then s1 else s1.fillL2 v sec

/-- Sectors that cells lie in. -/
def sectorsOf (cells : List (Nat × Byte)) : List Nat := (cells.map (fun c => c.1 / 32)).eraseDups

/-- A store reaches the home slices of its sectors. -/
def State.homeStore (s : State) (v : Via) (cells : List (Nat × Byte)) : State :=
  (sectorsOf cells).foldl (fun s sec =>
    s.homeAccess v sec ((List.range 32).all (fun k => cells.any (fun c => c.1 == 32 * sec + k)))) s

/-! ### What a write leaves of the copies (R60 to R62, R72) -/

/-- Device memory is written in some sectors: the L2 sectors become dirty; read-only-shared lines, and lines that
reflect the rounds of a domain, leave every L1 and RDC (R60 to R62). -/
def State.wrote (s : State) (secs : List Nat) : State :=
  let hit := fun (x : Sector) => (x.ros || x.round.isSome) && secs.any (fun k => k / 2 == x.sector / 2)
  { s with
    l2 := s.l2.map (fun (x : HomeSector) => if secs.contains x.sector then { x with dirty := true } else x)
    l1 := s.l1.filter (fun x => !hit x)
    rdc := s.rdc.filter (fun x => !hit x) }

/-- How an access of an agent that is no thread goes to its home: in a way of the tenant that owns the frame, else of
function 0's (R71, R72; log 118). -/
def State.frameVia (s : State) (addr : Nat) : Via :=
  ⟨((s.frames.find? (fun f => f.held && f.frame == addr / 65536)).map (·.tenant)).getD (s.fnTenant 0), 0, false, false, none⟩

/-- Hardware writes bytes of device memory at their home slices (R53, R72). -/
def State.putMem (s : State) (addr : Nat) (bytes : List Byte) : State :=
  let secs := (List.range ((addr % 32 + bytes.length + 31) / 32)).map (fun k => addr / 32 + k)
  let s1 := s.homeStore (s.frameVia addr) ((List.range bytes.length).map (fun k => (addr + k, 0)))
  { s1.wrote secs with mem := writeBytes s1.mem addr bytes }

/-- The publication digest of a round reports lines: their copies leave every L1 and RDC, but for those of
read-only-shared pages (R61, R62). -/
def State.digest (s : State) (lines : List Nat) : State :=
  let hit := fun (x : Sector) => !x.ros && lines.contains (x.sector / 2)
  { s with l1 := s.l1.filter (fun x => !hit x), rdc := s.rdc.filter (fun x => !hit x) }

/-- The lines that are left reflect one more round of a domain (R61). -/
def State.advanceLines (s : State) (dom rounds : Nat) : State :=
  let up := fun (x : Sector) => if x.round.any (fun r => r.1 == dom) then { x with round := some (dom, rounds) } else x
  { s with l1 := s.l1.map up, rdc := s.rdc.map up }

/-! ### Lookups and fills (R53 to R60, R75 to R77) -/

/-- A sector in a cache that an access may use: of its own tenant, and in ORDERED mode one that reflects the last round
applied (R60, R77) or is read-only-shared (R62). -/
def State.cacheFind (s : State) (c : List Sector) (owner : Nat) (v : Via) (sec : Nat) : Option Sector :=
  c.find? (fun x => x.owner == owner && x.sector == sec && x.tenant == v.tenant &&
    (x.ros || match v.dom with
      | none => true
      | some d => x.round == some (d, (s.grd d).applied)))

/-- Puts a byte into a sector; it then reflects no round any more. -/
def Sector.put (x : Sector) (addr : Nat) (b : Byte) : Sector :=
  if x.sector = addr / 32 then
    let k := 8 * (addr % 32)
    { x with data := (x.data &&& ~~~((0xFF#256) <<< k)) ||| (b.setWidth 256 <<< k), round := none }
  else x

/-- Cells written into a sector of one owner. -/
def putCells (owner : Nat) (cells : List (Nat × Byte)) (x : Sector) : Sector :=
  if x.owner = owner then cells.foldl (fun x c => x.put c.1 c.2) x else x

/-- A sector that an access has brought. -/
def State.newSector (s : State) (owner : Nat) (v : Via) (sec : Nat) (data : BitVec 256) : Sector :=
  ⟨owner, sec, data, v.ros, 0, v.tenant, v.policy == 2, v.dom.map (fun d => (d, (s.grd d).applied))⟩

/-- A remote sector through the RDC of a die, which a miss fills in a way of RDC slice `i` as the masks of L2 slice `i`
allow (R53, R75, R77, R441). -/
def State.rdcRead (s : State) (die : Nat) (v : Via) (sec : Nat) : BitVec 256 × State :=
  match s.cacheFind s.rdc die v sec with
  | some x => (x.data, s)
  | none =>
    let s1 := (s.tapFill die 0x12 (rdcSlice sec) v.tenant sec).homeAccess v sec false
    let x := s1.newSector die v sec (s1.homeSector sec)
    let (c, s2) := s1.place s1.rdc rdcSets (s1.tenantWays v.tenant (16 * die + rdcSlice sec)) x
    (x.data, { s2 with rdc := c })

/-- A sector as a load of a core finds it: `.BY` and uncached pages read at the home; else the L1, and for a remote home
the RDC, are looked up and filled (R53, R55, R56). A fill is one step, in which no store passes, so none is to be merged
with it (R58; log 113). -/
def State.sectorRead (s : State) (core : Nat) (v : Via) (sec : Nat) : BitVec 256 × State :=
  let die := core / 144
  if v.policy = 1 || v.uc then (s.homeSector sec, s.homeAccess v sec false)
  else
    match s.cacheFind s.l1 core v sec with
    | some x => (x.data, s)
    | none =>
      let s1 := s.tapFill die 0x10 (core % 144) v.tenant sec
      let (d, s2) := if homeDie (32 * sec) = die then (s1.homeSector sec, s1.homeAccess v sec false)
        else s1.rdcRead die v sec
      let x := s2.newSector core v sec d
      let (c, s3) := s2.place s2.l1 l1Sets (List.range 8) x
      (x.data, { s3 with l1 := c })

/-- A load of `n` bytes through the caches of a core. -/
def State.cacheRead (s : State) (core : Nat) (v : Via) (addr n : Nat) : Nat × State :=
  let (lo, s1) := s.sectorRead core v (addr / 32)
  if addr % 32 + n ≤ 32 then (lo.toNat / 2 ^ (8 * (addr % 32)) % 2 ^ (8 * n), s1)
  else
    let (hi, s2) := s1.sectorRead core v (addr / 32 + 1)
    ((lo.toNat + hi.toNat * 2 ^ 256) / 2 ^ (8 * (addr % 32)) % 2 ^ (8 * n), s2)

/-- A store passes the L1 of its core, where a sector present is updated (R53, R58). -/
def State.l1Write (s : State) (core : Nat) (cells : List (Nat × Byte)) : State :=
  { s with l1 := s.l1.map (putCells core cells) }

/-- A store passes the RDC of its die (R53, R75, R164). -/
def State.rdcWrite (s : State) (die : Nat) (cells : List (Nat × Byte)) : State :=
  { s with rdc := s.rdc.map (putCells die cells) }

/-- A tenant's lines leave the L1 of a core, and the RDC of its die when asked; read-only-shared lines stay (R59, R345,
R444). -/
def State.dropCaches (s : State) (core : Nat) (tenant : BitVec 6) (l1 rdc : Bool) : State :=
  { s with
    l1 := if l1 then s.l1.filter (fun x => x.owner != core || x.tenant != tenant || x.ros) else s.l1
    rdc := if rdc then s.rdc.filter (fun x => x.owner != core / 144 || x.tenant != tenant || x.ros) else s.rdc }

/-- An acquire of group `i` at a scope: 0 workgroup, 1 team, 2 device, 3 system (R59). -/
def State.acquire (s : State) (i scope : Nat) : State :=
  let gr := s.gridOf i
  s.dropCaches (s.grp i).core gr.tenant (scope ≠ 0 || gr.twoshot) (2 ≤ scope)

/-- How an access of group `i` goes to its home. -/
def State.viaOf (s : State) (i policy : Nat) (uc ros : Bool) : Via :=
  let gr := s.gridOf i
  ⟨gr.tenant, policy, uc, ros, if gr.ordered then some gr.root else none⟩

end Sys2Proof.Machine
end

