-- ==== Sys2Proof/Machine/Translate.lean ====
section
/-!
DEFINITION. Translation of virtual addresses (R83 to R93): page-table walks in one and two stages, cached
translations, the reasons of translation faults, and the A and D bits with the dirty log (R88, R448).
-/
namespace Sys2Proof.Machine

/-- A translation fault: reason (R93), stage and level (R95). -/
structure XFault where
  /-- Reason code. -/
  reason : Nat
  /-- 0 stage 1, 1 stage 2. -/
  stage : Nat
  /-- Walk level. -/
  level : Nat
  deriving DecidableEq, Repr

/-- Access kinds of a fault record (R95). -/
def kindLoad : Nat := 0
/-- Store. -/
def kindStore : Nat := 1
/-- Atomic. -/
def kindAtomic : Nat := 2
/-- Fetch. -/
def kindFetch : Nat := 3
/-- Streamer read. -/
def kindCopyRead : Nat := 4
/-- Streamer write. -/
def kindCopyWrite : Nat := 5

/-- The kind writes the page. -/
def writes (kind : Nat) : Bool := kind == 1 || kind == 2 || kind == 5

/-- P. -/
def pteP (e : Dword) : Bool := e.getLsbD 0
/-- W. -/
def pteW (e : Dword) : Bool := e.getLsbD 3
/-- X. -/
def pteX (e : Dword) : Bool := e.getLsbD 4
/-- UC. -/
def pteUC (e : Dword) : Bool := e.getLsbD 5
/-- ROS. -/
def pteROS (e : Dword) : Bool := e.getLsbD 6
/-- LEAF. -/
def pteLeaf (e : Dword) : Bool := e.getLsbD 9
/-- TCHK. -/
def pteTchk (e : Dword) : Bool := e.getLsbD 57
/-- TENANT. -/
def pteTenant (e : Dword) : BitVec 6 := e.extractLsb' 58 6
/-- ADDR, as a byte address. -/
def pteAddr (e : Dword) : Nat := (e.extractLsb' 16 32).toNat * 65536

/-- `count` frames from a device-physical address on are usable (R87). -/
def usable (addr count : Nat) : Bool :=
  let frame := addr / 65536 % 2 ^ 27
  let limit := if addr / 2 ^ 43 % 2 = 0 then 45056 else 2359296
  addr < 2 ^ 47 && frame + count ≤ limit

/-- An entry is malformed at its level (R87); `device` says that its ADDR is device-physical. R87 names the bits shown as
zero; that a pointer entry whose other fields, which R86 wants zero, are not zero counts as malformed is the model's choice
(log 121). -/
def pteMalformed (device : Bool) (level : Nat) (e : Dword) : Bool :=
  e.getLsbD 1 || e.extractLsb' 10 6 != 0 || e.extractLsb' 48 9 != 0 || e.getLsbD 47 ||
  (level == 0 && pteLeaf e) || (level == 2 && !pteLeaf e) ||
  (!pteLeaf e && (e.extractLsb' 1 8 != 0 || e.extractLsb' 57 7 != 0)) ||
  (pteLeaf e && level == 1 && e.extractLsb' 16 13 != 0) ||
  (device && !usable (pteAddr e) (if pteLeaf e && level == 1 then 8192 else 1))

/-- Index of a level (R85). -/
def pteIndex (level va : Nat) : Nat :=
  if level = 0 then va / 2 ^ 42 % 8192 else if level = 1 then va / 2 ^ 29 % 8192 else va / 65536 % 8192

/-- The entry at a device-physical address, read at its home slice (R89). -/
def readPte (m : Sparse 8) (a : Nat) : Dword := BitVec.ofNat 64 (readBytes m a 8)

/-- Memory as walks read it: with every entry write that the home slices have accepted, landed or not (R89, R133). -/
def State.tables (s : State) : Sparse 8 := s.ext.foldl (fun m w => writeBytes m w.addr w.data) s.mem

/-- A walk from a level down: address of the leaf entry, the leaf, and its level. `loc` gives the device-physical
address of an entry. Of an entry with P = 0 and malformed bits the reason is 0: the spec gives reasons 0 and 1 no order, and
the model tests P first (log 121). -/
def walkLevels (m : Sparse 8) (device : Bool) (stage : Nat) (loc : Nat → Except XFault Nat) (va : Nat) :
    Nat → Nat → Nat → Except XFault (Nat × Dword × Nat)
  | 0, level, _ => .error ⟨1, stage, level⟩
  | fuel + 1, level, table =>
    match loc (table + 8 * pteIndex level va) with
    | .error e => .error e
    | .ok a =>
      let e := readPte m a
      if !pteP e then .error ⟨0, stage, level⟩
      else if pteMalformed device level e then .error ⟨1, stage, level⟩
      else if pteLeaf e then .ok (a, e, level)
      else walkLevels m device stage loc va fuel (level + 1) (pteAddr e)

/-- Address of the 64 KiB page that a leaf gives to an address (R84). -/
def leafPage (e : Dword) (level va : Nat) : Nat :=
  if level = 1 then pteAddr e + va / 65536 % 8192 * 65536 else pteAddr e

/-- Stage 2 of function `f`: a guest-physical address to its device-physical page, with the leaf and its level (R90). -/
def State.stageTwo (s : State) (f gpa : Nat) : Except XFault (Nat × Dword × Nat × Nat) :=
  match walkLevels s.tables true 1 .ok gpa 3 0 (s.stage2.getD f 0) with
  | .error e => .error e
  | .ok (a, e, level) => .ok (a, e, level, leafPage e level gpa)

/-- A guest-physical address as a device-physical one. -/
def State.guestPhys (s : State) (f gpa : Nat) : Except XFault Nat :=
  match s.stageTwo f gpa with
  | .error e => .error e
  | .ok (_, _, _, page) => .ok (page + gpa % 65536)

/-- Attributes of two stages combined (R90). -/
def combineAttr (e1 e2 : Dword) : Dword :=
  let both := e1 &&& e2 &&& 0x18
  let either := (e1 ||| e2) &&& 0x60
  (e2 &&& 0xFE00000000000004) ||| both ||| either ||| 1

/-- The walk of an address of a context (R85, R90). -/
def State.walkTables (s : State) (f : Nat) (asid : BitVec 12) (table va : Nat) : Except XFault TlbEntry :=
  if f = 0 then
    match walkLevels s.tables true 0 .ok va 3 0 table with
    | .error e => .error e
    | .ok (a, e, level) =>
      .ok ⟨f, asid, va / 65536, leafPage e level va, e, a, none, level, none, e.getLsbD 8⟩
  else
    match walkLevels s.tables false 0 (s.guestPhys f) va 3 0 table with
    | .error e => .error e
    | .ok (a, e1, level) =>
      let gpa := leafPage e1 level va
      match s.stageTwo f gpa with
      | .error e => .error e
      | .ok (a2, e2, level2, page) =>
        .ok ⟨f, asid, va / 65536, page, combineAttr e1 e2, a, some (a2, gpa), level, some (e1, level2),
          e1.getLsbD 8 && e2.getLsbD 8⟩

/-- A cached translation of a page. -/
def State.tlbFind (s : State) (f : Nat) (asid : BitVec 12) (page : Nat) : Option TlbEntry :=
  s.tlb.find? (fun t => t.fn == f && t.asid == asid && t.page == page)

/-- The reason for which an access may not use a leaf, in the order of R93. -/
def attrReason (tenant : BitVec 6) (kind : Nat) (a : Dword) : Option Nat :=
  if pteTchk a && pteTenant a != tenant then some 4
  else if kind == kindFetch && !pteX a then some 3
  else if writes kind && pteROS a then some 5
  else if writes kind && !pteW a then some 2
  else none

/-- The fault of a leaf that an access may not use: of a VF the stage is the one whose own attribute forbids the access,
stage 1 before stage 2, and reason 4 is stage 2's (R90, R93, R95). -/
def TlbEntry.refusal (t : TlbEntry) (kind reason : Nat) : XFault :=
  match t.guest with
  | none => ⟨reason, 0, t.level⟩
  | some (e1, level2) =>
    let own := (reason == 3 && !pteX e1) || (reason == 5 && pteROS e1) || (reason == 2 && writes kind && !pteW e1)
    if own then ⟨reason, 0, t.level⟩ else ⟨reason, 1, level2⟩

/-- The translation of an address for an access kind, without side effects. The first page is never mapped (R23). A walk that
ends with one of reasons 2 to 5 fills no TLB here, and so leaves A as it was: the spec does not say whether it fills one (R86,
R93; log 121). -/
def State.lookup (s : State) (gr : Grid) (kind va : Nat) : Except XFault TlbEntry :=
  let r : Except XFault TlbEntry := match s.tlbFind gr.fn gr.asid (va / 65536) with
    | some t => .ok t
    | none => s.walkTables gr.fn gr.asid gr.table va
  match r with
  | .error e => .error e
  | .ok t =>
    if va < 65536 || 2 ^ 55 ≤ va then .error ⟨0, 0, 2⟩ else
    match attrReason gr.tenant kind t.attr with
    | some k => .error (t.refusal kind k)
    | none => .ok t

/-- ORs bits into the two bytes of an entry that hold A and D (R88). -/
def orPte (m : Sparse 8) (a : Nat) (lo hi : Byte) : Sparse 8 :=
  let m1 := m.set a (m.get a ||| lo)
  if hi = 0 then m1 else m1.set (a + 1) (m1.get (a + 1) ||| hi)

/-- The same in an entry write that has not landed. -/
def ExtWrite.orPte (w : ExtWrite) (a : Nat) (lo hi : Byte) : ExtWrite :=
  { w with data := w.data.mapIdx (fun k b => if w.addr + k = a then b ||| lo else if w.addr + k = a + 1 then b ||| hi else b) }

/-- Hardware sets bits of an entry, at its home slice (R72, R88). -/
def State.orEntry (s : State) (a : Nat) (lo hi : Byte) : State :=
  let s1 := s.homeStore (s.frameVia a) [(a, 0)]
  { s1.wrote [a / 32] with mem := Machine.orPte s1.mem a lo hi, ext := s1.ext.map (fun w => w.orPte a lo hi) }

/-- The dirty log of a VF (R448): a ring entry, or the bitmap once OVF is set. -/
def State.logDirty (s : State) (f gpa : Nat) : State :=
  let b := partBase f
  if f = 0 || !(s.reg (b + 0x190)).getLsbD 0 then s
  else
    let head := s.reg (b + 0x198)
    let tail := s.reg (b + 0x19C)
    if !(s.reg (b + 0x190)).getLsbD 1 && tail - head < 4096 then
      let at_ := (s.reg64 (b + 0x180)).toNat + 8 * (tail.toNat % 4096)
      (s.putMem at_ (leBytes 8 (gpa / 65536 * 65536))).setReg (b + 0x19C) (tail + 1)
    else
      let i := gpa / 2 ^ 25
      let at_ := (s.reg64 (b + 0x188)).toNat + i / 8
      (s.putMem at_ [s.mem.get at_ ||| (1#8 <<< (i % 8))]).setReg (b + 0x190)
        (s.reg (b + 0x190) ||| 2)

/-- Fills the TLB (A := 1) and, for a write, sets D with its log record (R86, R88, R448). The spec does not say whether the
update of a VF's stage-1 entry is itself a write of the guest page that holds the table: the model sets no D on that page's
stage-2 leaf for it, and logs nothing (log 121). -/
def State.useEntry (s : State) (t : TlbEntry) (kind : Nat) : State :=
  let cached := (s.tlbFind t.fn t.asid t.page).isSome
  let s1 := if cached then s
    else
      let s0 := s.orEntry t.leaf 0x80 0
      let s0 := match t.leaf2 with
        | none => s0
        | some (a2, _) => s0.orEntry a2 0x80 0
      { s0 with tlb := t :: s0.tlb }
  if writes kind && !t.dirty then
    let s2 := s1.orEntry t.leaf 0 1
    let s3 : State := match t.leaf2 with
      | none => s2
      | some (a2, gpa) =>
        if (readPte s2.tables a2).getLsbD 8 then s2
        else (s2.orEntry a2 0 1).logDirty t.fn gpa
    { s3 with tlb := s3.tlb.map (fun u =>
        if u.fn == t.fn && u.asid == t.asid && u.page == t.page then { u with dirty := true } else u) }
  else s1

/-- The trap code of a translation reason (R93). -/
def reasonCode (reason : Nat) : BitVec 8 := if reason < 2 then codeAddress else codePermission

end Sys2Proof.Machine
end

