-- ==== Sys2Proof/Machine/Access.lean ====
section
/-!
DEFINITION. The checks of one thread's access in the order of R33, from a pointer and a displacement to the storage
that the access reaches; the scratch handles (R24, R25, R27).
-/
namespace Sys2Proof.Machine

/-- Why the walk of an instruction stops at a thread. -/
inductive Stop where
  /-- A trap. -/
  | trap (t : Trap)
  /-- A translation fault: access kind, virtual address, and the trap that R93 gives it. -/
  | xlat (f : XFault) (kind va : Nat) (t : Trap)
  /-- The thread's access cannot be made yet; the walk goes on at this thread. -/
  | wait (thread : Nat)
  /-- The round closes before the instruction (R114, R117). -/
  | close
  deriving DecidableEq, Repr

/-- What the walk of an instruction comes to. -/
inductive Walk where
  /-- It is complete. -/
  | done (s : State)
  /-- It stops. -/
  | stop (s : State) (why : Stop)
  deriving DecidableEq, Repr

/-- Continues a complete walk. -/
def Walk.bind (w : Walk) (f : State → Walk) : Walk :=
  match w with
  | .done s => f s
  | .stop s y => .stop s y

/-- What an access is for. -/
inductive Use where
  /-- A load. -/
  | load
  /-- A store. -/
  | store
  /-- An atomic. -/
  | atomic
  /-- MON: a load of one byte that may not leave the package (R339). -/
  | mon
  /-- A load in the group's own name (R333). -/
  | uload
  deriving DecidableEq, Repr

/-- The access kind of a fault record (R95). -/
def Use.kind : Use → Nat
  | .load => kindLoad
  | .store => kindStore
  | .atomic => kindAtomic
  | .mon => kindLoad
  | .uload => kindLoad

/-- Where an access goes. -/
inductive Reach where
  /-- Device memory: global, private and uniform space. -/
  | glob
  /-- A scratchpad of the team. -/
  | scratch
  /-- Host memory or a peer package. -/
  | host
  /-- A control register. -/
  | mmio
  deriving DecidableEq, Repr

/-- An access that has passed its checks. -/
structure Target where
  /-- Where it goes. -/
  reach : Reach
  /-- The effective pointer (R21). -/
  ptr : Dword
  /-- Rank, for scratchpad. -/
  rank : Nat
  /-- Virtual address, scratchpad offset, or offset within the space. -/
  off : Nat
  /-- Device-physical address or scratchpad key; equal to `off` elsewhere. -/
  addr : Nat
  /-- The page is uncached. -/
  uc : Bool
  /-- The page is read-only-shared. -/
  ros : Bool
  deriving DecidableEq, Repr

/-- How an access that has passed its checks goes to its home. -/
def State.viaTo (s : State) (i policy : Nat) (x : Target) : Via := s.viaOf i policy x.uc x.ros

/-- SPACE of a pointer (R20). -/
def ptrSpace (p : Dword) : Nat := (p.extractLsb' 60 4).toNat
/-- RANK of a pointer. -/
def ptrRank (p : Dword) : Nat := (p.extractLsb' 55 5).toNat
/-- OFFSET of a pointer. -/
def ptrOffset (p : Dword) : Nat := (p.extractLsb' 0 55).toNat

/-- The effective pointer: SPACE and RANK unchanged, the offset modulo 2^55 (R21). -/
def effPtr (p : Dword) (disp : Int) : Dword :=
  p.extractLsb' 55 9 ++ BitVec.ofInt 55 (ptrOffset p + disp)

/-- A trap with a step of R33 in DETAIL and the pointer in INFO (R388, R495). -/
def stepTrap (code : BitVec 8) (thread step : Nat) (p : Dword) : Trap :=
  { Trap.plain code thread with detail := BitVec.ofNat 16 step, info := p }

/-- The privilege required is the DETAIL of PRIVILEGE (R388). -/
def privTrap (thread need : Nat) (p : Dword) : Trap :=
  { Trap.plain codePrivilege thread with detail := BitVec.ofNat 16 need, info := p }

/-- The trap of a translation fault (R93, R495). -/
def xlatTrap (f : XFault) (thread : Nat) (p : Dword) : Trap :=
  { Trap.plain (reasonCode f.reason) thread with detail := BitVec.ofNat 16 (8 + 16 * f.reason), info := p }

/-- A peer access is served by an enabled entry of that package for the tenant that holds all its bytes (R44, R458). -/
def State.peerServed (s : State) (tenant : BitVec 6) (pkg woff size : Nat) : Bool :=
  (List.range 64).any (fun e =>
    let b := 0x03000000 + 32 * e
    let c := s.reg64 b
    let lo := (s.reg64 (b + 8)).toNat
    let n := (s.reg64 (b + 16)).toNat
    c.getLsbD 0 && c.extractLsb' 1 6 == tenant && (c.extractLsb' 7 10).toNat == pkg &&
      lo ≤ woff && woff + size ≤ lo + n)

/-- Registers of reduction window `w` (R459). -/
def windowBase (w : Nat) : Nat := 0x02000000 + 64 * w

/-- The contribution region of a reduction window at package `pkg` meets bytes of an access (R459, R460). -/
def State.meetsRegion (s : State) (pkg woff size w : Nat) : Bool :=
  let lo := (s.reg64 (windowBase w + 8)).toNat
  let len := s.reg64 (windowBase w + 16)
  let n := (len.extractLsb' 0 32).toNat * (len.extractLsb' 32 20).toNat
  ((s.reg64 (windowBase w)).extractLsb' 14 10).toNat == pkg && lo < woff + size && woff < lo + n

/-- The enabled reduction window whose region an access meets (R460). -/
def State.regionOf (s : State) (pkg woff size : Nat) : Option Nat :=
  (List.range 32).find? (fun w => (s.reg64 (windowBase w)).getLsbD 0 && s.meetsRegion pkg woff size w)

/-- The window that a contribution names: an enabled one, else one with EN = 0, which refuses it as it lands (R460). -/
def State.windowOf (s : State) (pkg woff size : Nat) : Option Nat :=
  (s.regionOf pkg woff size).or ((List.range 32).find? (s.meetsRegion pkg woff size))

/-- Virtual address of a private offset of a thread (R34). -/
def State.privateVa (s : State) (i t off : Nat) : Nat :=
  let gr := s.gridOf i
  let w := s.wgOf i
  gr.pbase + (((w.id % gr.lcores * gr.slots + w.slot) * gr.ngrp + (s.grp i).gix) * 32 + t) * gr.priv + off

/-- The bytes of a peer pointer: package and offset (R44). -/
def peerOf (off : Nat) : Nat × Nat := (off / 2 ^ 44 % 1024, off % 2 ^ 44)
/-- A SPACE 4 offset names a peer package rather than the host (R43, R44). -/
def toPeer (off : Nat) : Bool := off / 2 ^ 54 % 2 == 1

/-- Steps 3 and 4 of R33 but for the windows of a peer: the pointer's own fields and the limits of its space. The step
that fails. -/
def State.fieldStep (s : State) (i : Nat) (p : Dword) (disp : Int) : Option Nat :=
  let gr := s.gridOf i
  let sp := ptrSpace p
  let eff := ptrOffset p + disp
  let off := eff.toNat
  if eff < 0 || 2 ^ 55 ≤ eff then some 3
  else if sp ≠ 1 && ptrRank p ≠ 0 then some 3
  else if sp = 1 && 2 ^ 19 ≤ off then some 3
  else if sp = 1 && (gr.teamCores ≤ ptrRank p || gr.scratchBytes ≤ off) then some 4
  else if sp = 2 && gr.priv ≤ off then some 4
  else if sp = 3 && 2 ^ 32 ≤ off then some 4
  else none

/-- The access lies in the contribution region of an enabled reduction window (R460). -/
def State.inRegion (s : State) (p : Dword) (disp : Int) (size : Nat) : Bool :=
  let off := ptrOffset (effPtr p disp)
  ptrSpace p == 4 && toPeer off && (s.regionOf (peerOf off).1 (peerOf off).2 size).isSome

/-- Steps 3 and 4 of R33. -/
def State.spaceStep (s : State) (i : Nat) (p : Dword) (disp : Int) (size : Nat) : Option Nat :=
  let off := ptrOffset (effPtr p disp)
  match s.fieldStep i p disp with
  | some k => some k
  | none =>
    if ptrSpace p = 4 && toPeer off && !s.peerServed (s.gridOf i).tenant (peerOf off).1 (peerOf off).2 size then some 4
    else none

/-- Steps 3 and 4 of an access, with the failures that R495 reports as 0: an access to a contribution region, and a
uniform load of private space. -/
def State.accessStep (s : State) (i : Nat) (u : Use) (p : Dword) (disp : Int) (size : Nat) : Option Nat :=
  match s.fieldStep i p disp with
  | some k => some k
  | none =>
    if s.inRegion p disp size then some 0
    else
      match s.spaceStep i p disp size with
      | some k => some k
      | none => if ptrSpace p = 2 && u = .uload then some 0 else none

/-- Steps 1 to 7 of R33: everything but translation. `natural` asks for natural alignment (R31). -/
def State.checkPlain (s : State) (i t : Nat) (u : Use) (p : Dword) (disp : Int) (size : Nat) (natural : Bool) :
    Except Trap Unit :=
  let sp := ptrSpace p
  let ep := effPtr p disp
  let off := ptrOffset ep
  if 6 ≤ sp then .error (stepTrap codeAddress t 1 ep)
  else if sp = 5 && (s.grp i).priv ≠ 2 then .error (privTrap t 2 ep)
  else
    match s.accessStep i u p disp size with
    | some k => .error (stepTrap codeAddress t k ep)
    | none =>
      if 64 < off % 64 + size then .error (stepTrap codeMisalign t 5 ep)
      else if natural && off % size ≠ 0 then .error (stepTrap codeMisalign t 5 ep)
      else if sp = 5 && u ≠ .mon && u ≠ .atomic && size ≠ 4 && size ≠ 8 then .error (stepTrap codeAddress t 5 ep)
      else if sp = 5 && off % size ≠ 0 then .error (stepTrap codeMisalign t 5 ep)
      else if (u = .atomic || u = .mon) && (sp = 4 || sp = 5) then .error (stepTrap codeAtomicSpace t 6 ep)
      else if (u = .store || u = .atomic) && sp = 3 then .error (stepTrap codePermission t 7 ep)
      else .ok ()

/-- The virtual address of an access to global, private or uniform space. -/
def State.virtualOf (s : State) (i t : Nat) (ep : Dword) : Nat :=
  if ptrSpace ep = 2 then s.privateVa i t (ptrOffset ep)
  else if ptrSpace ep = 3 then (s.gridOf i).args + ptrOffset ep
  else ptrOffset ep

/-- Steps 8 and 9: translation, its A and D bits, and the page's attributes. -/
def State.reachMemory (s : State) (i t : Nat) (u : Use) (ep : Dword) : State × Except Stop Target :=
  let gr := s.gridOf i
  let va := s.virtualOf i t ep
  match s.lookup gr u.kind va with
  | .error f => (s, .error (.xlat f u.kind va (xlatTrap f t ep)))
  | .ok e =>
    if u = .atomic && pteUC e.attr then
      (s.useEntry e kindLoad, .error (.trap (stepTrap codeAtomicSpace t 9 ep)))
    else
      (s.useEntry e u.kind, .ok ⟨.glob, ep, 0, va, e.base + va % 65536, pteUC e.attr, pteROS e.attr⟩)

/-- All nine steps of R33 for one access of thread `t` of group `i`. -/
def State.check (s : State) (i t : Nat) (u : Use) (p : Dword) (disp : Int) (size : Nat) (natural : Bool) :
    State × Except Stop Target :=
  match s.checkPlain i t u p disp size natural with
  | .error tr => (s, .error (.trap tr))
  | .ok () =>
    let ep := effPtr p disp
    let off := ptrOffset ep
    if ptrSpace ep = 1 then
      (s, .ok ⟨.scratch, ep, ptrRank ep, off, s.rankKey i (ptrRank ep) off, false, false⟩)
    else if ptrSpace ep = 4 then (s, .ok ⟨.host, ep, 0, off, off, false, false⟩)
    else if ptrSpace ep = 5 then (s, .ok ⟨.mmio, ep, 0, off, off, false, false⟩)
    else s.reachMemory i t u ep

/-- Words 0 to 2 of a fault record (R95); the context number is a free value (log 10). -/
def faultWords (va : Nat) (tenant : BitVec 6) (asid : BitVec 12) (kind : Nat) (f : XFault) (id : Word)
    (core lane gslot thread : Nat) (v : Dword) : List Dword :=
  [BitVec.ofNat 64 (va % 2 ^ 55),
   tenant ++ asid ++ BitVec.ofNat 3 kind ++ BitVec.ofNat 1 f.stage ++ BitVec.ofNat 2 f.level ++
     BitVec.ofNat 4 f.reason ++ 0#4 ++ id,
   v.extractLsb' 0 16 ++ BitVec.ofNat 3 (core / 144) ++ BitVec.ofNat 8 (core % 144) ++ BitVec.ofNat 4 lane ++
     BitVec.ofNat 3 gslot ++ BitVec.ofNat 5 thread ++ 0#25]

/-- The next FAULTID of a function: each counts its own (R95, R444). -/
def State.nextFault (s : State) (f : Nat) : Word := s.faultNext.get f

/-- A fault waits for its record. -/
def State.addFault (s : State) (e : FaultEntry) : State :=
  { s with faultNext := s.faultNext.set e.fn (e.id + 1), faults := s.faults ++ [e] }

/-- The record of a fault of group `i` at a thread. -/
def State.groupFault (s : State) (i va kind thread : Nat) (f : XFault) (id : Word) (v : Dword) : List Dword :=
  let g := s.grp i
  let gr := s.gridOf i
  faultWords va gr.tenant gr.asid kind f id g.core g.lane g.gslot thread v

/-! ### Scratch handles (R24, R25) -/

/-- RANK of a handle. -/
def handleRank (h : Word) : Nat := (h.extractLsb' 27 5).toNat
/-- OFFSET of a handle. -/
def handleOff (h : Word) : Nat := (h.extractLsb' 0 19).toNat

/-- The pointer that a handle denotes (R25). -/
def handlePtr (h : Word) : Dword := 1#4 ++ h.extractLsb' 27 5 ++ 0#36 ++ h.extractLsb' 0 19

/-- The checks of a handle's use (R25, R27, R349, R495): unused bits, rank, `size` bytes within the allotment,
alignment. -/
def State.checkHandle (s : State) (i t : Nat) (h : Word) (size align : Nat) : Option Trap :=
  let gr := s.gridOf i
  let p := h.setWidth 64
  if h.extractLsb' 19 8 ≠ 0 then some (stepTrap codeAddress t 3 p)
  else if gr.teamCores ≤ handleRank h || gr.scratchBytes ≤ handleOff h then some (stepTrap codeAddress t 4 p)
  else if handleOff h % align ≠ 0 then some (stepTrap codeMisalign t 5 p)
  else if gr.scratchBytes < handleOff h + size then some (stepTrap codeAddress t 4 p)
  else none

/-- Key of the scratchpad byte that a handle names. -/
def State.handleKey (s : State) (i : Nat) (h : Word) : Nat := s.rankKey i (handleRank h) (handleOff h)

end Sys2Proof.Machine
end

