-- ==== Sys2Proof/Machine/Rounds.lean ====
section
/-!
DEFINITION. Rounds of an ordering domain (R104, R113, R122, R129 to R131): who holds a round, when a write of another
agent may land between two rounds (R133), and the close of a group's round (R120).
-/
namespace Sys2Proof.Machine

/-- The workgroup record of workgroup `w` of a grid. -/
def State.findWg (s : State) (gd w : Nat) : Option Workgroup :=
  s.wgs.find? (fun x => x.grid == gd && x.id == w)

/-- The index of its record. -/
def State.findWgIx (s : State) (gd w : Nat) : Option Nat := s.wgs.findIdx? (fun x => x.grid == gd && x.id == w)

/-- Birth clock of one workgroup under R129 and R131, once its predecessor has retired. -/
def State.memberClock (s : State) (gd w : Nat) : Option Nat :=
  let g := s.grd gd
  let d := g.slots * g.lcores
  if w < d then some (64 * g.birth)
  else
    match s.findWg gd (w - d) with
    | some p => if p.retired then some p.lastLc else none
    | none => none

/-- Birth clock of a team: the largest of its members' (R130). -/
def State.teamClock (s : State) (gd team : Nat) : Option Nat :=
  let g := s.grd gd
  (List.range g.team).foldl (fun acc k =>
    match acc, s.memberClock gd (team * g.team + k) with
    | some a, some b => some (max a b)
    | _, _ => none) (some 0)

/-- The smallest key of a team's groups (R105). -/
def State.teamKey (s : State) (gd team : Nat) : List Nat := (s.grd gd).key ++ [32 * (team * (s.grd gd).team)]

/-- Teams of a grid that have started. -/
def State.startedTeams (s : State) (gd : Nat) : List Nat :=
  s.wgs.filterMap (fun x => if x.grid = gd then some (x.id / (s.grd gd).team) else none)

/-- Teams of a grid that have not started and may be waiting for their slots: in ORDERED mode those whose predecessors in
their slots have started, in FREE mode the next eight or more of every logical core, one at least for each die of a
pinned grid (R129, R194, R217, R226). -/
def State.waitingTeams (s : State) (gd : Nat) : List Nat :=
  let g := s.grd gd
  let started := s.startedTeams gd
  let d := g.slots * g.lcores / g.team
  let ahead := if g.ordered then d else 8 * g.lcores / g.team
  let n := min (g.nwg / g.team) (started.foldl (fun m t => max m (t + 1)) g.nextTeam + ahead) - g.nextTeam
  ((List.range n).map (fun k => g.nextTeam + k)).filter (fun t =>
    !started.contains t && (!g.ordered || t < d || started.contains (t - d)))

/-- A group does not hold round `r` of its domain (R122, R127). -/
def Group.past (g : Group) (r : Nat) : Bool :=
  match g.closing with
  | some q => r < q
  | none =>
    match g.st with
    | .retired => true
    | .sleeping =>
      match g.wake with
      | none => true
      | some w => r < w
    | _ => r < g.round

/-- Every live group and every waiting slot of a domain has closed the round to be applied next (R122, R129). -/
def State.roundReady (s : State) (dom : Nat) : Bool :=
  let r := (s.grd dom).applied
  (s.ctxGroups dom).all (fun i => (s.grp i).past r) &&
    (List.range s.grids.length).all (fun k =>
      (s.grd k).root != dom || (s.grd k).st == .done ||
        (s.waitingTeams k).all (fun t =>
          match s.teamClock k t with
          | none => true
          | some c => r < c / 64))

/-- No grid index: every domain counts. -/
def noDomain : Nat := 2 ^ 64

/-- The grid is the root of an ordering domain that has not ended. -/
def Grid.isDomain (g : Grid) : Bool := g.ordered && g.parent.isNone && g.st != .done

/-- The domain holds back a write of another agent to a line: loads of its present round have read it, and its context is
neither ended nor saved, in which states it stalls nobody (R133, R138; log 16). -/
def Grid.holds (g : Grid) (line : Nat) : Bool := g.isDomain && g.st != .saved && g.status.isNone && g.reads.contains line

/-- No ordering domain other than `except` holds back a write to some lines (R133; log 16). -/
def State.linesOk (s : State) (except : Nat) (lines : List Nat) : Bool :=
  (List.range s.grids.length).all (fun k => k == except || lines.all (fun l => !(s.grd k).holds l))

/-- A QUIESCE of the list has begun and is not complete. -/
def State.quiesceOpen (s : State) (q : Nat × Nat) : Bool := s.packets[q.2]?.any (fun p => p.st == .begun)

/-- The QUIESCE of a domain that has begun, is not complete, and has the lowest effective round: that round and its packet
(R232). -/
def State.quiescing (s : State) (d : Nat) : Option (Nat × Nat) :=
  ((s.grd d).quiesce.filter s.quiesceOpen).foldl (fun a q =>
    match a with
    | none => some q
    | some b => if q.1 < b.1 then some q else some b) none

/-- The lines that bytes from an address on lie in. -/
def linesFrom (addr n : Nat) : List Nat :=
  (List.range ((addr % 64 + n + 63) / 64)).map (fun k => addr / 64 + k)

/-- Closes round `q` of group `i`, which goes on at clock `lc`: its take buffer and its ordered operations become
its contribution (R113, R120). -/
def State.closeRound (s : State) (i q lc : Nat) : State :=
  let g := s.grp i
  let root := (s.gridOf i).root
  let c : Contribution := ⟨q, i, g.take, g.ops⟩
  (s.modGrp i (fun g => { g with lc := lc, take := [], ops := [] })).modGrid root
    (fun r => { r with contribs := r.contribs ++ [c], closed := max r.closed (q + 1) })

end Sys2Proof.Machine
end

