-- ==== Sys2Proof/Machine/Mem.lean ====
section
/-!
DEFINITION. Storage and what reaches it: bytes of device memory and scratchpads with their poison (R406), the path of a
store (R53), monitors (R339, R340), take buffers (R116, R142), atomics (R334, R335), and accesses in flight
(R152, R154).
-/
namespace Sys2Proof.Machine

/-! ### Storage -/

/-- The bytes of device memory or of the scratchpads. -/
def State.store (s : State) (scratch : Bool) : Sparse 8 := if scratch then s.scratch else s.mem

/-- `n` bytes as a little-endian number. -/
def State.peek (s : State) (scratch : Bool) (addr n : Nat) : Nat := readBytes (s.store scratch) addr n

/-- The ECC granule of a place in a structure, and its bytes: 32 in the cellar (structure 7), 8 in all else (R82, R406). -/
def granule (unit addr : Nat) : Nat × Nat := if unit = 7 then (addr / 32 * 32, 32) else (addr / 8 * 8, 8)

/-- A poison entry lies in scratchpad: structure 2 (R406). -/
def poisonScratch (e : Nat × Nat) : Bool := e.1 == 2

/-- Cells cover the whole granule of a poison entry. -/
def coversGranule (cells : List (Nat × Byte)) (e : Nat × Nat) : Bool :=
  let g := granule e.1 (8 * e.2)
  (List.range g.2).all (fun k => cells.any (fun c => c.1 == g.1 + k))

/-- Writes single bytes at their home; a granule whose every byte is written is poisoned no more (R72, R406). -/
def State.poke (s : State) (scratch : Bool) (cells : List (Nat × Byte)) : State :=
  let m := cells.foldl (fun m c => m.set c.1 c.2) (s.store scratch)
  let keep := s.poison.filter (fun e => poisonScratch e != scratch || !coversGranule cells e)
  if scratch then { s with scratch := m, poison := keep }
  else { s.wrote (sectorsOf cells) with mem := m, poison := keep }

/-! ### Writes that land after the present round of a domain (R133; log 16) -/

/-- The lines that cells lie in. -/
def linesOf (cells : List (Nat × Byte)) : List Nat := (cells.map (fun c => c.1 / 64)).eraseDups

/-- A write to a line lands after the present round of a domain: it is another agent's, and loads of that round have read
the line. -/
def State.landsLater (s : State) (writer : Option Nat) (scratch : Bool) (dom line : Nat) : Bool :=
  !scratch && (s.grd dom).isDomain && (s.grd dom).reads.contains line &&
    writer.all (fun i => (s.gridOf i).root != dom)

/-- The bytes of a line of device memory. -/
def State.lineBits (s : State) (line : Nat) : BitVec 512 := BitVec.ofNat 512 (readBytes s.mem (64 * line) 64)

/-- The bytes of a line that cells write. -/
def lineMask (line : Nat) (cells : List (Nat × Byte)) : BitVec 64 :=
  cells.foldl (fun m c => if c.1 / 64 = line then m ||| (1#64 <<< (c.1 % 64)) else m) 0

/-- A line is kept as it stands before it is first written; the bytes written since are added. -/
def putOld (old : List (Nat × BitVec 512 × BitVec 64)) (line : Nat) (was : BitVec 512) (mask : BitVec 64) :
    List (Nat × BitVec 512 × BitVec 64) :=
  match old with
  | [] => [(line, was, mask)]
  | e :: r => if e.1 = line then (line, e.2.1, e.2.2 ||| mask) :: r else e :: putOld r line was mask

/-- Every domain to which a write lands later keeps what the line held. -/
def State.keepOld (s : State) (writer : Option Nat) (cells : List (Nat × Byte)) : State :=
  { s with grids := s.grids.mapIdx (fun k (g : Grid) => { g with
      old := ((linesOf cells).filter (s.landsLater writer false k)).foldl
        (fun o l => putOld o l (s.lineBits l) (lineMask l cells)) g.old }) }

/-- A byte of device memory as the present round of a domain has it, where it differs from memory. -/
def oldByte (old : List (Nat × BitVec 512 × BitVec 64)) (a : Nat) : Option Byte :=
  (old.find? (fun e => e.1 == a / 64)).map (fun e => e.2.1.extractLsb' (8 * (a % 64)) 8)

/-- `n` bytes of a number read at an address, those that the present round of a domain has otherwise replaced. -/
def underOld (old : List (Nat × BitVec 512 × BitVec 64)) (a : Nat) : Nat → Nat → Nat
  | 0, _ => 0
  | n + 1, v => ((oldByte old a).getD (BitVec.ofNat 8 v)).toNat + 256 * underOld old (a + 1) n (v / 256)

/-- A value read from device memory as the domain of an access has it (R142). -/
def State.asDomain (s : State) (v : Via) (a n x : Nat) : Nat :=
  match v.dom with
  | none => x
  | some d => if (s.grd d).old = [] then x else underOld (s.grd d).old a n x

/-- Consecutive bytes as cells. -/
def cellsOf (addr : Nat) : List Byte → List (Nat × Byte)
  | [] => []
  | b :: bs => (addr, b) :: cellsOf (addr + 1) bs

/-- A poisoned granule that a read of `n` bytes meets. -/
def State.poisonAt (s : State) (scratch : Bool) (addr n : Nat) : Option (Nat × Nat) :=
  s.poison.find? (fun e => poisonScratch e == scratch && addr / 8 ≤ e.2 && e.2 ≤ (addr + n - 1) / 8)

/-- The trap of a consumed error (R388, R406). -/
def eccTrap (thread : Nat) (e : Nat × Nat) : Trap :=
  { Trap.plain codeEcc thread with detail := BitVec.ofNat 16 e.1, info := BitVec.ofNat 64 (8 * e.2) }

/-- The group to which an error that no instruction consumed is delivered: the one that it names, or, when that has
retired, the group of the context with the smallest key that has not (R406). -/
def State.errorReceiver (s : State) (i : Nat) : Option Nat :=
  if (s.grp i).st ≠ .retired then some i
  else
    let rest := (s.ctxGroups (s.gridOf i).root).filter (fun k => (s.grp k).st != .retired)
    if rest = [] then none else some (s.smallest rest)

/-- An error that no instruction of group `i` consumed: SRC 3 at its receiver's next boundary; a context without a group
that could receive it has received a machine check all the same (R406; log 116). -/
def State.lateError (s : State) (i : Nat) (e : Nat × Nat) : State :=
  match s.errorReceiver i with
  | some k => s.modGrp k (fun g => { g with pend := g.pend ++ [{ eccTrap g.lowestAlive e with src := 3 }] })
  | none => s.modGrid (s.gridOf i).root (fun r => { r with mcheck := true })

/-! ### Monitors -/

/-- A write touches an armed line. -/
def ArmedLine.touched (l : ArmedLine) (scratch : Bool) (lines : List Nat) : Bool :=
  l.scratch == scratch && lines.contains l.place

/-- A sleeping MWAIT of FREE mode with a line that has fired wakes with FIRED (R340). -/
def Group.wakeFired (g : Group) : Group :=
  match g.st, g.sleep with
  | .sleeping, some ⟨.mwait gd, _, _⟩ =>
    if g.armed.any (·.fired) then
      { g.wg' gd 0 with
        st := g.resumed, sleep := none, wake := none, armed := g.armed.map (fun l => { l with fired := false }) }
    else g
  | _, _ => g

/-- The round of a domain in which a write counts, plus one: the round being applied for its own contributions, the
last applied round for a write of another agent (R127, R133). -/
def State.writeStamp (s : State) (writer : Option Nat) (dom : Nat) : Nat :=
  let own := match writer with
    | some i => (s.gridOf i).root == dom
    | none => false
  if own then (s.grd dom).applied + 1 else (s.grd dom).applied

/-- The number under which a writer is recorded. -/
def writerId (writer : Option Nat) : Nat := writer.getD noDomain

/-- What an ordering domain keeps of a write: lines written from outside (R134), and, while one of its groups has a
monitor, the write itself (R340). -/
def State.recordWrite (s : State) (writer : Option Nat) (scratch : Bool) (all : List Nat) (dom : Nat) (g : Grid) :
    Grid :=
  if !g.isDomain then g
  else
    let lines := all.filter (fun l => !s.landsLater writer scratch dom l)
    let outer := match writer with
      | some i => (s.gridOf i).root != dom
      | none => true
    let armed := s.groups.any (fun x => x.armed ≠ [] && (s.grd x.grid).root == dom)
    { g with
      extLines := if outer && !scratch && !g.ext then g.extLines ++ lines.filter (fun l => !g.extLines.contains l)
        else g.extLines
      wrote := if armed then g.wrote ++ lines.map (fun l => (s.writeStamp writer dom, scratch, l, writerId writer))
        else g.wrote }

/-- FIRED is set on the lines that a write touches. -/
def Group.mark (g : Group) (scratch : Bool) (lines : List Nat) : Group :=
  { g with armed := g.armed.map (fun l => if l.touched scratch lines then { l with fired := true } else l) }

/-- The earlier of two wake rounds. -/
def earlier (w : Option Nat) (r : Nat) : Option Nat :=
  match w with
  | none => some r
  | some a => some (min a r)

/-- A sleeping MWAIT of ORDERED mode with a line that has fired wakes at the round after the one applied last, but not
before the round after its own (R127; log 22). -/
def Group.wakeSoon (g : Group) (applied : Nat) : Group :=
  match g.st, g.sleep with
  | .sleeping, some ⟨.mwait _, _, _⟩ =>
    if g.armed.any (·.fired) then { g with wake := earlier g.wake (max applied g.round) } else g
  | _, _ => g

/-- What a write does to the armed lines of a group: in FREE mode it sets FIRED; in ORDERED mode when it counts from the
set's round m on, and a write from outside the domain wakes its sleeper at the next round (R127, R340, R341). -/
def State.fireGroup (s : State) (writer : Option Nat) (scratch : Bool) (lines : List Nat) (g : Group) : Group :=
  let root := (s.grd g.grid).root
  if (s.grd g.grid).ordered then
    let d := s.grd root
    let now := g.mark scratch (lines.filter (fun l => !s.landsLater writer scratch root l))
    if g.monRound < s.writeStamp writer root then
      (if s.writeStamp writer root = d.applied then now.wakeSoon d.applied else now)
    else g
  else if (s.grd g.grid).st = .saved then g.mark scratch lines
  else (g.mark scratch lines).wakeFired

/-- A write by group `writer` (none: another agent) reaches the armed lines of every other group (R127, R340, R341). -/
def State.fire (s : State) (writer : Option Nat) (scratch : Bool) (lines : List Nat) : State :=
  { s with
    groups := s.groups.mapIdx (fun i g => if some i == writer || g.armed = [] then g else s.fireGroup writer scratch lines g)
    grids := s.grids.mapIdx (s.recordWrite writer scratch lines) }

/-- Writes of others that landed after the round of a domain that has just been applied reach its monitors (R133, R340). -/
def State.fireLate (s : State) (dom : Nat) (lines : List Nat) : State :=
  { s with
    groups := s.groups.map (fun g =>
      if (s.grd g.grid).root != dom || g.armed = [] then g else s.fireGroup none false lines g)
    grids := s.grids.mapIdx (fun k g => if k = dom then s.recordWrite none false lines k g else g) }

/-- Another agent, or a frame change, has written a line during the domain's life (R134). -/
def Grid.admits (g : Grid) (line : Nat) : Bool :=
  g.extLines.contains line || g.extFrames.any (fun r => r.1 ≤ line / 1024 && line / 1024 < r.1 + r.2)

/-- A domain reads lines of memory: when another agent has written one of them, external input is admitted (R134). -/
def Grid.seeLines (g : Grid) (lines : List Nat) : Grid :=
  { g with seen := g.seen ++ lines.filter (fun l => !g.seen.contains l), ext := g.ext || lines.any g.admits }

/-- An ORDERED group reads lines of memory: of its domain's present round they count as read (R133). -/
def State.noteRead (s : State) (i : Nat) (scratch : Bool) (addr n : Nat) : State :=
  if scratch || !(s.gridOf i).ordered then s
  else
    let lines := linesFrom addr n
    s.modGrid (s.gridOf i).root (fun g =>
      { g.seeLines lines with reads := g.reads ++ lines.filter (fun l => !g.reads.contains l) })

/-- An ORDERED operation reads lines at its cue (R134): its domain's rounds hold no write back for it. -/
def State.noteInput (s : State) (i : Nat) (scratch : Bool) (addr n : Nat) : State :=
  if scratch || !(s.gridOf i).ordered then s
  else s.modGrid (s.gridOf i).root (fun g => g.seeLines (linesFrom addr n))

/-- EXTLAND of one line that lands for a domain: a record of its home slice for the domain's tenant, when the domain has read
the line; A is the landing round, the last one applied (R133, R411, R412; log 117). -/
def State.tapLanding (s : State) (dom line : Nat) : State :=
  let g := s.grd dom
  if g.seen.contains line then
    s.tapSlice 0x33 g.tenant (64 * line) (BitVec.ofNat 32 (g.applied + 2 ^ 32 - 1)) (lineField (64 * line))
  else s

/-- A write of some lines lands for the ordering domains whose external write it is, but for those to which it lands later
(R133, R411). -/
def State.tellDomains (s : State) (writer : Option Nat) (lines : List Nat) : State :=
  if s.slots = [] then s
  else
    (List.range s.grids.length).foldl (fun s k =>
      if (s.grd k).isDomain && writer.all (fun i => (s.gridOf i).root != k) then
        (lines.filter (fun l => !s.landsLater writer false k l)).foldl (fun s l => s.tapLanding k l) s
      else s) s

/-- External input is admitted to the domain of group `i` (R134). -/
def State.external (s : State) (i : Nat) : State :=
  if (s.gridOf i).ordered then s.modGrid (s.gridOf i).root (fun g => { g with ext := true }) else s

/-- A store is performed at its home slice or bank; what an ORDERED domain publishes is reported to every L1 and RDC
(R53, R61, R70, R72). -/
def State.performHome (s : State) (i : Nat) (v : Via) (scratch : Bool) (cells : List (Nat × Byte)) : State :=
  if scratch then (s.poke true cells).fire (some i) true (linesOf cells)
  else
    let s1 := ((s.keepOld (some i) cells).homeStore v cells).poke false cells
    ((if v.dom.isSome then s1.digest (linesOf cells) else s1).fire (some i) false (linesOf cells)).tellDomains (some i)
      (linesOf cells)

/-- A store of group `i` goes through the L1 of its core and the RDC of its die to the home; in ORDERED mode, and to an
uncached page, straight to the home (R53, R56, R60). -/
def State.performStore (s : State) (i : Nat) (v : Via) (scratch : Bool) (cells : List (Nat × Byte)) : State :=
  if scratch || v.uc || v.dom.isSome then s.performHome i v scratch cells
  else ((s.l1Write (s.grp i).core cells).rdcWrite ((s.grp i).core / 144) cells).performHome i v scratch cells

/-! ### Take buffers -/

/-- The bytes of an entry that a load of one byte finds. -/
def takeByte (es : List TakeEntry) (scratch : Bool) (rank va : Nat) : Option Byte :=
  match es.find? (fun e => e.scratch == scratch && e.rank == rank && e.line == va / 64) with
  | some e => if e.mask.getLsbD (va % 64) then some (e.data.extractLsb' (8 * (va % 64)) 8) else none
  | none => none

/-- Puts one byte into an entry. -/
def TakeEntry.put (e : TakeEntry) (k : Nat) (b : Byte) : TakeEntry :=
  { e with
    mask := e.mask ||| (1#64 <<< k)
    data := (e.data &&& ~~~((0xFF#512) <<< (8 * k))) ||| (b.setWidth 512 <<< (8 * k)) }

/-- Puts one byte into a take buffer (R64, R116); `e0` gives the line's place and how it is published. -/
def takePut (es : List TakeEntry) (e0 : TakeEntry) (va : Nat) (b : Byte) : List TakeEntry :=
  match es with
  | [] => [e0.put (va % 64) b]
  | e :: r =>
    if e.scratch == e0.scratch && e.rank == e0.rank && e.line == va / 64 then
      { e.put (va % 64) b with policy := e0.policy, uc := e0.uc } :: r
    else e :: takePut r e0 va b

/-- Stores consecutive bytes of one line into a take buffer. -/
def takeBytes (es : List TakeEntry) (e0 : TakeEntry) (va : Nat) : List Byte → List TakeEntry
  | [] => es
  | b :: bs => takeBytes (takePut es e0 va b) e0 (va + 1) bs

/-- An empty entry for a line: space, rank, virtual address and place of a byte of it. -/
def TakeEntry.blank (scratch : Bool) (rank va place policy : Nat) (uc : Bool) : TakeEntry :=
  ⟨scratch, rank, va / 64, place / 64, 0, 0, policy, uc, false⟩

/-- A byte as an ORDERED operation of the group sees it: its own buffer first, else the state after the round before
(R142). -/
def State.ordByte (s : State) (i : Nat) (scratch : Bool) (rank va addr : Nat) : Byte :=
  match takeByte (s.grp i).take scratch rank va with
  | some b => b
  | none => (s.store scratch).get addr

/-- `n` bytes as an ORDERED operation sees them. -/
def State.ordRead (s : State) (i : Nat) (scratch : Bool) (rank va addr : Nat) : Nat → Nat
  | 0 => 0
  | n + 1 => (s.ordByte i scratch rank va addr).toNat + 256 * s.ordRead i scratch rank (va + 1) (addr + 1) n

/-- `n` bytes of a number, those that the group's take buffer holds replaced by its own (R54, R142). -/
def overTake (es : List TakeEntry) (scratch : Bool) (rank va : Nat) : Nat → Nat → Nat
  | 0, _ => 0
  | n + 1, v =>
    ((takeByte es scratch rank va).getD (BitVec.ofNat 8 v)).toNat + 256 * overTake es scratch rank (va + 1) n (v / 256)

/-! ### Atomics -/

/-- What an atomic writes, if it writes, and its flags (R334, R335). -/
def atomValue (fpcr : Word) (op : AtomOp) (wide : Bool) (m v n : Dword) : Option Dword × Fx :=
  let w := if wide then 64 else 32
  let a := m.setWidth w
  let b := v.setWidth w
  let out := fun (x : BitVec w) => (some (x.setWidth 64), (0 : Fx))
  match op with
  | .add => out (a + b)
  | .min => out (if a.slt b then a else b)
  | .max => out (if a.slt b then b else a)
  | .minz => out (if a.ult b then a else b)
  | .maxz => out (if a.ult b then b else a)
  | .and => out (a &&& b)
  | .or => out (a ||| b)
  | .xor => out (a ^^^ b)
  | .exch => out b
  | .cas => if a = b then out (n.setWidth w) else (none, 0)
  | .fadd =>
    let r := fpAdd fpcr .f32 (m.extractLsb' 0 32).toNat (v.extractLsb' 0 32).toNat
    (some (BitVec.ofNat 64 r.code), r.fx)

/-- Bytes of an atomic. -/
def AtomReq.size (r : AtomReq) : Nat := if r.wide then 8 else 4

/-- Writes the old value to the thread's destination. -/
def Group.setOld (g : Group) (r : AtomReq) (m : Dword) : Group :=
  if r.wide then g.wx64 r.thread r.d m else g.wx r.thread r.d (m.extractLsb' 0 32)

/-- One thread's read-modify-write at the storage: the cells it writes, the old value and the flags. -/
def State.atomAt (s : State) (i : Nat) (r : AtomReq) : List (Nat × Byte) × Dword × Fx :=
  let m := BitVec.ofNat 64 (s.peek r.scratch r.addr r.size)
  let o := atomValue (s.gridOf i).fpcr r.op r.wide m r.v r.n
  (match o.1 with
   | some v => cellsOf r.addr (leBytes r.size v.toNat)
   | none => [], m, o.2)

/-- An atomic is performed at its home slice or bank; in ORDERED mode its read is one of the domain (R73, R134, R140,
R153). -/
def State.performAtom (s : State) (i : Nat) (r : AtomReq) : State :=
  let o := s.atomAt i r
  let v := s.viaOf i 0 false false
  let s0 := s.noteInput i r.scratch r.addr r.size
  let s1 := if o.1 = [] then (if r.scratch then s0 else s0.homeAccess v (r.addr / 32) false)
    else s0.performStore i v r.scratch o.1
  s1.modGrp i (fun g => (g.setOld r o.2.1).orFx o.2.2)

/-! ### Accesses in flight -/

/-- The pieces of an access: one per unit of 4 bytes that it touches, unless it is whole (R152). -/
def pieces (whole : Bool) (addr size : Nat) : List (Nat × Nat) :=
  if whole then [(0, size)]
  else
    (List.range ((addr + size - 1) / 4 - addr / 4 + 1)).map (fun k =>
      let lo := if k = 0 then 0 else 4 * (addr / 4 + k) - addr
      let hi := min size (4 * (addr / 4 + k + 1) - addr)
      (lo, hi - lo))

/-- Sign- or zero-extension of a loaded value to the bits of its destination (R329). -/
def extendLoad (size : Nat) (sx : Bool) (v : Nat) : Nat :=
  if sx && size < 4 && v / 2 ^ (8 * size - 1) % 2 = 1 then v + 2 ^ 32 - 2 ^ (8 * size) else v

/-- Registers that a loaded value takes. -/
def loadRegs (size : Nat) : Nat := if size ≤ 4 then 1 else size / 4

/-- Writes words, least significant first, to consecutive thread or uniform registers. -/
def Group.wwords (g : Group) (uni : Bool) (t r : Nat) : Nat → Nat → Group
  | 0, _ => g
  | n + 1, v =>
    let w := BitVec.ofNat 32 v
    (if uni then g.wg' r w else g.wx t r w).wwords uni t (r + 1) n (v / 2 ^ 32)

/-- Reads consecutive registers as one number. -/
def Group.rwords (g : Group) (uni : Bool) (t r : Nat) : Nat → Nat
  | 0 => 0
  | n + 1 => (if uni then g.rg r else g.rx t r).toNat + 2 ^ 32 * g.rwords uni t (r + 1) n

/-- A loaded value reaches its destination; a uniform load of g0 discards it (R329, R333). -/
def Group.setLoaded (g : Group) (uni : Bool) (t r size : Nat) (sx : Bool) (v : Nat) : Group :=
  if uni && r = 0 then g else g.wwords uni t r (loadRegs size) (extendLoad size sx v)

/-- A piece of a loaded value reaches its destination. -/
def Group.setPiece (g : Group) (f : Flight) (v : Nat) : Group :=
  if f.uni && f.reg = 0 then g
  else
    let n := loadRegs f.size
    let old := g.rwords f.uni f.thread f.reg n
    let cut := old % 2 ^ (8 * f.lo) + old / 2 ^ (8 * (f.lo + f.n)) * 2 ^ (8 * (f.lo + f.n))
    let new := cut + v * 2 ^ (8 * f.lo)
    g.wwords f.uni f.thread f.reg n
      (if f.lo + f.n = f.size then extendLoad f.size f.sx (new % 2 ^ (8 * f.size)) else new)

/-- An access in flight shares a unit with another (R154). -/
def Flight.meets (f : Flight) (scratch : Bool) (addr size : Nat) : Bool :=
  f.scratch == scratch && f.addr / 4 ≤ (addr + size - 1) / 4 && addr / 4 ≤ (f.addr + f.n - 1) / 4

/-- The bytes of a store in flight. -/
def Flight.cells (f : Flight) : List (Nat × Byte) :=
  (List.range f.n).map (fun k => (f.addr + k, f.data.extractLsb' (8 * k) 8))

/-- Pieces of one store: those of the thread to one pointer, since older ones to the same units have been performed. -/
def Flight.sameStore (f x : Flight) : Bool :=
  x.kind == 1 && x.thread == f.thread && x.ptr == f.ptr && x.scratch == f.scratch && x.size == f.size

/-- The pieces of a store reach the home together when an ordering domain lives, which sees the store land in one round
(R165), and when the store covers a poisoned granule (R406). -/
def State.together (s : State) (cells : List (Nat × Byte)) (f : Flight) : Bool :=
  s.grids.any Grid.isDomain || s.poison.any (fun e => poisonScratch e == f.scratch && coversGranule cells e)

/-- The pieces, of some accesses in flight, that are performed with a store piece. -/
def State.pieceSet (s : State) (fs : List Flight) (f : Flight) : List Flight :=
  let all := fs.filter f.sameStore
  if s.together (all.flatMap Flight.cells) f then all else [f]

/-- A store of a group in flight is performed: in one step it passes the L1 and the RDC and reaches the home, so that no
load sees it before the home has it (R53, R58, R154, R155, R160; log 113). -/
def State.performPieces (s : State) (i : Nat) (f : Flight) (fs : List Flight) : State :=
  s.performStore i f.via f.scratch (fs.flatMap Flight.cells)

/-- Performs the store of piece `f` of group `i`, with the pieces that go with it. -/
def State.sendStore (s : State) (i : Nat) (f : Flight) : State :=
  let fs := s.pieceSet (s.grp i).flight f
  (s.modGrp i (fun g => { g with flight := g.flight.filter (fun x => !fs.contains x) })).performPieces i f fs

/-- A load that looks up the L1 of a core, and a cacheable store in flight from that core, share bytes (R58). -/
def Flight.ahead (f : Flight) (v : Via) (addr n : Nat) : Bool :=
  f.kind == 1 && !f.via.uc && v.policy ≠ 1 && !v.uc && v.dom.isNone && f.meets false addr n

/-- Stores in flight from a core that a load there finds ahead of it (R58). -/
def State.storesAhead (s : State) (core : Nat) (v : Via) (addr n : Nat) : List (Nat × Flight) :=
  s.groupIds.flatMap (fun k =>
    if (s.grp k).core = core then ((s.grp k).flight.filter (fun f => f.ahead v addr n)).map (fun f => (k, f)) else [])

/-- A load waits: a store ahead of it may not land yet (R58, R133). -/
def State.loadHeld (s : State) (i : Nat) (v : Via) (addr n : Nat) : Bool :=
  (s.storesAhead (s.grp i).core v addr n).any (fun x => !s.linesOk noDomain [x.2.addr / 64])

/-- The stores ahead of a load are performed before it (R58). -/
def State.clearWay (s : State) (core : Nat) (v : Via) (addr n : Nat) : State :=
  (s.storesAhead core v addr n).foldl (fun s x =>
    if (s.grp x.1).flight.contains x.2 then s.sendStore x.1 x.2 else s) s

/-- A load of `n` bytes of device memory by group `i`: in FREE mode behind the stores ahead of it on its core (R58), in
ORDERED mode as its domain's present round has the bytes (R133, R142). -/
def State.readMem (s : State) (i : Nat) (v : Via) (addr n : Nat) : Nat × State :=
  let core := (s.grp i).core
  let (x, s1) := (s.clearWay core v addr n).cacheRead core v addr n
  (s1.asDomain v addr n x, s1)

/-- Performs one access of group `i` that was in flight; `fs` are the pieces of a store. -/
def State.performFlight (s : State) (i : Nat) (f : Flight) (fs : List Flight) : State :=
  match f.kind with
  | 0 =>
    let (v, s1) := if f.scratch then (s.peek true f.addr f.n, s) else s.readMem i f.via f.addr f.n
    s1.modGrp i (fun g => g.setPiece f v)
  | 1 => s.performPieces i f fs
  | _ =>
    match f.atom with
    | some r => s.performAtom i r
    | none => s

/-- Some accesses of a group as they are performed, oldest first: the pieces of a store where its first one stands. -/
def State.inTurn (s : State) (all : List Flight) : List (Flight × List Flight) :=
  (all.map (fun f => (f, if f.kind = 1 then s.pieceSet all f else [f]))).filter (fun x => x.2.head? == some x.1)

/-- A load that was sent under an older generation tag: its response is dropped, and it is to be sent again (R400). -/
def Group.stale (g : Group) (f : Flight) : Bool := f.kind == 0 && f.gen != g.gen

/-- Performs those of the group's accesses in flight that meet a condition, oldest first; the pieces of a store that go
together go with any of them. -/
def State.drain (s : State) (i : Nat) (p : Flight → Bool) : State :=
  let fs := (s.grp i).flight
  let q := fun (f : Flight) => !(s.grp i).stale f && p f || (f.kind == 1 && (s.pieceSet fs f).any p)
  (s.inTurn (fs.filter q)).foldl (fun s x => s.performFlight i x.1 x.2)
    (s.modGrp i (fun g => { g with flight := fs.filter (fun f => !q f) }))

/-- A load whose destination no open window covers must have returned before the next issue (R263). -/
def Group.windowOpen (g : Group) (f : Flight) : Bool :=
  g.windows.any (fun w => w.uni == f.uni && w.reg ≤ f.reg && f.reg < w.reg + w.count)

/-- A store or an atomic in flight. -/
def Flight.writes (f : Flight) : Bool := f.kind ≠ 0

end Sys2Proof.Machine
end

