-- ==== Sys2Proof/Machine/Engine.lean ====
section
/-!
DEFINITION. Transaction barriers and slot rings (R179 to R185): their layouts in scratchpad and the operations on them.
-/
namespace Sys2Proof.Machine

/-! ### Transaction barriers (R182, R183) -/

/-- A barrier's fields. -/
structure Barrier where
  /-- Pending bytes. -/
  pend : Int
  /-- PHASE. -/
  phase : Bool
  /-- OVR. -/
  ovr : Bool
  /-- TOVR. -/
  tovr : Bool
  /-- VALID. -/
  valid : Bool
  /-- ARRIVED. -/
  arrived : Nat
  /-- EXPECT as stored. -/
  expect : Nat
  /-- PHASES. -/
  phases : Word
  deriving DecidableEq, Repr

/-- Bit `k` of a number. -/
def natBit (v k : Nat) : Bool := v / 2 ^ k % 2 = 1

/-- A number of `w` bits read as two's complement. -/
def signedNat (w v : Nat) : Int := (BitVec.ofNat w v).toInt

/-- The barrier in 16 bytes. -/
def Barrier.ofNat (v : Nat) : Barrier :=
  ⟨signedNat 32 (v / 2 ^ 32 % 2 ^ 32), natBit v 31, natBit v 30, natBit v 29, natBit v 28, v / 2 ^ 11 % 2 ^ 11,
    v % 2 ^ 11, BitVec.ofNat 32 (v / 2 ^ 64)⟩

/-- The 16 bytes of a barrier. -/
def Barrier.toNat (b : Barrier) : Nat :=
  let bit := fun (x : Bool) (k : Nat) => if x then 2 ^ k else 0
  b.expect % 2 ^ 11 + b.arrived % 2 ^ 11 * 2 ^ 11 + bit b.valid 28 + bit b.tovr 29 + bit b.ovr 30 + bit b.phase 31 +
    (BitVec.ofInt 32 b.pend).toNat * 2 ^ 32 + b.phases.toNat * 2 ^ 64

/-- binit. -/
def Barrier.init (count : Nat) (tovr : Bool) : Barrier :=
  ⟨0, false, false, tovr, true, 0, count % 1024, 0⟩

/-- PEND arithmetic: it saturates and sets OVR outside the signed 32-bit range. -/
def Barrier.addPend (b : Barrier) (k : Int) : Barrier :=
  let p := b.pend + k
  if p < -2 ^ 31 then { b with pend := -2 ^ 31, ovr := true }
  else if 2 ^ 31 - 1 < p then { b with pend := 2 ^ 31 - 1, ovr := true }
  else { b with pend := p }

/-- check: the phase completes when all have arrived and no byte is pending. -/
def Barrier.check (b : Barrier) : Barrier :=
  if b.arrived = (if b.expect = 0 then 1024 else b.expect) ∧ b.pend ≤ 0 then
    { b with ovr := b.pend < 0, pend := 0, arrived := 0, phase := !b.phase, phases := b.phases + 1 }
  else b

/-- bexp. -/
def Barrier.bexp (b : Barrier) (bytes : Nat) : Barrier := (b.addPend bytes).check
/-- barv. -/
def Barrier.barv (b : Barrier) (bytes : Nat) : Barrier :=
  ({ b with arrived := (b.arrived + 1) % 2 ^ 11 }.addPend bytes).check
/-- credit, at the landing of a copy. -/
def Barrier.credit (b : Barrier) (bytes : Nat) : Barrier := (b.addPend (-bytes)).check

/-! ### Slot rings (R179, R180) -/

/-- A ring header's fields. -/
structure Ring where
  /-- BASE. -/
  base : Word
  /-- SIZE. -/
  size : Nat
  /-- LCOUNT. -/
  lcount : Nat
  /-- RELN. -/
  reln : Nat
  /-- RELC. -/
  relc : Nat
  /-- VALID. -/
  valid : Bool
  /-- ERR. -/
  err : Bool
  /-- WIDX. -/
  widx : Word
  /-- RIDX. -/
  ridx : Word
  /-- FILLED. -/
  filled : Dword
  deriving DecidableEq, Repr

/-- The header in 32 bytes. -/
def Ring.ofNat (v : Nat) : Ring :=
  ⟨BitVec.ofNat 32 v, v / 2 ^ 32 % 2 ^ 32, v / 2 ^ 64 % 256, v / 2 ^ 72 % 256, v / 2 ^ 80 % 256, natBit v 88,
    natBit v 89, BitVec.ofNat 32 (v / 2 ^ 96), BitVec.ofNat 32 (v / 2 ^ 128), BitVec.ofNat 64 (v / 2 ^ 192)⟩

/-- The 32 bytes of a header. -/
def Ring.toNat (r : Ring) : Nat :=
  let bit := fun (x : Bool) (k : Nat) => if x then 2 ^ k else 0
  r.base.toNat + r.size % 2 ^ 32 * 2 ^ 32 + r.lcount % 256 * 2 ^ 64 + r.reln % 256 * 2 ^ 72 +
    r.relc % 256 * 2 ^ 80 + bit r.valid 88 + bit r.err 89 + r.widx.toNat * 2 ^ 96 + r.ridx.toNat * 2 ^ 128 +
    r.filled.toNat * 2 ^ 192

/-- Slots of a ring. -/
def Ring.count (r : Ring) : Nat := 2 ^ r.lcount

/-- Whether slot `k` of the ring is marked filled. -/
def Ring.isFilled (r : Ring) (k : Word) : Bool := r.filled.getLsbD (k.toNat % r.count)

/-- SIZE of a configuration word (R180). -/
def cfgSize (cfg : Word) : Nat :=
  let n := (cfg.extractLsb' 0 16).toNat
  16 * (if n = 0 then 4096 else n)
/-- LCOUNT of a configuration word. -/
def cfgLcount (cfg : Word) : Nat := (cfg.extractLsb' 16 3).toNat
/-- RELN of a configuration word. -/
def cfgReln (cfg : Word) : Nat := (cfg.extractLsb' 19 5).toNat + 1

/-- A configuration that RINIT refuses, for an allotment and the offset of slot 0. -/
def cfgBad (cfg : Word) (base allot : Nat) : Bool :=
  cfg.extractLsb' 24 8 ≠ 0 || 6 < cfgLcount cfg || allot < base + 2 ^ cfgLcount cfg * cfgSize cfg

/-- rinit. -/
def Ring.init (base cfg : Word) : Ring :=
  ⟨base, cfgSize cfg, cfgLcount cfg, cfgReln cfg, 0, true, false, 0, 0, 0⟩

/-- Slot `n` cannot take a landing. -/
def Ring.unavailable (r : Ring) (n : Word) : Bool := r.count ≤ (n - r.ridx).toNat || r.isFilled n

/-- WIDX moves past filled slots. -/
def Ring.advance (r : Ring) : Nat → Ring
  | 0 => r
  | k + 1 => if (r.widx - r.ridx).toNat < r.count && r.isFilled r.widx then
      { r with widx := r.widx + 1 }.advance k else r

/-- land. -/
def Ring.land (r : Ring) (n : Word) : Ring :=
  if r.unavailable n then { r with err := true }
  else { r with filled := r.filled ||| (1#64 <<< (n.toNat % r.count)) }.advance 64

/-- rels, of a ring with a filled slot. -/
def Ring.rels (r : Ring) : Ring :=
  let c := (r.relc + 1) % 256
  if c = r.reln then
    { r with filled := r.filled &&& ~~~(1#64 <<< (r.ridx.toNat % r.count)), ridx := r.ridx + 1, relc := 0 }
  else { r with relc := c }

/-- AWAITF completes: slot `n` has been filled. -/
def Ring.hasFilled (r : Ring) (n : Word) : Bool :=
  let d := (r.widx - n).toNat
  1 ≤ d && d < 2 ^ 31

/-- AWAITF.EMPTY completes: slot `n` may be filled. -/
def Ring.mayFill (r : Ring) (n : Word) : Bool := (n - r.ridx).toNat < r.count

/-- Offset of slot `n`. -/
def Ring.slotOff (r : Ring) (n : Word) : Nat := handleOff r.base + n.toNat % r.count * r.size

/-- The handle of slot `n`, with the header's rank (R352). -/
def Ring.slotHandle (r : Ring) (rank : Nat) (n : Word) : Word :=
  BitVec.ofNat 5 rank ++ 0#8 ++ BitVec.ofNat 19 (r.slotOff n)

/-- Why a ring refuses an operation: VALID = 0 or ERR = 1 (R180, R388). -/
def Ring.refuses (r : Ring) : Option Nat := if !r.valid then some 1 else if r.err then some 2 else none

/-! ### Objects in scratchpad -/

/-- A trap of an object: code, DETAIL, AUX, the handle in INFO (R388). -/
def objTrap (code : BitVec 8) (t detail : Nat) (aux h : Word) : Trap :=
  { Trap.plain code t with detail := BitVec.ofNat 16 detail, aux := aux, info := h.setWidth 64 }

/-- `n` bytes of an object as the group sees them at issue: in ORDERED mode by the load rule (R142, R146). -/
def State.seeObj (s : State) (i : Nat) (h : Word) (n : Nat) : Nat :=
  if (s.gridOf i).ordered then
    s.ordRead i true (handleRank h) (handleOff h) (s.handleKey i h) n
  else s.peek true (s.handleKey i h) n

/-- A poisoned granule of an object that the group reads at issue, but for one whose bytes its own take buffer holds
(R142, R406). -/
def State.seePoison (s : State) (i : Nat) (h : Word) (n : Nat) : Option (Nat × Nat) :=
  if (s.gridOf i).ordered &&
      (List.range n).all (fun k => (takeByte (s.grp i).take true (handleRank h) (handleOff h + k)).isSome) then none
  else s.poisonAt true (s.handleKey i h) n

/-- Writes an object at its bank, for the groups that watch the line (R340). -/
def State.setObj (s : State) (i : Nat) (h : Word) (n v : Nat) : State :=
  s.performStore i (s.viaOf i 0 false false) true (cellsOf (s.handleKey i h) (leBytes n v))

/-- A failing operation traps its group at the next instruction boundary, with SRC 2 (R351). -/
def State.pendTrap (s : State) (i : Nat) (t : Trap) : State :=
  s.modGrp i (fun g => { g with pend := g.pend ++ [{ t with src := 2 }] })

/-- Performs BINIT, BEXP, BARV or a credit on a barrier at its bank: kind 0 bexp, 1 barv, 2 credit (R183, R351). -/
def State.barrierOp (s : State) (i kind : Nat) (h : Word) (bytes : Nat) : State :=
  let b := Barrier.ofNat (s.peek true (s.handleKey i h) 16)
  if b.valid then
    s.setObj i h 16 (match kind with
      | 0 => b.bexp bytes
      | 1 => b.barv bytes
      | _ => b.credit bytes).toNat
  else s.pendTrap i (objTrap codeRing (s.grp i).lowestAlive 1 0 h)

/-- Performs RELS at its bank (R180, R351). -/
def State.ringRels (s : State) (i : Nat) (h : Word) : State :=
  let r := Ring.ofNat (s.peek true (s.handleKey i h) 32)
  let trap := fun d => s.pendTrap i (objTrap codeRing (s.grp i).lowestAlive d 0 h)
  match r.refuses with
  | some d => trap d
  | none => if r.widx = r.ridx then trap 4 else s.setObj i h 32 r.rels.toNat

end Sys2Proof.Machine
end

