-- ==== Sys2Proof/Machine/Reduce.lean ====
section
/-!
DEFINITION. Fabric reduction windows (R459 to R463): the tree of nodes, contributions, and what a package sends.
-/
namespace Sys2Proof.Machine

/-- WCTL of a window (R459). -/
def State.winCtl (s : State) (w : Nat) : Dword := s.reg64 (windowBase w)
/-- N, the contributors. -/
def State.winN (s : State) (w : Nat) : Nat := ((s.reg64 (windowBase w + 16)).extractLsb' 32 20).toNat
/-- SIZE, the result bytes of a rank. -/
def State.winSize (s : State) (w : Nat) : Nat := ((s.reg64 (windowBase w + 16)).extractLsb' 0 32).toNat
/-- First rank carried here. -/
def State.winLo (s : State) (w : Nat) : Nat := ((s.reg64 (windowBase w + 24)).extractLsb' 0 20).toNat
/-- The rank after the last carried here. -/
def State.winHi (s : State) (w : Nat) : Nat := ((s.reg64 (windowBase w + 24)).extractLsb' 32 20).toNat
/-- HOME. -/
def State.winHome (s : State) (w : Nat) : Bool := (s.winCtl w).getLsbD 7

/-- The format of ROP codes 1 to 3 (R168). -/
def ropFmt (rop : Nat) : Fmt := if rop = 2 then .bf16 else if rop = 3 then .f16 else .f32

/-- Bytes of an element of a ROP. -/
def ropBytes (rop : Nat) : Nat := if rop = 2 || rop = 3 then 2 else 4

/-- An addition of a reduction (R172, R461), under an FPCR-shaped word. -/
def ropAdd (fpcr : Word) (rop : Nat) (a b : Word) : Word × Fx :=
  if rop = 0 then (a + b, 0)
  else
    let r := fpAdd fpcr (ropFmt rop) a.toNat b.toNat
    (BitVec.ofNat 32 r.code, r.fx)

/-- RM, FTZI and FTZO of a window in the places FPCR has them (R235, R461). -/
def winFpcr (c : Dword) : Word := 0#28 ++ c.extractLsb' 6 1 ++ c.extractLsb' 5 1 ++ c.extractLsb' 3 2

/-- Largest power of two below `n`, at least 1 (R461). -/
def splitPoint (n : Nat) : Nat := 2 ^ ((n - 1).log2)

/-- The parent of node (lo, n) on the path down from (a, m), with the sibling (R461, R462). -/
def nodeParent (lo n : Nat) : Nat → Nat → Nat → Option ((Nat × Nat) × (Nat × Nat))
  | 0, _, _ => none
  | fuel + 1, a, m =>
    if m ≤ 1 then none
    else
      let p := splitPoint m
      if lo = a ∧ n = p then some ((a, m), (a + p, m - p))
      else if lo = a + p ∧ n = m - p then some ((a, m), (a, p))
      else if lo < a + p then nodeParent lo n fuel a p else nodeParent lo n fuel (a + p) (m - p)

/-- A node of an element. -/
def State.nodeAt (s : State) (w off lo n : Nat) : Option ReduceNode :=
  s.reduce.find? (fun r => r.win == w && r.off == off && r.lo == lo && r.n == n)

/-- Rank `q` has contributed to element `off`, and its node is here: the element is not complete (R460). -/
def State.hasContributed (s : State) (w off q : Nat) : Bool :=
  s.reduce.any (fun r => r.win == w && r.off == off && r.lo ≤ q && q < r.lo + r.n)

/-- The node of rank `q` of element `off` has been sent to its home (R462). -/
def State.hasSent (s : State) (w off q : Nat) : Bool :=
  s.sent.any (fun r => r.1 == w && r.2.1 == off && r.2.2.1 ≤ q && q < r.2.2.1 + r.2.2.2)

/-- The nodes of every rank that this package carries have been sent: the element may be complete at its home. -/
def State.allSent (s : State) (w off : Nat) : Bool :=
  ((s.sent.filter (fun r => r.1 == w && r.2.1 == off)).map (fun r => r.2.2.2)).sum == s.winHi w - s.winLo w

/-- The element is begun anew. -/
def State.newElement (s : State) (w off : Nat) : State :=
  { s with sent := s.sent.filter (fun r => !(r.1 == w && r.2.1 == off)) }

/-- PCR.GEN of the enabled function of a tenant (R457). -/
def State.tenantGen (s : State) (t : BitVec 6) : BitVec 16 :=
  match (List.range 32).find? (fun f => s.fnEnabled f && s.fnTenant f == t) with
  | some f => s.fnGen f
  | none => 0

/-- The virtual channel of supervisor and package-management traffic (R456). -/
def managementChannel : BitVec 6 := 63

/-- The virtual channel of a grid's traffic, and of the engine's for its queue: its tenant's, and the management channel for
package-wide queue 0, which alone launches supervisor grids (R456, R487; log 114). -/
def Grid.channel (g : Grid) : BitVec 6 := if g.queue = 0 then managementChannel else g.tenant

/-- The tenant whose traffic a channel carries: that of function 0 on the management channel (R456; log 114). -/
def State.channelTenant (s : State) (vc : BitVec 6) : BitVec 6 := if vc = managementChannel then s.fnTenant 0 else vc

/-- PCR.GEN of the function whose traffic a channel carries (R457). -/
def State.sourceGen (s : State) (vc : BitVec 6) : BitVec 16 :=
  if vc = managementChannel then s.fnGen 0 else s.tenantGen vc

/-- A FLIT record of the Foyer's TCO: the port is hardware's choice (log 10). -/
def State.tapFlit (s : State) (vc : BitVec 6) (cls : BitVec 2) (far : BitVec 10) : State :=
  let (v, s1) := s.tapFree
  s1.tapFoyer 0x40 (v.toNat % 18) vc (0#20 ++ vc.extractLsb' 0 4 ++ 0#6 ++ cls) (far.setWidth 32)

/-- Sends a flit on a virtual channel (R456, R457), and its telemetry record. -/
def State.sendFlit (s : State) (pkg : BitVec 10) (vc : BitVec 6) (cls : BitVec 2) (w1 : Dword) (data : List Byte) : State :=
  let w0 : Dword := pkg ++ Config.packageIndex ++ vc ++ cls ++ s.sourceGen vc ++ 0#11 ++ BitVec.ofNat 9 data.length
  ({ s with fabricOut := s.fabricOut ++ [⟨w0, w1, data⟩] } : State).tapFlit vc cls pkg

/-- A grid's request to the peer that an offset of SPACE 4 names: with data a store, without a read (R44, R457). -/
def State.peerFlit (s : State) (g : Grid) (o : Nat) (data : List Byte) : State :=
  s.sendFlit (BitVec.ofNat 10 (peerOf o).1) g.channel 0 (BitVec.ofNat 64 (peerOf o).2) data

/-- Sends a node of an element to the home package, which it remembers (R462): WOFF of its first rank, and its ranks above it
(R457, R462; log 32). -/
def State.sendNode (s : State) (w off lo n : Nat) (v : Word) : State :=
  let c := s.winCtl w
  let base := (s.reg64 (windowBase w + 8)).toNat
  let w1 : Dword := BitVec.ofNat 20 n ++ BitVec.ofNat 44 (base + s.winSize w * lo + off)
  ({ s with sent := s.sent ++ [(w, off, lo, n)] } : State).sendFlit (c.extractLsb' 14 10) (c.extractLsb' 8 6) 2 w1
    (leBytes (ropBytes (c.extractLsb' 1 2).toNat) v.toNat)

/-- Adds a node of an element: it meets its sibling, the parent goes on; a package that is not home sends each
maximal node of its ranks once (R462). -/
def State.addNode (s : State) (w off : Nat) : Nat → Nat → Nat → Word → State
  | 0, _, _, _ => s
  | fuel + 1, lo, n, v =>
    let home := s.winHome w
    let kept : State := { s with reduce := s.reduce ++ [⟨w, off, lo, n, v⟩] }
    match nodeParent lo n 32 0 (s.winN w) with
    | none => if home then kept else s.sendNode w off lo n v
    | some ((plo, pn), (slo, sn)) =>
      if home || (s.winLo w ≤ plo && plo + pn ≤ s.winHi w) then
        match s.nodeAt w off slo sn with
        | none => kept
        | some r =>
          let c := s.winCtl w
          let left := if slo < lo then r.v else v
          let right := if slo < lo then v else r.v
          let o := ropAdd (winFpcr c) (c.extractLsb' 1 2).toNat left right
          let s1 := { s with reduce := s.reduce.filter (fun x => x ≠ r) }
          (s1.setReg64 (windowBase w + 40) (s1.reg64 (windowBase w + 40) ||| (o.2.extractLsb' 0 5).setWidth 64)).addNode
            w off fuel plo pn o.1
      else s.sendNode w off lo n v

/-- A contribution is refused: WSTAT bit 8 (R460). -/
def State.refuseContribution (s : State) (w : Nat) : State × Bool :=
  (s.setReg64 (windowBase w + 40) (s.reg64 (windowBase w + 40) ||| 0x100), true)

/-- A contribution of rank `q` to element `off` (R460): the state, and whether it was refused. Whether the element of nodes
sent to another package is complete there is a free value (log 126). -/
def State.contribute (s : State) (w off q : Nat) (v : Word) : State × Bool :=
  if !(s.winCtl w).getLsbD 0 || s.hasContributed w off q then s.refuseContribution w
  else if !s.hasSent w off q then (s.addNode w off 32 q 1 v, false)
  else
    let (x, s1) := s.free
    if s.allSent w off && x.getLsbD 0 then ((s1.newElement w off).addNode w off 32 q 1 v, false) else s1.refuseContribution w

end Sys2Proof.Machine
end

