-- ==== Sys2Proof/Machine/Desc.lean ====
section
/-!
DEFINITION. Copy descriptors (R168 to R171).
-/
namespace Sys2Proof.Machine

/-! ### Descriptors (R168 to R170) -/

/-- A copy descriptor. -/
structure Desc where
  /-- SRC. -/
  src : Dword
  /-- DST. -/
  dst : Dword
  /-- EXT0 to EXT2. -/
  ext0 : Nat
  /-- EXT1. -/
  ext1 : Nat
  /-- EXT2. -/
  ext2 : Nat
  /-- Word 3. -/
  ctl : Dword
  /-- Strides. -/
  sstr1 : Int
  /-- SSTR2. -/
  sstr2 : Int
  /-- DSTR1. -/
  dstr1 : Int
  /-- DSTR2. -/
  dstr2 : Int
  deriving DecidableEq, Repr

/-- The descriptor in 64 bytes. -/
def Desc.ofBits (v : BitVec 512) : Desc :=
  let w := fun k => v.extractLsb' (64 * k) 64
  ⟨w 0, w 1, (v.extractLsb' 128 32).toNat, (v.extractLsb' 160 32).toNat, (v.extractLsb' 192 16).toNat, w 3,
    (w 4).toInt, (w 5).toInt, (w 6).toInt, (w 7).toInt⟩

/-- Element bytes. -/
def Desc.es (d : Desc) : Nat := 2 ^ (d.ctl.extractLsb' 16 2).toNat
/-- DIMS. -/
def Desc.dims (d : Desc) : Nat := (d.ctl.extractLsb' 18 2).toNat
/-- QUEUE. -/
def Desc.queue (d : Desc) : Nat := (d.ctl.extractLsb' 20 2).toNat
/-- CKIND. -/
def Desc.ckind (d : Desc) : Nat := (d.ctl.extractLsb' 22 2).toNat
/-- ROP. -/
def Desc.rop (d : Desc) : Nat := (d.ctl.extractLsb' 24 2).toNat
/-- MASK. -/
def Desc.mask (d : Desc) : Nat := (d.ctl.extractLsb' 32 24).toNat
/-- Used extent of dimension 1. -/
def Desc.e1 (d : Desc) : Nat := if 1 ≤ d.dims then d.ext1 else 1
/-- Used extent of dimension 2. -/
def Desc.e2 (d : Desc) : Nat := if d.dims = 2 then d.ext2 else 1
/-- Elements. -/
def Desc.count (d : Desc) : Nat := d.ext0 * d.e1 * d.e2
/-- Bytes. -/
def Desc.bytes (d : Desc) : Nat := d.count * d.es

/-- Byte offset of element `k`, in loop order, for the strides of one side (R169). -/
def Desc.offset (d : Desc) (s1 s2 : Int) (k : Nat) : Int :=
  let i0 := k % d.ext0
  let i1 := k / d.ext0 % d.e1
  let i2 := k / (d.ext0 * d.e1)
  (if d.dims = 2 then i2 * s2 else 0) + (if 1 ≤ d.dims then i1 * s1 else 0) + i0 * d.es

/-- Source offset of element `k`. -/
def Desc.srcOff (d : Desc) (k : Nat) : Int := d.offset d.sstr1 d.sstr2 k
/-- Destination offset of element `k`. -/
def Desc.dstOff (d : Desc) (k : Nat) : Int := d.offset d.dstr1 d.dstr2 k

/-- The spaces that R170 admits for the source of a form: 0 CPY, 1 CPYT, 2 CPYS, 3 CPYM, 4 CPYR. -/
def srcSpaceOk (form sp : Nat) : Bool :=
  6 ≤ sp || (match form with
    | 1 => sp == 0 || sp == 2 || sp == 4
    | 2 => sp == 1
    | _ => true)

/-- The spaces that R170 and R171 admit for the destination of a form. -/
def dstSpaceOk (form sp : Nat) : Bool :=
  6 ≤ sp || (match form with
    | 0 => true
    | 1 => sp == 1
    | 2 => sp == 0 || sp == 2 || sp == 4
    | 3 => sp == 1
    | _ => sp == 0 || sp == 2 || sp == 4 || sp == 5)

/-- DIMS of a form (R170). -/
def dimsOk (form dims : Nat) : Bool :=
  match form with
  | 0 => dims == 0
  | 1 => dims == 1 || dims == 2
  | _ => dims ≤ 2

/-- Step 2 of R171. -/
def Desc.bad (d : Desc) (form : Nat) : Bool :=
  d.ctl.extractLsb' 56 8 ≠ 0 || d.ctl.extractLsb' 26 6 ≠ 0 || !dimsOk form d.dims || d.ckind == 3 ||
  (d.mask ≠ 0) != (form == 3) || (form ≠ 4 && d.rop ≠ 0) || (form == 4 && d.es ≠ ropBytes d.rop) ||
  d.ext0 == 0 || (d.ext1 ≠ 0) != (1 ≤ d.dims : Bool) || (d.ext2 ≠ 0) != (d.dims == 2) ||
  2 ^ 31 < d.bytes || ptrOffset d.src % d.es ≠ 0 || ptrOffset d.dst % d.es ≠ 0 ||
  (1 ≤ d.dims && (d.sstr1 % d.es ≠ 0 || d.dstr1 % d.es ≠ 0)) ||
  (d.dims == 2 && (d.sstr2 % d.es ≠ 0 || d.dstr2 % d.es ≠ 0)) ||
  !srcSpaceOk form (ptrSpace d.src) || !dstSpaceOk form (ptrSpace d.dst) ||
  (form == 3 && ptrRank d.dst ≠ 0)

/-- The ranks of a MASK. -/
def maskRanks (m : Nat) : List Nat := (List.range 24).filter (fun k => natBit m k)

end Sys2Proof.Machine
end

