-- ==== Sys2Proof/Machine/Mmio.lean ====
section
/-!
DEFINITION. Control registers as an access reads and writes them (R14, R48, R49, R96, R218, R398, R432, R437, R455, R458,
R459), and the size of a save area (R398, R403 to R405). A write is accepted as a command.
-/
namespace Sys2Proof.Machine

/-! ### Save-area sizes (R403 to R405) -/

/-- Take entries that a group record has room for. -/
def Grid.takeRoom (g : Grid) : Nat := max (16 * g.takeQuota) 32
/-- GSIZE. -/
def Grid.gsize (g : Grid) : Nat := (0x0A00 + 128 * g.nregs + 80 * g.takeRoom + 8192 + 255) / 256 * 256
/-- WSIZE. -/
def Grid.wsize (g : Grid) : Nat := 0x0500 + (if g.twoshot then 2 else 1) * (g.scratchBytes + 16384 * g.accs)

/-- Resident workgroups of a grid, ascending (R403). -/
def State.residentWgs (s : State) (gd : Nat) : List Nat :=
  let ws := (List.range s.wgs.length).filter (fun w => (s.wgp w).grid == gd && !(s.wgp w).retired)
  ws.mergeSort (fun a b => (s.wgp a).id ≤ (s.wgp b).id)

/-- Outstanding copies of a grid. -/
def State.gridCopies (s : State) (gd : Nat) : List Nat :=
  (List.range s.copies.length).filter (fun k =>
    match s.copies[k]? with
    | some c => (s.grp c.group).grid == gd && copyOpen c.st
    | none => false)

/-- Bytes of a held-landing entry. -/
def heldBytes (d : Desc) : Nat := 48 + (d.bytes + 15) / 16 * 16

/-- Bytes of a grid section with its held landings (R399). -/
def State.sectionSize (s : State) (gd : Nat) : Nat :=
  let g := s.grd gd
  let n := (s.residentWgs gd).length
  512 + n * g.wsize + n * g.ngrp * g.gsize +
    ((s.gridCopies gd).map (fun k => match s.copies[k]? with
      | some c => heldBytes (Desc.ofBits c.desc)
      | none => 0)).sum

/-- Grids of a queue that run or are stopped, or that a time slice has set aside: those of its running contexts (R398,
R443). -/
def State.queueGrids (s : State) (q : Nat) : List Nat :=
  (List.range s.grids.length).filter (fun k =>
    let g := s.grd k
    g.queue == q && (g.st == .running || g.st == .stopped || (g.st == .saved && g.sliced)) && g.status.isNone)

/-- Bytes of a save area that holds these grids. -/
def State.areaSize (s : State) (gds : List Nat) : Nat :=
  if gds = [] then 0 else 256 + (gds.map s.sectionSize).sum

/-- PSIZE. -/
def State.psize (s : State) (q : Nat) : Nat := s.areaSize (s.queueGrids q)

/-! ### Where an offset lies -/

/-- A block of control registers, with the offset in it of an 8-byte word. -/
inductive RegPlace where
  /-- PALARM (R455). -/
  | palarm
  /-- Translation and allocator registers of a function (R96). -/
  | trans (f o : Nat)
  /-- A queue's registers (R218). -/
  | queue (q o : Nat)
  /-- A queue's pre-emption registers (R398). -/
  | preempt (q o : Nat)
  /-- A function's block at a TCO (R432). -/
  | tco (f t o : Nat)
  /-- State memory: TCO, function and word (R432). -/
  | tcoState (f t w : Nat)
  /-- A partition block (R437). -/
  | part (f o : Nat)
  /-- A reduction window (R459). -/
  | window (w o : Nat)
  /-- An export entry (R458). -/
  | xport (e o : Nat)
  /-- No register. -/
  | none
  deriving DecidableEq, Repr

/-- The block of an MMIO offset, which is a multiple of 8. -/
def regPlace (off : Nat) : RegPlace :=
  if off = 0x100 then .palarm
  else if 0x10000 ≤ off && off < 0x12000 then .trans ((off - 0x10000) / 0x100) (off % 0x100)
  else if 0x200000 ≤ off && off < 0x300000 then .queue ((off - 0x200000) / 64) (off % 64)
  else if 0x300000 ≤ off && off < 0x380000 then .preempt ((off - 0x300000) / 32) (off % 32)
  else if 0x400000 ≤ off && off < 0x600000 then
    let t := (off - 0x400000) % 0x10000 / 0x1000
    if t < 9 then .tco ((off - 0x400000) / 0x10000) t (off % 0x1000) else .none
  else if 0x600000 ≤ off && off < 0xE00000 then
    let t := (off - 0x600000) % 0x40000 / 0x4000
    if t < 9 then .tcoState ((off - 0x600000) / 0x40000) t (off % 0x4000 / 4) else .none
  else if 0x01000000 ≤ off && off < 0x01020000 then .part ((off - 0x01000000) / 0x1000) (off % 0x1000)
  else if 0x02000000 ≤ off && off < 0x02000800 then .window ((off - 0x02000000) / 64) (off % 64)
  else if 0x03000000 ≤ off && off < 0x03000800 then .xport ((off - 0x03000000) / 32) (off % 32)
  else .none

/-! ### Reading -/

/-- Key of a word of state memory (R425). -/
def tcoKey (t f w : Nat) : Nat := (32 * t + f) * 4096 + w

/-- The mask of a function's slots at a TCO that meet a condition. -/
def State.slotMask (s : State) (f t : Nat) (p : TcoSlot → Bool) : Dword :=
  s.slots.foldl (fun m sl => if sl.tco == t && sl.fn == f && p sl then m ||| (1#64 <<< sl.slot) else m) 0

/-- SLOTSTAT (R432). -/
def State.slotStat (s : State) (f t k : Nat) : Dword :=
  match s.slots.find? (fun sl => sl.tco == t && sl.fn == f && sl.slot == k) with
  | none => 0
  | some sl => sl.runs ++ 0#12 ++ BitVec.ofNat 4 sl.sample ++ BitVec.ofNat 8 sl.kind ++
      BitVec.ofNat 6 (sl.prog.length - 1) ++ BitVec.ofBool sl.enabled ++ 1#1

/-- QSTAT.BUSY: the queue has packets in hand or to fetch (R218). -/
def State.queueBusy (s : State) (q : Nat) : Bool :=
  let b := queueBase q
  s.packets.any (fun p => p.queue == q && p.st ≠ .done) ||
    ((s.reg (b + 8)).getLsbD 0 && !(s.reg (b + 0x38)).getLsbD 1 && s.reg (b + 0x20) ≠ s.reg (b + 0x28))

/-- The 8-byte word at an MMIO offset, as a read returns it (R14, R48). -/
def State.readReg (s : State) (off : Nat) : Dword :=
  match regPlace off with
  | .trans f o => if o = 0x08 || o = 0x18 || o = 0x40 || (f ≠ 0 && o < 0x18) then 0 else s.reg64 off
  | .queue q o => if o = 0x38 then s.reg64 off ||| (if s.queueBusy q then 1 else 0) else s.reg64 off
  | .preempt q o => if o = 0 then 0 else if o = 0x18 then BitVec.ofNat 64 (s.psize q) else s.reg64 off
  | .tco f t o =>
    if o = 0x20 then s.reg (partBase f + 0x050) ++ s.reg off
    else if o = 0x30 then s.reg64 (partBase f + 0x100 + 8 * t)
    else if o = 0x38 then s.slotMask f t (fun _ => true)
    else if o = 0x40 then s.slotMask f t (·.enabled)
    else if 0x100 ≤ o && o < 0x300 then s.slotStat f t ((o - 0x100) / 8)
    else if o = 0x80 then 0
    else s.reg64 off
  | .tcoState f t w => s.tcoMem.get (tcoKey t f (w + 1)) ++ s.tcoMem.get (tcoKey t f w)
  | .none => 0
  | _ => s.reg64 off

/-- A read of a control register of 4 or 8 bytes, naturally aligned (R49). -/
def State.mmioRead (s : State) (off size : Nat) : Nat × State :=
  ((s.readReg (off / 8 * 8)).toNat / 2 ^ (8 * (off % 8)) % 2 ^ (8 * size), s)

/-! ### Writing -/

/-- A register that is a command: the half that a 4-byte write does not carry is zero. -/
def isCommand : RegPlace → Bool
  | .trans _ o => o == 0x08 || o == 0x18 || o == 0x40
  | .preempt _ o => o == 0
  | .tco _ _ o => o == 0x80
  | .part _ o => o == 0x068
  | .window _ o => o == 0x28
  | _ => false

/-- The 8-byte value that a write carries: the other half of a 4-byte write is the present value, or zero for commands and
bits that are cleared by writing one (log 21). -/
def State.writeValue (s : State) (off size : Nat) (v : Dword) : Dword :=
  let b := off / 8 * 8
  let old : Dword := if isCommand (regPlace b) then 0 else s.readReg b
  if size = 8 then v
  else if off % 8 = 0 then old.extractLsb' 32 32 ++ v.extractLsb' 0 32
  else v.extractLsb' 0 32 ++ old.extractLsb' 0 32

/-- Registers of function 0 that R488 lets supervisor code write while it is enabled. -/
def pfResource (o : Nat) : Bool :=
  (0x008 ≤ o && o ≤ 0x048) || (0x080 ≤ o && o ≤ 0x0F8) || (0x100 ≤ o && o ≤ 0x140)

/-- The command of a register write; none when it has no effect. -/
def State.registerCommand (s : State) (off size : Nat) (v : Dword) : Option Command :=
  let w := s.writeValue off size v
  match regPlace (off / 8 * 8) with
  | .trans f o =>
    if o = 0x18 then
      match (w.extractLsb' 62 2).toNat with
      | 0 => some (.tinvPage f (w.extractLsb' 0 55))
      | 1 => some (.tinvAsid f (w.extractLsb' 0 12))
      | 2 => some (.tinvFunction f)
      | _ => none
    else if o = 0x40 then
      match (w.extractLsb' 62 2).toNat with
      | 0 => some (.freplyRetry f (w.extractLsb' 0 32))
      | 1 => some (.freplyFail f (w.extractLsb' 0 32))
      | _ => none
    else some (.register off size v)
  | .queue q o =>
    if o = 0x08 then some (if w.getLsbD 0 then .qctlEnable q w else .qctlDisable q w)
    else if o = 0x20 then some (.qtail q (w.extractLsb' 0 32))
    else some (.register off size v)
  | .preempt q o =>
    if o = 0 then
      match (w.extractLsb' 0 2).toNat with
      | 1 => some (.pctlSave q)
      | 2 => some (.pctlRestore q)
      | 3 => some (.pctlDiscard q)
      | _ => none
    else some (.register off size v)
  | .part f o =>
    if o = 0 then
      some (if w.getLsbD 3 then .pcrFlr f w else if w.getLsbD 0 then .pcrEnable f w else .pcrDisable f w)
    else if o = 0x050 then some (.tbud f w)
    else if f = 0 && pfResource o then some (.pfResource (off / 8 * 8) w)
    else some (.register off size v)
  | .tco f t o =>
    if t = 8 && o = 0x80 then
      match (w.extractLsb' 62 2).toNat with
      | 0 => some (.mergeSum f w)
      | 1 => some (.mergeMax f w)
      | _ => some (.register off size v)
    else some (.register off size v)
  | .none => none
  | _ => some (.register off size v)

/-- A write of a control register is accepted; it is performed before any agent moves, and what it does is read from it
then (R50). -/
def State.mmioWrite (s : State) (off size v : Nat) : State :=
  if regPlace (off / 8 * 8) = .none then s
  else { s with posted := s.posted ++ [.register off size (BitVec.ofNat 64 v)] }

end Sys2Proof.Machine
end

