-- ==== Sys2Proof/Machine/Resources.lean ====
section
/-!
DEFINITION. Synchronisation resources (R186, R189, R190, R342): the slots of an instance, refusals, and tickets.
-/
namespace Sys2Proof.Machine

/-- The quota of a function in quota mode (R190, R438). -/
def State.syncQuota (s : State) (f : Nat) : Option Nat :=
  let r := s.reg (partBase f)
  if r.getLsbD 2 then
    let q := (r.extractLsb' 4 4).toNat
    some (if q = 0 then 8 else q)
  else none

/-- An entry in use at an instance: the core that uses it, the tenant, and whether it is the one reserved for that core. -/
structure SlotUse where
  /-- Core. -/
  core : Nat
  /-- Tenant. -/
  tenant : BitVec 6
  /-- The reserved one. -/
  res : Bool
  deriving DecidableEq, Repr

/-- The ticket that a group holds at an instance. -/
def Group.ticketAt (g : Group) (unit inst : Nat) : Option Nat :=
  (g.ticket.filter (fun t => t.1 == unit && t.2.1 == inst)).map (·.2.2)

/-- The tickets that requests of a core hold at an instance (R189). -/
def State.ticketsAt (s : State) (unit inst core : Nat) : List Nat :=
  s.groups.filterMap (fun g => if g.core == core && g.st != .retired then g.ticketAt unit inst else none) ++
    s.copies.flatMap (fun c => if unit == 3 && s.ownCore c.group == core then
      (c.credits.filter (·.inst == inst)).filterMap (·.ticket) else [])

/-- The slot that a request of a function at an instance finds: none when it is refused, else whether it is the one reserved
for its core. In quota mode it is refused beyond the quota. Else it takes one of the `cap` slots that no core reserves, at
least one, or the slot reserved for its core, behind the older tickets of the core (R189, R190; log 119). -/
def State.entryFor (s : State) (fn : Nat) (tenant : BitVec 6) (core : Nat) (mine : Option Nat) (unit inst cap : Nat)
    (used : List SlotUse) : Option Bool :=
  match s.syncQuota fn with
  | some q => if q ≤ (used.filter (·.tenant == tenant)).length then none else some false
  | none =>
    if (used.filter (fun e => !e.res)).length < max 1 cap then some false
    else if !used.any (fun e => e.res && e.core == core) && (s.ticketsAt unit inst core).all (fun k => mine.any (· ≤ k)) then
      some true
    else none

/-- The slot that a request of group `i` finds. -/
def State.groupSlot (s : State) (i unit inst cap : Nat) (used : List SlotUse) : Option Bool :=
  let g := s.grp i
  s.entryFor (s.gridOf i).fn (s.gridOf i).tenant g.core (g.ticketAt unit inst) unit inst cap used

/-- A NACK record (A the class, B the instance) or a TICKET record (B the ticket) of a resource instance (R189, R411). -/
def State.tapNack (s : State) (i kind unit inst ticket : Nat) : State :=
  let die := if unit = 0 || unit = 3 then inst / 144 else if unit = 1 then inst else inst / 16
  let place := if unit = 0 || unit = 3 then inst % 144 else if unit = 1 then 0 else inst % 16
  s.tapDie die kind place (s.gridOf i).tenant (BitVec.ofNat 32 unit) (BitVec.ofNat 32 (if kind = 0x21 then ticket else place))

/-- A ticket for a request of group `i` at an instance: tickets count up for each tenant (R189, R444; log 119). -/
def State.newTicket (s : State) (i unit inst : Nat) : Nat × State :=
  let key := 64 * (2048 * unit + inst) + (s.gridOf i).tenant.toNat
  let k := s.tickets.get key
  (k.toNat, ({ s with tickets := s.tickets.set key (k + 1) } : State).tapNack i 0x21 unit inst k.toNat)

/-- A request of group `i` meets its next NACK: it waits for hardware to try it again. After the fourth, outside quota mode,
it takes a ticket. -/
def State.nacked (s : State) (i : Nat) (n : Nack) : State :=
  let s1 := (s.modGrp i (fun g => { g with nack := some n })).tapNack i 0x20 n.unit n.inst 0
  if n.count = 4 && (s.syncQuota (s.gridOf i).fn).isNone then
    let (k, s2) := s1.newTicket i n.unit n.inst
    s2.modGrp i (fun g => { g with ticket := some (n.unit, n.inst, k) })
  else s1

/-- NACKs that the request under way has met at an instance. -/
def Group.nacks (g : Group) (unit inst : Nat) : Nat :=
  ((g.nack.filter (fun n => n.unit == unit && n.inst == inst)).map (·.count)).getD 0

/-- A refusal of a request as the instruction makes it. -/
def State.refuseFirst (s : State) (i unit inst : Nat) : State :=
  s.nacked i ⟨unit, inst, (s.grp i).nacks unit inst + 1, false, false⟩

/-- Atomics in flight at a slice. -/
def State.atomsAt (s : State) (slice : Nat) : List SlotUse :=
  s.groups.flatMap (fun g =>
    (g.flight.filter (fun f => f.kind == 2 && !f.scratch && sliceNumber f.addr == slice)).map
      (fun f => ⟨g.core, (s.grd g.grid).tenant, f.res⟩))

/-- The slot of a request of group `i` at the atomic unit of a slice; how many slots a unit has is the implementation's
(log 102). -/
def State.atomSlot (s : State) (i slice : Nat) : Option Bool := s.groupSlot i 2 slice Config.atomicSlots (s.atomsAt slice)

/-- A request of a FREE group at the atomic unit of a slice is refused. -/
def State.atomRefused (s : State) (i addr : Nat) : Bool := (s.atomSlot i (sliceNumber addr)).isNone

/-! ### Barrier-network entries (R186) -/

/-- The core whose scratchpad a handle names: the owner of its rank (R26). -/
def State.rankCore (s : State) (i : Nat) (h : Word) : Nat :=
  let k := s.handleKey i h / 2 ^ 19
  (s.wgp (k / 2)).core + k % 2

/-- Barrier-network entries in use at a core. The spec does not say whether an operation in flight takes an entry of the core
that sends it or of the core that owns the barrier: the model takes it of the owner (log 119). -/
def State.barUsed (s : State) (core : Nat) : List SlotUse :=
  (s.barNet.filter (fun m => s.rankCore m.group m.handle == core)).map (fun m =>
    ⟨if m.kind = 2 then s.ownCore m.group else (s.grp m.group).core, (s.gridOf m.group).tenant, m.res⟩)

/-- The entry that a message of group `i` finds at a core: one of 64, of which one is reserved for each core of the cluster
(R186, R189, R190). -/
def State.netSlot (s : State) (i core : Nat) : Option Bool := s.groupSlot i 3 core 40 (s.barUsed core)

/-- The entry that a credit of a copy of group `i` finds, which its streamer sends from the group's own core. -/
def State.creditSlot (s : State) (i : Nat) (h : Word) (mine : Option Nat) : Option Bool :=
  let core := s.rankCore i h
  s.entryFor (s.gridOf i).fn (s.gridOf i).tenant (s.ownCore i) mine 3 core 40 (s.barUsed core)

end Sys2Proof.Machine
end

