-- ==== Sys2Proof/Machine/Copy.lean ====
section
/-!
DEFINITION. The streamer (R166 to R178, R181, R184): the checks at issue, reading the source,
landing and credits, abandonment.
-/
namespace Sys2Proof.Machine

/-! ### Checks at issue (R171, R181, R460) -/

/-- Steps 1 to 7 of R33 for an element address; lines may be crossed (R171 step 4). `add` marks a CPYR
destination. -/
def State.checkElem (s : State) (i t : Nat) (write add : Bool) (p : Dword) (off : Int) (es : Nat) : Option Trap :=
  let sp := ptrSpace p
  let ep := effPtr p off
  let o := ptrOffset ep
  let region := sp == 4 && toPeer o && (s.windowOf (peerOf o).1 (peerOf o).2 es).isSome
  if 6 ≤ sp then some (stepTrap codeAddress t 1 ep)
  else if sp = 5 && (s.grp i).priv ≠ 2 then some (privTrap t 2 ep)
  else
    match if add && region then s.fieldStep i p off else s.accessStep i .load p off es with
    | some k => some (stepTrap codeAddress t k ep)
    | none =>
      if sp = 5 && es ≠ 4 && es ≠ 8 then some (stepTrap codeAddress t 5 ep)
      else if sp = 5 && o % es ≠ 0 then some (stepTrap codeMisalign t 5 ep)
      else if add && (sp = 4 || sp = 5) && !region then some (stepTrap codeAtomicSpace t 6 ep)
      else if write && sp = 3 then some (stepTrap codePermission t 7 ep)
      else if add && sp ≠ 4 then
        match s.lookup (s.gridOf i) kindLoad (s.virtualOf i t ep) with
        | .ok e => if pteUC e.attr then some (stepTrap codeAtomicSpace t 9 ep) else none
        | .error _ => none
      else none

/-- FORMAT of a descriptor (R388). -/
def formatTrap (t : Nat) (h : Word) : Trap := objTrap codeFormat t 0x50 0 h

/-- R460 for one destination element of a contribution. -/
def State.checkContribution (s : State) (t : Nat) (d : Desc) (dh : Word) (k : Nat) : Option Trap :=
  let ep := effPtr d.dst (d.dstOff k)
  let o := ptrOffset ep
  match s.windowOf (peerOf o).1 (peerOf o).2 d.es with
  | none => none
  | some w =>
    let q := (o % 2 ^ 44 - (s.reg64 (windowBase w + 8)).toNat) / s.winSize w
    if q < s.winLo w || s.winHi w ≤ q then some (stepTrap codeAddress t 0 ep)
    else if ((s.winCtl w).extractLsb' 1 2).toNat ≠ d.rop then some (formatTrap t dh)
    else none

/-- Step 5: the ring conditions of R181 at one rank. -/
def State.checkRing (s : State) (i t : Nat) (d : Desc) (ch n : Word) (rank : Nat) : Option Trap :=
  let h : Word := BitVec.ofNat 5 rank ++ ch.extractLsb' 0 27
  let r := Ring.ofNat (s.seeObj i h 32)
  match s.seePoison i h 32 with
  | some e => some (eccTrap t e)
  | none =>
  let trap := fun k => some (objTrap codeRing t k n ch)
  let lo := (List.range d.count).foldl (fun m k => min m (d.dstOff k)) 0 + ptrOffset d.dst
  let hi := (List.range d.count).foldl (fun m k => max m (d.dstOff k)) 0 + ptrOffset d.dst + d.es
  match r.refuses with
  | some k => trap k
  | none =>
    if lo < 0 || (r.size : Int) < hi then trap 5
    else if r.unavailable n then trap 4
    else none

/-- The ranks a ring copy lands at. -/
def Desc.ringRanks (d : Desc) (form : Nat) (ch : Word) : List Nat :=
  if form = 3 then maskRanks d.mask else [handleRank ch]

/-- The checks of R171 on the descriptor handle, the completion handle and the descriptor, in order. The MISALIGN of R168 is
raised with the descriptor handle's other checks, before the completion handle is looked at (log 115). A poisoned descriptor,
or ring header, that the load reads traps as a thread's load does (R406). -/
def State.copyCheck (s : State) (i form : Nat) (dh ch n : Word) : Except Trap (BitVec 512) :=
  let t := (s.grp i).lowestAlive
  match (s.checkHandle i t dh 64 64).or ((s.seePoison i dh 64).map (eccTrap t)) with
  | some tr => .error tr
  | none =>
    let v := BitVec.ofNat 512 (s.seeObj i dh 64)
    let d := Desc.ofBits v
    match if d.ckind = 1 then s.checkHandle i t ch 16 16
          else if d.ckind = 2 then s.checkHandle i t ch 32 32 else none with
    | some tr => .error tr
    | none =>
      if d.bad form then .error (formatTrap t dh)
      else if 2 ^ (s.gridOf i).teamCores ≤ d.mask then
        .error { Trap.plain codeMcastRange t with
          detail := BitVec.ofNat 16 (s.gridOf i).teamCores, info := BitVec.ofNat 64 d.mask }
      else
        let ks := List.range d.count
        match ks.findSome? (fun k => s.checkElem i t false false d.src (d.srcOff k) d.es) with
        | some tr => .error tr
        | none =>
          match ks.findSome? (fun k => s.checkElem i t true (form = 4) d.dst (d.dstOff k) d.es) with
          | some tr => .error tr
          | none =>
            match if form = 4 && ptrSpace d.dst = 4 then ks.findSome? (s.checkContribution t d dh) else none with
            | some tr => .error tr
            | none =>
              if d.ckind ≠ 2 then .ok v
              else if ptrSpace d.dst ≠ 1 || ptrRank d.dst ≠ 0 then .error (objTrap codeRing t 5 n ch)
              else
                match (d.ringRanks form ch).findSome? (s.checkRing i t d ch n) with
                | some tr => .error tr
                | none => .ok v

/-! ### Reading and translating (R126, R173, R177) -/

/-- Device-physical addresses of elements in memory spaces, each with whether its page is uncached, with the A and D bits of
their pages (R56, R177). -/
def State.placeElems (s : State) (i t kind : Nat) (p : Dword) (off : Nat → Int) :
    List Nat → State × Except (XFault × Nat) (List (Nat × Bool))
  | [] => (s, .ok [])
  | k :: ks =>
    let va := s.virtualOf i t (effPtr p (off k))
    match s.lookup (s.gridOf i) kind va with
    | .error f => (s, .error (f, va))
    | .ok e =>
      match (s.useEntry e kind).placeElems i t kind p off ks with
      | (s1, .ok l) => (s1, .ok ((e.base + va % 65536, pteUC e.attr) :: l))
      | r => r

/-- The home slices of some bytes are read, without a look at an L1 or an RDC: a copy reads its source at its home, whatever
copies of the line there are (R53, R75; log 115). -/
def State.homeRead (s : State) (v : Via) (addr n : Nat) : State :=
  (List.range ((addr % 32 + n + 31) / 32)).foldl (fun s k => s.homeAccess v (addr / 32 + k) false) s

/-- One source element at its storage. A poisoned one is an error that no instruction consumed, and its value is free
(R406). -/
def State.readElem (s : State) (i : Nat) (scratch uc : Bool) (addr es : Nat) : Dword × State :=
  let v := s.viaOf i 0 uc false
  let s0 := if scratch then s else s.homeRead v addr es
  match s0.poisonAt scratch addr es with
  | some e =>
    let (x, s1) := s0.free
    (x, s1.lateError i e)
  | none =>
    let x := s0.peek scratch addr es
    (BitVec.ofNat 64 (if scratch then x else s0.asDomain v addr es x), s0.noteRead i scratch addr es)

/-- Reads the source elements at their places. -/
def State.readList (s : State) (i : Nat) (scratch : Bool) (es : Nat) : List (Nat × Bool) → List Dword × State
  | [] => ([], s)
  | a :: as =>
    let (v, s1) := s.readElem i scratch a.2 a.1 es
    let (vs, s2) := s1.readList i scratch es as
    (v :: vs, s2)

/-- Elements of host memory, and of a peer's, each asked for by a request flit; what the peer answers is a free value
(R457). -/
def State.readOutside (s : State) (gr : Grid) (es : Nat) : List Nat → List Dword × State
  | [] => ([], s)
  | a :: as =>
    let (v, s1) := if toPeer a then (s.peerFlit gr a []).free else (BitVec.ofNat 64 (readBytes s.host a es), s)
    let (vs, s2) := s1.readOutside gr es as
    (v :: vs, s2)

/-- Elements read from control registers. -/
def State.readRegs (s : State) (es : Nat) : List Nat → List Dword × State
  | [] => ([], s)
  | a :: as =>
    let (v, s1) := s.mmioRead a es
    let (vs, s2) := s1.readRegs es as
    (BitVec.ofNat 64 v :: vs, s2)

/-- Key of a scratchpad element. -/
def State.elemKey (s : State) (i rank : Nat) (p : Dword) (off : Int) : Nat :=
  s.rankKey i rank (ptrOffset (effPtr p off))

/-- A copy's source elements, the places they were read from (memory and scratchpad), and the places of its
destination elements (memory). -/
structure CopyData where
  /-- Values. -/
  vals : List Dword
  /-- Source places. -/
  src : List Nat
  /-- Destination places. -/
  dest : List Nat
  /-- Uncached pages among them. -/
  uncached : List Nat
  deriving DecidableEq, Repr

/-- Reads the source of a copy: values and places. Control registers have no places: they are read before any is written
(R173; log 115). -/
def State.readCopySource (s : State) (c : Copy) : State × Except (XFault × Nat) (List Dword × List Nat) :=
  let d := Desc.ofBits c.desc
  let i := c.group
  let ks := List.range d.count
  let sp := ptrSpace d.src
  if sp = 1 then
    let ps := ks.map (fun k => s.elemKey i (ptrRank d.src) d.src (d.srcOff k))
    let (vs, s1) := s.readList i true d.es (ps.map (fun p => (p, false)))
    (s1, .ok (vs, ps))
  else if sp = 4 then
    let ps := ks.map (fun k => ptrOffset (effPtr d.src (d.srcOff k)))
    let (vs, s1) := s.readOutside (s.gridOf i) d.es ps
    (s1, .ok (vs, ps))
  else if sp = 5 then
    let (vs, s1) := s.readRegs d.es (ks.map (fun k => ptrOffset (effPtr d.src (d.srcOff k))))
    (s1, .ok (vs, []))
  else
    match s.placeElems i c.thread kindCopyRead d.src d.srcOff ks with
    | (s1, .error f) => (s1, .error f)
    | (s1, .ok ps) =>
      let (vs, s2) := s1.readList i false d.es ps
      (s2, .ok (vs, ps.map (·.1)))

/-- Reads the source of a copy and translates its destination; else the fault of the first page that fails: fault,
address and access kind (R177). -/
def State.readCopy (s : State) (c : Copy) : State × Except (XFault × Nat × Nat) CopyData :=
  let d := Desc.ofBits c.desc
  match s.readCopySource c with
  | (s1, .error (f, va)) => (s1, .error (f, va, kindCopyRead))
  | (s1, .ok (vs, src)) =>
    let dp := ptrSpace d.dst
    if d.ckind = 2 || dp = 1 || dp = 4 || dp = 5 then (s1, .ok ⟨vs, src, [], []⟩)
    else
      match s1.placeElems c.group c.thread kindCopyWrite d.dst d.dstOff (List.range d.count) with
      | (s2, .error (f, va)) => (s2, .error (f, va, kindCopyWrite))
      | (s2, .ok ps) => (s2, .ok ⟨vs, src, ps.map (·.1), ((ps.filter (·.2)).map (fun p => p.1 / 65536)).eraseDups⟩)

/-! ### Landing (R173, R174, R181, R184) -/

/-- Bytes that a copy writes: through the RDC of its streamer's die in FREE mode, to the home, but for those of uncached
pages; to FREE watchers every group's, to ORDERED ones every other group's (R56, R61, R127, R164, R340). -/
def State.copyStore (s : State) (i : Nat) (un : List Nat) (scratch : Bool) (cells : List (Nat × Byte)) : State :=
  let v := s.viaOf i 0 false false
  let writer := if (s.gridOf i).ordered then some i else none
  if scratch then (s.poke true cells).fire writer true (linesOf cells)
  else
    let direct := cells.filter (fun c => un.contains (c.1 / 65536))
    let cached := cells.filter (fun c => !un.contains (c.1 / 65536))
    let s1 := if v.dom.isSome then s else s.rdcWrite (s.ownCore i / 144) cached
    let s2 := (((s1.keepOld (some i) cells).homeStore v cached).homeStore { v with uc := true } direct).poke false cells
    ((if v.dom.isSome then s2.digest (linesOf cells) else s2).fire writer false (linesOf cells)).tellDomains (some i)
      (linesOf cells)

/-- Cells of elements at their places, in loop order. -/
def elemCells (es : Nat) (vs : List Dword) (ps : List Nat) : List (Nat × Byte) :=
  (vs.zip ps).flatMap (fun e => cellsOf e.2 (leBytes es e.1.toNat))

/-- Of several values for one byte, one is kept: which is free in FREE mode (R173). -/
def State.pickCells (s : State) : List (Nat × Byte) → List (Nat × Byte) × State
  | [] => ([], s)
  | c :: r =>
    let (rest, s1) := s.pickCells r
    if rest.any (fun e => e.1 == c.1) then
      let (v, s2) := s1.free
      (if v.getLsbD 0 then (c :: rest.filter (fun e => e.1 != c.1), s2) else (rest, s2))
    else (c :: rest, s1)

/-- Bytes of a FREE copy where source and destination overlap are not specified (R173): free values. -/
def State.blurCells (s : State) (hit : Nat → Bool) : List (Nat × Byte) → List (Nat × Byte) × State
  | [] => ([], s)
  | c :: r =>
    let (rest, s1) := s.blurCells hit r
    if hit c.1 then
      let (v, s2) := s1.free
      ((c.1, v.extractLsb' 0 8) :: rest, s2)
    else (c :: rest, s1)

/-- What a FREE copy leaves in its cells: overlapped bytes are free values, of several values for a byte one is kept
(R173). -/
def State.looseCells (s : State) (ordered : Bool) (hit : Nat → Bool) (cells : List (Nat × Byte)) :
    List (Nat × Byte) × State :=
  if ordered then (cells, s)
  else
    let (c1, s1) := s.blurCells hit cells
    s1.pickCells c1

/-- Of several elements for one place outside memory, one is kept, which is free (R173). -/
def State.pickElems (s : State) : List (Nat × Dword) → List (Nat × Dword) × State
  | [] => ([], s)
  | e :: r =>
    let (rest, s1) := s.pickElems r
    if rest.any (fun x => x.1 == e.1) then
      let (v, s2) := s1.free
      (if v.getLsbD 0 then (e :: rest.filter (fun x => x.1 != e.1), s2) else (rest, s2))
    else (e :: rest, s1)

/-- Elements in an order that is free: FREE copies write in no specified order (R173). -/
def State.shuffle {α : Type} (s : State) : List α → List α × State
  | [] => ([], s)
  | e :: r =>
    let (rest, s1) := s.shuffle r
    if rest.isEmpty then ([e], s1)
    else
      let (v, s2) := s1.free
      let k := v.toNat % (rest.length + 1)
      (rest.take k ++ e :: rest.drop k, s2)

/-- Adds elements under ROP at their homes, one by one (R172). -/
def State.addElems (s : State) (i : Nat) (un : List Nat) (rop : Nat) : List (Dword × Nat) → State
  | [] => s
  | (v, a) :: r =>
    let n := ropBytes rop
    let s0 := s.noteInput i false a n
    let o := ropAdd (s0.gridOf i).fpcr rop (BitVec.ofNat 32 (s0.peek false a n)) (v.extractLsb' 0 32)
    ((s0.copyStore i un false (cellsOf a (leBytes n o.1.toNat))).modGrp i (·.orFx o.2)).addElems i un rop r

/-- Writes free values into overlapped bytes of places just written (R173). -/
def State.blurPlaces (s : State) (i : Nat) (un : List Nat) (es : Nat) (hit : Nat → Bool) (ps : List Nat) : State :=
  let hits := (ps.flatMap (fun p => (List.range es).map (fun k => p + k))).eraseDups.filter hit
  if hits = [] then s
  else
    let (cells, s1) := s.blurCells hit (hits.map (fun a => (a, 0)))
    s1.copyStore i un false cells

/-- Contributes elements to a reduction window; true when one is refused (R460). -/
def State.contributeElems (s : State) (d : Desc) : List Dword → List Nat → State × Bool
  | v :: vs, k :: ks =>
    let o := ptrOffset (effPtr d.dst (d.dstOff k))
    match s.windowOf (peerOf o).1 (peerOf o).2 d.es with
    | none =>
      let (s1, _) := s.contributeElems d vs ks
      (s1, true)
    | some w =>
      let a := o % 2 ^ 44 - (s.reg64 (windowBase w + 8)).toNat
      let (s1, r1) := s.contribute w (a % s.winSize w) (a / s.winSize w) (v.extractLsb' 0 32)
      let (s2, r2) := s1.contributeElems d vs ks
      (s2, r1 || r2)
  | _, _ => (s, false)

/-! ### Credits (R184, R186, R189) -/

/-- A credit of a copy to a barrier (R184): over the barrier network in FREE mode when `late`, where it may be refused (R186,
R189). -/
def State.copyCredit (s : State) (i : Nat) (h : Word) (bytes : Nat) (mine : Option Nat) : Option State :=
  if !(s.gridOf i).ordered && s.late && handleRank h ≠ s.trank i then
    (s.creditSlot i h mine).map (fun b => { s with barNet := s.barNet ++ [⟨i, 2, h, bytes, b⟩] })
  else some (s.barrierOp i 2 h bytes)

/-- A credit meets its next NACK: the streamer tries it again; after the fourth, outside quota mode, it takes a ticket. -/
def State.nackedCredit (s : State) (i : Nat) (x : Credit) : Credit × State :=
  let s1 := s.tapNack i 0x20 3 x.inst 0
  let y := { x with count := x.count + 1 }
  if y.count = 4 && (s.syncQuota (s.gridOf i).fn).isNone then
    let (k, s2) := s1.newTicket i 3 x.inst
    ({ y with ticket := some k }, s2)
  else (y, s1)

/-- Sends credits of a copy; those that are refused are left. -/
def State.sendCredits (s : State) (i bytes : Nat) : List Credit → List Credit × State
  | [] => ([], s)
  | x :: r =>
    match s.copyCredit i x.handle bytes x.ticket with
    | some s1 => s1.sendCredits i bytes r
    | none =>
      let (y, s1) := s.nackedCredit i x
      let (ys, s2) := s1.sendCredits i bytes r
      (y :: ys, s2)

/-- A copy has landed when its credits are sent; while some are refused it waits for them. -/
def State.settleCredits (s : State) (idx : Nat) (c : Copy) (xs : List Credit) : State :=
  let (ys, s1) := s.sendCredits c.group (Desc.ofBits c.desc).bytes xs
  if ys = [] then s1 else { s1 with copies := s1.copies.set idx { c with st := 6, credits := ys } }

/-- The refused credits of a copy are tried again. -/
def State.retryCredits (s : State) (idx : Nat) : State :=
  match s.copies[idx]? with
  | none => s
  | some c =>
    if c.st = 6 then
      ({ s with copies := s.copies.set idx { c with st := 1, credits := [] } } : State).settleCredits idx
        { c with st := 1, credits := [] } c.credits
    else s

/-- The refused credits of a copy are given, for a SAVE that waits for them (R399). -/
def State.giveCredits (s : State) (idx : Nat) : State :=
  match s.copies[idx]? with
  | none => s
  | some c =>
    if c.st = 6 then
      c.credits.foldl (fun s x => s.barrierOp c.group 2 x.handle (Desc.ofBits c.desc).bytes)
        { s with copies := s.copies.set idx { c with st := 1, credits := [] } }
    else s

/-- A destination byte that is also a source byte of the copy. -/
def Desc.overlaps (d : Desc) (src : List Nat) (a : Nat) : Bool :=
  (ptrSpace d.src == 1) == (ptrSpace d.dst == 1) && (ptrSpace d.src == 4) == (ptrSpace d.dst == 4) &&
    src.any (fun p => p ≤ a && a < p + d.es)

/-- The ring handle of a copy at a rank. -/
def Copy.ringAt (c : Copy) (rank : Nat) : Word := BitVec.ofNat 5 rank ++ c.chandle.extractLsb' 0 27

/-- The header of a copy's ring at a rank, as it stands there. -/
def State.ringOf (s : State) (c : Copy) (rank : Nat) : Ring :=
  Ring.ofNat (s.peek true (s.handleKey c.group (c.ringAt rank)) 32)

/-- Writes a header back. -/
def State.setRing (s : State) (c : Copy) (rank : Nat) (r : Ring) : State :=
  s.copyStore c.group [] true (cellsOf (s.handleKey c.group (c.ringAt rank)) (leBytes 32 r.toNat))

/-- Offset of an element within its slot. -/
def Desc.slotOff (d : Desc) (k : Nat) : Int := (ptrOffset d.dst : Int) + d.dstOff k

/-- A header in which a landing fails: the slot is not to be filled, the ring is not valid, or a byte lies outside the
slot; a slot beyond the allotment counts as outside (R181; log 101). -/
def State.landFails (s : State) (c : Copy) (r : Ring) : Bool :=
  let d := Desc.ofBits c.desc
  !r.valid || r.unavailable c.n ||
    (List.range d.count).any (fun k => d.slotOff k < 0 || (r.size : Int) < d.slotOff k + d.es) ||
    (s.gridOf c.group).scratchBytes < r.slotOff c.n + r.size

/-- RING of a landing on a ring whose ERR is set (R180; log 101). -/
def State.landTrap (s : State) (c : Copy) : State :=
  s.pendTrap c.group (objTrap codeRing (s.grp c.group).lowestAlive 2 c.n c.chandle)

/-- The cells of a ring copy at one rank, placed by a header. -/
def State.slotCells (s : State) (c : Copy) (vs : List Dword) (rank : Nat) (r : Ring) : List (Nat × Byte) :=
  let d := Desc.ofBits c.desc
  elemCells d.es vs ((List.range d.count).map (fun k => s.rankKey c.group rank (r.slotOff c.n + (d.slotOff k).toNat)))

/-- The header is read and the bytes are written at one rank; true when they were (R181). -/
def State.fillSlot (s : State) (c : Copy) (vs : List Dword) (srcPlaces : List Nat) (rank : Nat) : State × Bool :=
  let r := s.ringOf c rank
  if r.valid && r.err then (s.landTrap c, false)
  else if s.landFails c r then (s.setRing c rank { r with err := true }, false)
  else
    let (cs, s1) := s.looseCells (s.gridOf c.group).ordered ((Desc.ofBits c.desc).overlaps srcPlaces) (s.slotCells c vs rank r)
    (s1.copyStore c.group [] true cs, true)

/-- land(h, n) at one rank, in the header as it then stands (R180, R181). -/
def State.landSlot (s : State) (c : Copy) (rank : Nat) : State :=
  let r := s.ringOf c rank
  if r.valid && r.err then s.landTrap c
  else if s.landFails c r then s.setRing c rank { r with err := true }
  else s.setRing c rank (r.land c.n)

/-- The landing of a ring copy at one rank as one item (R181). -/
def State.landRing (s : State) (c : Copy) (vs : List Dword) (srcPlaces : List Nat) (rank : Nat) : State :=
  match s.fillSlot c vs srcPlaces rank with
  | (s1, true) => s1.landSlot c rank
  | (s1, false) => s1

/-- The slots of a FREE ring copy are filled; the landings are still to come (R181). -/
def State.fillSlots (s : State) (idx : Nat) (c : Copy) (vs : List Dword) (srcPlaces : List Nat) : State :=
  let r := ((Desc.ofBits c.desc).ringRanks c.form c.chandle).foldl (fun (a : State × List Nat) rank =>
    let (s1, ok) := a.1.fillSlot c vs srcPlaces rank
    (s1, if ok then a.2 ++ [rank] else a.2)) (s, [])
  { r.1 with copies := r.1.copies.set idx { c with st := 5, dest := r.2 } }

/-- They land. -/
def State.landSlots (s : State) (idx : Nat) (c : Copy) : State :=
  c.dest.foldl (fun s rank => s.landSlot c rank) { s with copies := s.copies.set idx { c with st := 1 } }

/-- SRC 1 trap of a copy: the descriptor handle in INFO, the queue in AUX, RIX 0 (R178). -/
def copyTrap (code : BitVec 8) (detail : Nat) (c : Copy) : Trap :=
  { Trap.plain code 0 with
    detail := BitVec.ofNat 16 detail, aux := BitVec.ofNat 32 (Desc.ofBits c.desc).queue,
    info := c.dhandle.setWidth 64, src := 1 }

/-- Cells of a copy's memory or scratchpad destination at one rank. -/
def State.destCells (s : State) (c : Copy) (vs : List Dword) (rank : Nat) : List (Nat × Byte) :=
  let d := Desc.ofBits c.desc
  if ptrSpace d.dst = 1 then
    elemCells d.es vs ((List.range d.count).map (fun k => s.elemKey c.group rank d.dst (d.dstOff k)))
  else elemCells d.es vs c.dest

/-- Stores an element to a peer by a request flit, or to a control register. -/
def State.storeOutside (s : State) (gr : Grid) (sp o es : Nat) (v : Dword) : State :=
  if sp = 5 then s.mmioWrite o es (v.toNat % 2 ^ (8 * es)) else s.peerFlit gr o (leBytes es v.toNat)

/-- Stores elements outside device memory: to host memory byte by byte, to a peer or to control registers element by
element. -/
def State.storeElems (s : State) (c : Copy) (vs : List Dword) (srcPlaces : List Nat) : State :=
  let d := Desc.ofBits c.desc
  let sp := ptrSpace d.dst
  let gr := s.gridOf c.group
  let ps := (List.range d.count).map (fun k => ptrOffset (effPtr d.dst (d.dstOff k)))
  let (cells, s1) := s.looseCells gr.ordered (d.overlaps srcPlaces)
    (if sp = 4 then (elemCells d.es vs ps).filter (fun e => !toPeer e.1) else [])
  let es := if sp = 4 then (ps.zip vs).filter (fun e => toPeer e.1) else ps.zip vs
  let (es1, s2) := if gr.ordered then (es, s1) else s1.pickElems es
  es1.foldl (fun s e => s.storeOutside gr sp e.1 d.es e.2)
    { s2 with host := cells.foldl (fun m e => m.set e.1 e.2) s2.host }

/-- Writes the destination of a copy whose source is read; true when a contribution was refused. -/
def State.landBytes (s : State) (c : Copy) (vs : List Dword) (srcPlaces : List Nat) : State × Bool :=
  let d := Desc.ofBits c.desc
  let i := c.group
  let ks := List.range d.count
  let ordered := (s.gridOf i).ordered
  if c.form = 4 then
    if ptrSpace d.dst = 4 then s.contributeElems d vs ks
    else
      let (es, s1) := if ordered then (vs.zip c.dest, s) else s.shuffle (vs.zip c.dest)
      let s2 := s1.addElems i c.uncached d.rop es
      (if ordered then s2 else s2.blurPlaces i c.uncached d.es (d.overlaps srcPlaces) c.dest, false)
  else if ptrSpace d.dst = 4 || ptrSpace d.dst = 5 then (s.storeElems c vs srcPlaces, false)
  else
    let ranks := if c.form = 3 then maskRanks d.mask else [ptrRank d.dst]
    (ranks.foldl (fun s r =>
      let (cs, s1) := s.looseCells ordered (d.overlaps srcPlaces) (s.destCells c vs r)
      s1.copyStore i c.uncached (ptrSpace d.dst = 1) cs) s, false)

/-- The barriers that the credits of a copy go to (R184). -/
def Copy.credited (c : Copy) : List Word :=
  let d := Desc.ofBits c.desc
  if d.ckind ≠ 1 then []
  else if c.form = 3 then (maskRanks d.mask).map (fun r => BitVec.ofNat 5 r ++ c.chandle.extractLsb' 0 27)
  else [c.chandle]

/-- Credits of a copy that has landed (R184, R189). -/
def State.creditCopy (s : State) (idx : Nat) (c : Copy) : State :=
  s.settleCredits idx c (c.credited.map (fun h => ⟨h, s.rankCore c.group h, 0, none⟩))

/-- Lands a copy whose source is read: bytes, then credits. `status` is the answer of the outside to its host or peer
writes; an error, or a refused contribution, traps the producer with LANDING and gives no credit (R388, R460). A FREE ring
copy fills its slots first, and lands in them at once unless accesses stay in flight (R181). -/
def State.landCopy (s : State) (idx : Nat) (c : Copy) (vs : List Dword) (srcPlaces : List Nat) (status : BitVec 8) :
    State :=
  let d := Desc.ofBits c.desc
  let c1 := { c with st := 1 }
  let s0 := { s with copies := s.copies.set idx c1 }
  if d.ckind = 2 then
    if !(s.gridOf c.group).ordered && s.late then s.fillSlots idx c vs srcPlaces
    else (d.ringRanks c.form c.chandle).foldl (fun s r => s.landRing c vs srcPlaces r) s0
  else
    let (s1, refused) := s0.landBytes c vs srcPlaces
    let outside := ptrSpace d.dst = 4 && c.form ≠ 4
    if refused || (outside && status ≠ 0) then
      s1.modGrp c.group (fun g =>
        { g with pend := g.pend ++ [copyTrap codeLanding (if refused then 0 else status.toNat) c] })
    else s1.creditCopy idx c1

/-- Abandons a copy (R178): no credit, and a trap for the producer: in ORDERED mode at its round-closing point, in FREE
mode at its next boundary, with the later copies of its queue, which have written nothing, cancelled and counted in AUX. -/
def State.abandonCopy (s : State) (idx : Nat) (c : Copy) (t : Trap) : State :=
  let d := Desc.ofBits c.desc
  let later := if (s.gridOf c.group).ordered then []
    else (List.range s.copies.length).filter (fun k =>
      let x := s.copies.getD k c
      idx < k && x.wg == c.wg && x.st == 0 && (Desc.ofBits x.desc).queue == d.queue)
  let t1 := { t with aux := BitVec.ofNat 16 later.length ++ t.aux.extractLsb' 0 16 }
  if (s.gridOf c.group).ordered then { s with copies := s.copies.set idx { c with st := 3, due := some t1 } }
  else
    let cs := later.foldl (fun l k => l.set k { (s.copies.getD k c) with st := 2, data := some [] })
      (s.copies.set idx { c with st := 3 })
    { s with copies := cs }.modGrp c.group (fun g => { g with pend := g.pend ++ [t1] })

/-- A page of a copy has no translation: a fault record when FRCTL.EN is set, else the copy is abandoned. -/
def State.faultCopy (s : State) (idx : Nat) (c : Copy) (f : XFault) (va kind : Nat) :
    State :=
  let gr := s.gridOf c.group
  let t := copyTrap (reasonCode f.reason) (8 + 16 * f.reason) c
  if (s.reg (transBase gr.fn + 0x30)).getLsbD 0 then
    let (v, s1) := s.free
    let id := s1.nextFault gr.fn
    let e : FaultEntry :=
      ⟨id, gr.fn, s.groupFault c.group va kind c.thread f id v, none, some idx, t, false, none⟩
    { s1.addFault e with copies := s1.copies.set idx { c with st := 4 } }
  else s.abandonCopy idx c t

/-! ### The copies of a group -/

/-- Reads the source of an ORDERED copy, or meets its fault (R126, R177, R178). -/
def State.readSource (s : State) (idx : Nat) : State :=
  match s.copies[idx]? with
  | none => s
  | some c =>
    if c.st ≠ 0 || c.data.isSome then s
    else
      match s.readCopy c with
      | (s1, .ok x) => { s1 with copies := s1.copies.set idx { c with data := some x.vals, dest := x.dest, uncached := x.uncached } }
      | (s1, .error (f, va, kind)) => s1.faultCopy idx c f va kind

/-- Copies of group `i` whose source is not read, or that wait for a fault reply (R126, R177). -/
def State.unreadCopies (s : State) (i : Nat) : List Nat :=
  (List.range s.copies.length).filter (fun k =>
    match s.copies[k]? with
    | some c => c.group == i && ((c.st == 0 && c.data.isNone) || c.st == 4)
    | none => false)

/-- The traps of abandoned copies fall due at the close of the round (R178). -/
def State.dueTraps (s : State) (i : Nat) : State :=
  let ts := (s.copies.filter (fun c => c.group == i)).filterMap (·.due)
  { s with copies := s.copies.map (fun (c : Copy) => if c.group == i then { c with due := none } else c) }.modGrp i
    (fun g => { g with pend := g.pend ++ ts })

/-- Reads the sources of all copies of a group. -/
def State.readSources (s : State) (i : Nat) : State := (s.unreadCopies i).foldl (fun s k => s.readSource k) s

/-! ### Copies that end half-way (R178, R384) -/

/-- Space and place of an element: memory 0, scratchpad 1, host 4, elsewhere 5; and whether its page is uncached. -/
def State.elemPlace (s : State) (c : Copy) (kind rank : Nat) (p : Dword) (off : Int) : Option (Nat × Nat × Bool) :=
  let o := ptrOffset (effPtr p off)
  if ptrSpace p = 1 then some (1, s.elemKey c.group rank p off, false)
  else if ptrSpace p = 4 then some (if toPeer o then 5 else 4, o, false)
  else if ptrSpace p = 5 then some (5, o, false)
  else
    let va := s.virtualOf c.group c.thread (effPtr p off)
    match s.lookup (s.gridOf c.group) kind va with
    | .ok e => some (0, e.base + va % 65536, pteUC e.attr)
    | .error _ => none

/-- The value of an element at its place; outside the package and in control registers it is free. -/
def State.elemValue (s : State) (pl : Nat × Nat × Bool) (es : Nat) : Dword × State :=
  if pl.1 = 5 then s.free
  else if pl.1 = 4 then (BitVec.ofNat 64 (readBytes s.host pl.2.1 es), s)
  else (BitVec.ofNat 64 (s.peek (pl.1 = 1) pl.2.1 es), s)

/-- Of some cells, those that a free value picks. -/
def State.someCells (s : State) : List (Nat × Byte) → List (Nat × Byte) × State
  | [] => ([], s)
  | e :: r =>
    let (rest, s1) := s.someCells r
    let (v, s2) := s1.free
    (if v.getLsbD 0 then e :: rest else rest, s2)

/-- One element at one rank, read already or now: each of its bytes is written or not, as a free value says; an element for a
peer or for a control register is sent whole or not at all, and so is the addition of a CPYR, with its flags (R172, R178). -/
def State.partialElem (s : State) (c : Copy) (rank k : Nat) : State :=
  let d := Desc.ofBits c.desc
  let i := c.group
  let dst : Option (Nat × Nat × Bool) :=
    if d.ckind = 2 then
      let r := s.ringOf c rank
      if s.landFails c r || r.err then none
      else some (1, s.rankKey i rank (r.slotOff c.n + (d.slotOff k).toNat), false)
    else s.elemPlace c kindCopyWrite rank d.dst (d.dstOff k)
  match s.elemPlace c kindCopyRead (ptrRank d.src) d.src (d.srcOff k), dst with
  | some a, some b =>
    let (x, s1) := match (c.data.getD [])[k]? with
      | some v => (v, s)
      | none => s.elemValue a d.es
    let un := if b.2.2 then [b.2.1 / 65536] else []
    if b.1 = 5 || c.form = 4 then
      let (z, s2) := s1.free
      if !z.getLsbD 0 then s2
      else if c.form = 4 then (if b.1 = 0 then s2.addElems i un d.rop [(x, b.2.1)] else s2)
      else s2.storeOutside (s.gridOf i) (ptrSpace d.dst) b.2.1 d.es x
    else
      let (cells, s2) := s1.someCells (cellsOf b.2.1 (leBytes d.es x.toNat))
      if b.1 = 4 then { s2 with host := cells.foldl (fun m e => m.set e.1 e.2) s2.host }
      else if cells = [] then s2
      else s2.copyStore i un (b.1 = 1) cells
  | _, _ => s

/-- Each destination byte of a FREE copy that ends half-way is written or unchanged (R178, R384). -/
def State.partialCopy (s : State) (c : Copy) : State :=
  let d := Desc.ofBits c.desc
  let ranks := if c.form = 3 then maskRanks d.mask else if d.ckind = 2 then [handleRank c.chandle] else [ptrRank d.dst]
  ranks.foldl (fun s r => (List.range d.count).foldl (fun s k => s.partialElem c r k) s) s

/-- A copy of FREE mode that was cancelled or abandoned, and whose destination bytes are still to be settled. -/
def State.unsettled (s : State) (c : Copy) : Bool :=
  !(s.gridOf c.group).ordered && (c.st == 2 || c.st == 3) && c.data.isNone

/-- Settles the destination bytes of such a copy. -/
def State.settleCancelled (s : State) (idx : Nat) (c : Copy) : State :=
  ({ s with copies := s.copies.set idx { c with data := some [] } } : State).partialCopy c

/-- Lines of device memory that a copy would write now. -/
def State.copyLines (s : State) (c : Copy) : List Nat :=
  let d := Desc.ofBits c.desc
  if ptrSpace d.dst = 1 || ptrSpace d.dst = 4 || ptrSpace d.dst = 5 then []
  else (List.range d.count).flatMap (fun k =>
    match s.elemPlace c kindCopyWrite 0 d.dst (d.dstOff k) with
    | some (_, a, _) => linesFrom a d.es
    | none => [])

/-- The streamer performs a FREE copy (R173, R164, R178). The bytes of one that is abandoned are settled apart. -/
def State.performCopy (s : State) (idx : Nat) (c : Copy) (status : BitVec 8) : State :=
  let s0 := s.drain c.group Flight.writes
  match s0.readCopy c with
  | (s1, .ok x) => s1.landCopy idx { c with dest := x.dest, uncached := x.uncached } x.vals x.src status
  | (s1, .error (f, va, kind)) => s1.faultCopy idx c f va kind

end Sys2Proof.Machine
end

