-- ==== Sys2Proof/Machine/Oi4.lean ====
section
/-!
DEFINITION. The OI4 block codec (R243 to R245).
-/
namespace Sys2Proof.Machine

/-- Slot `i` of a block: a nibble of its byte `i / 2` (R243). -/
def oi4Slot (b : List Byte) (i : Nat) : Nat := (b.getD (i / 2) 0).toNat / 16 ^ (i % 2) % 16

/-- Spill nibble `k` (R243). -/
def oi4Spill (b : List Byte) (k : Nat) : Nat := (b.getD (34 + k / 2) 0).toNat / 16 ^ (k % 2) % 16

/-- The header makes the whole block malformed (R243, R244). -/
def oi4BadBlock (b : List Byte) : Bool :=
  (b.getD 32 0).toNat = 0xFF || (b.getD 33 0).toNat / 8 ≠ 0 || 4 < (b.getD 33 0).toNat % 8

/-- How many markers stand below slot `i`. -/
def oi4Rank (b : List Byte) (i : Nat) : Nat := ((List.range i).filter (fun j => oi4Slot b j = 8)).length

/-- The partner of a slot. -/
def oi4Partner (i : Nat) : Nat := if i % 2 = 0 then i + 1 else i - 1

/-- The marker at slot `i` is bad: paired with a marker, without a spill nibble, or a NaN code (R244). -/
def oi4BadMarker (b : List Byte) (i : Nat) : Bool :=
  oi4Slot b (oi4Partner i) = 8 || (b.getD 33 0).toNat % 8 ≤ oi4Rank b i ||
    (oi4Slot b (oi4Partner i) * 16 + oi4Spill b (oi4Rank b i)) % 128 = 0x7F

/-- Element `i` is bad (R244). -/
def oi4Bad (b : List Byte) (i : Nat) : Bool :=
  oi4BadBlock b || (oi4Slot b i = 8 && oi4BadMarker b i) ||
    (oi4Slot b (oi4Partner i) = 8 && oi4BadMarker b (oi4Partner i))

/-- Multiplication of a value by `2 ^ e`. -/
def FVal.scale (v : FVal) (e : Int) : FVal :=
  match v with
  | .fin s n d => if 0 ≤ e then .fin s (n * 2 ^ e.toNat) d else .fin s n (d * 2 ^ (-e).toNat)
  | v => v

/-- The value of element `i` (R244). -/
def oi4Value (b : List Byte) (i : Nat) : FVal :=
  let e : Int := ((b.getD 32 0).toNat : Int) - 127
  if oi4Bad b i then .fin false 0 1
  else if oi4Slot b i = 8 then
    (decodeFp .e4m3 (oi4Slot b (oi4Partner i) * 16 + oi4Spill b (oi4Rank b i))).scale e
  else if oi4Slot b (oi4Partner i) = 8 then .fin false 0 1
  else if oi4Slot b i < 8 then (ofInt (oi4Slot b i)).scale e
  else (ofInt ((oi4Slot b i : Int) - 16)).scale e

/-- `decode_oi4`: the 64 values, and FMT when an element is bad (R244). -/
def oi4Decode (b : List Byte) : List FVal × Fx :=
  ((List.range 64).map (oi4Value b), if (List.range 64).any (oi4Bad b) then fxFMT else 0)

/-- The magnitude of an FP32 code's low 31 bits orders magnitudes. -/
def oi4Mag (x : Word) : Nat := x.toNat % 2 ^ 31

/-- Insertion of an index into the ranking: larger magnitude first, then lower index (R245). -/
def oi4Insert (xs : List Word) (i : Nat) : List Nat → List Nat
  | [] => [i]
  | j :: js =>
    if oi4Mag (xs.getD i 0) > oi4Mag (xs.getD j 0) then i :: j :: js else j :: oi4Insert xs i js

/-- The ranking of R245. -/
def oi4Order (xs : List Word) : List Nat := (List.range 64).foldl (fun o i => oi4Insert xs i o) []

/-- The smallest scale exponent that holds a magnitude: `m ≤ 7 * 2 ^ (e - 127)` (R245). -/
def oi4Scale (n d : Nat) : Nat → Nat → Nat
  | 0, e => e
  | fuel + 1, e => if n * 2 ^ 127 ≤ 7 * d * 2 ^ e then e else oi4Scale n d fuel (e + 1)

/-- The outliers, the forfeited slots and the clamped slots of R245. -/
structure Oi4Split where
  /-- Slots written as outliers. -/
  outl : List Nat
  /-- Slots whose element is given up to an outlier. -/
  forf : List Nat
  /-- Slots clamped to ±7. -/
  sat : List Nat
  deriving DecidableEq, Repr

/-- One candidate in rank order (R245). -/
def oi4Candidate (o : Bool) (big : Nat → Bool) (s : Oi4Split) (i : Nat) : Oi4Split :=
  if !big i then s
  else if s.forf.contains i then s
  else if o && s.outl.length < 4 then { s with outl := i :: s.outl, forf := oi4Partner i :: s.forf }
  else { s with sat := i :: s.sat }

/-- Encoding of 64 FP32 codes (R245): 36 bytes and the flags. -/
def oi4Encode (rm : Rm) (o : Bool) (xs0 : List Word) : List Byte × Fx :=
  if xs0.any (fun x => (decodeFp .f32 x.toNat).isNan) then
    (List.replicate 32 0 ++ [0xFF, 0, 0, 0], fxNV)
  else
    let anyInf := xs0.any (fun x => x.toNat % 2 ^ 31 = 0x7F800000)
    let xs := xs0.map (fun x => if x.toNat % 2 ^ 31 = 0x7F800000 then x - 1 else x)
    let order := oi4Order xs
    let ref := decodeFp .f32 (oi4Mag (xs.getD (order.getD (if o then 4 else 0) 0) 0))
    let e : Nat := match ref with
      | .fin _ n d => oi4Scale n d 254 0
      | _ => 254
    let sc : Int := 127 - (e : Int)
    let val (i : Nat) : FVal := (decodeFp .f32 (xs.getD i 0).toNat).scale sc
    let q (i : Nat) : Int × Bool := ((val i).toInt rm).getD (0, false)
    let sp := order.foldl (oi4Candidate o (fun i => 7 < (q i).1.natAbs)) ⟨[], [], []⟩
    let code (i : Nat) : Rounded := roundFp .e4m3 rm false true (val i)
    let neg (i : Nat) : Bool := (xs.getD i 0).getLsbD 31
    let slot (i : Nat) : Nat :=
      if sp.outl.contains i then 8
      else if sp.forf.contains i then (code (oi4Partner i)).code / 16
      else if sp.sat.contains i then (if neg i then 9 else 7)
      else ((q i).1 % 16).toNat
    let spills := ((List.range 64).filter sp.outl.contains).map (fun i => (code i).code % 16)
    let flag (i : Nat) : Fx :=
      if sp.outl.contains i then (code i).fx
      else if sp.forf.contains i then (if oi4Mag (xs.getD i 0) ≠ 0 then fxNX else 0)
      else if sp.sat.contains i then fxOF ||| fxNX
      else if (q i).2 then fxNX else 0
    let spill (k : Nat) : Nat := spills.getD k 0
    ((List.range 32).map (fun i => BitVec.ofNat 8 (slot (2 * i) + 16 * slot (2 * i + 1))) ++
      [BitVec.ofNat 8 e, BitVec.ofNat 8 spills.length, BitVec.ofNat 8 (spill 0 + 16 * spill 1),
        BitVec.ofNat 8 (spill 2 + 16 * spill 3)],
      (List.range 64).foldl (fun f i => f ||| flag i) (if anyInf then fxOF ||| fxNX else 0))

end Sys2Proof.Machine
end

