-- ==== Sys2Proof/Machine/Mxu.lean ====
section
/-!
DEFINITION. The matrix unit (R246 to R250, R358 to R374): format-slot checks, operand layouts, the arithmetic of MMA,
LDA, STA, DRAIN and ZACC on tiles, and the queue of accepted instructions.
-/
namespace Sys2Proof.Machine

/-! ### Format slots (R246, R247) -/

/-- TYPE. -/
def slotType (v : Dword) : Nat := (v.extractLsb' 0 4).toNat
/-- SKIND. -/
def slotScale (v : Dword) : Nat := (v.extractLsb' 4 2).toNat
/-- BLK. -/
def slotBlk (v : Dword) : Nat := (v.extractLsb' 6 2).toNat
/-- TRN. -/
def slotTrn (v : Dword) : Bool := v.getLsbD 8
/-- SAT. -/
def slotSat (v : Dword) : Bool := v.getLsbD 9
/-- OUTL. -/
def slotOutl (v : Dword) : Bool := v.getLsbD 10
/-- TSCALE. -/
def slotTscale (v : Dword) : Nat := (v.extractLsb' 32 32).toNat

/-- TSCALE is finite, not zero and not subnormal. -/
def goodTscale (c : Nat) : Bool :=
  let e := c / 2 ^ 23 % 256
  e ≠ 0 && e ≠ 255

/-- A slot that fails in every role (R247). -/
def slotBadAny (v : Dword) : Bool :=
  7 < slotType v || slotScale v == 3 || slotBlk v == 3 || (slotScale v == 1) != (slotBlk v ≠ 0) ||
    (slotOutl v && slotType v ≠ 6) || (slotScale v == 2 && !goodTscale (slotTscale v))

/-- A slot fails in a role: 0 A, 1 B, 2 accumulator, 3 drain output, 4 LDA or STA. `other` is the TYPE of the partner
operand, or of the accumulator for a drain output; for an accumulator it is 5 when both operands are S8. -/
def slotBad (role : Nat) (v : Dword) (other : Nat) : Bool :=
  let t := slotType v
  slotBadAny v || (match role with
    | 2 => t ≠ 0 && t ≠ 7
    | 3 => (slotScale v == 1 && t ≠ 6) || (t == 6 && (slotScale v ≠ 1 || slotBlk v ≠ 2 || other ≠ 0))
    | 4 => (t ≠ 0 && t ≠ 7) || slotScale v ≠ 0
    | _ => t == 0 || t == 7 || (t == 5 && (slotScale v ≠ 0 || other ≠ 5)) ||
        (t == 6 && (slotScale v ≠ 1 || slotBlk v ≠ 2)))

/-- FORMAT of a slot (R388). -/
def slotTrap (t slot role : Nat) (v : Dword) : Trap :=
  { Trap.plain codeFormat t with detail := BitVec.ofNat 16 (slot + 16 * role), info := v }

/-- K of an MMA (R248). -/
def mmaK (ta tb : Nat) : Nat :=
  let half := fun t => t == 1 || t == 2
  if half ta || half tb then 32 else if ta = 6 && tb = 6 then 128 else 64

/-! ### Operands (R362 to R366) -/

/-- Bytes of a dense element of a TYPE. -/
def typeBytes (t : Nat) : Nat := if t = 0 || t = 7 then 4 else if t = 1 || t = 2 then 2 else 1

/-- Blocks of an OI4 vector. -/
def oi4Blocks (k : Nat) : Nat := max 1 (k / 64)

/-- Scale bytes of a vector of a dense operand. -/
def scaleBytes (v : Dword) (k : Nat) : Nat :=
  if slotScale v = 1 then max 1 (k / (32 * slotBlk v)) else 0

/-- Bytes of a dense operand's data. -/
def dataBytes (v : Dword) (k : Nat) : Nat := 64 * k * typeBytes (slotType v)

/-- Byte size of an operand (R363, R364). -/
def operandBytes (v : Dword) (k : Nat) : Nat :=
  let n := if slotType v = 6 then 64 * 36 * oi4Blocks k else dataBytes v k + 64 * scaleBytes v k
  (n + 15) / 16 * 16

/-- The handle at which an operand starts: for OI4 and K = 32, bit 0 only selects the half (R363). -/
def operandHandle (v : Dword) (k : Nat) (h : Word) : Word :=
  if slotType v = 6 && k = 32 then h &&& ~~~1 else h

/-- Alignment of an operand (R365). -/
def operandAlign (v : Dword) : Nat := if slotType v = 6 then 4 else 16

/-- The floating format of a TYPE. -/
def typeFmt (t : Nat) : Fmt :=
  match t with
  | 0 => .f32
  | 1 => .bf16
  | 2 => .f16
  | 3 => .e4m3
  | _ => .e5m2

/-- A number of `n` bytes at offset `o`, as a value of a dense TYPE. -/
def denseValue (t : Nat) (b : List Byte) (o : Nat) : FVal :=
  let c := leAt b o (typeBytes t)
  if t = 5 then ofInt (signedNat 8 c) else if t = 7 then ofInt (signedNat 32 c) else decodeFp (typeFmt t) c

/-- A value under an E8M0 scale; 0xFF is a NaN (R234). -/
def scaledBy (v : FVal) (e : Byte) : FVal := if e = 0xFF then .nan else v.scale ((e.toNat : Int) - 127)

/-- Element `k` of vector `v` of an operand. -/
def operandElem (slot : Dword) (kk : Nat) (half : Bool) (b : List Byte) (v k : Nat) : FVal :=
  if slotType slot = 6 then
    let q := if half then 32 + k else k
    oi4Value ((b.drop (36 * (oi4Blocks kk * v + q / 64))).take 36) (q % 64)
  else
    let es := typeBytes (slotType slot)
    let x := denseValue (slotType slot) b ((if slotTrn slot then 64 * k + v else kk * v + k) * es)
    if slotScale slot = 1 then
      let ns := scaleBytes slot kk
      scaledBy x (b.getD (dataBytes slot kk + ns * v + min (k / (32 * slotBlk slot)) (ns - 1)) 0)
    else x

/-- An operand: 64 vectors, each cut into blocks of 32 elements. -/
def operandBlocks (slot : Dword) (kk : Nat) (half : Bool) (b : List Byte) : List (List (List FVal)) :=
  (List.range 64).map (fun v => (List.range (kk / 32)).map (fun q =>
    (List.range 32).map (fun k => operandElem slot kk half b v (32 * q + k))))

/-- FMT when an OI4 block that was read is malformed (R244, R367). -/
def operandFlags (slot : Dword) (kk : Nat) (b : List Byte) : Fx :=
  if slotType slot = 6 &&
      (List.range (64 * oi4Blocks kk)).any (fun q =>
        (List.range 64).any (oi4Bad ((b.drop (36 * q)).take 36))) then fxFMT
  else 0

/-! ### Block arithmetic (R249) -/

/-- The exact sum of finite values whose denominators are powers of two; an exact zero is +0. -/
def exactSum (vs : List FVal) : FVal :=
  let r := vs.foldl (fun (a : Int × Nat) v =>
    match v with
    | .fin s n d =>
      let m := max a.2 d
      (a.1 * (m / a.2 : Nat) + (if s then -(n * (m / d) : Int) else (n * (m / d) : Int)), m)
    | _ => a) (0, 1)
  .fin (r.1 < 0) r.1.natAbs r.2

/-- A value is an infinity of a sign. -/
def FVal.isInf (v : FVal) (neg : Bool) : Bool := v == .inf neg

/-- One block of products: the value `s` and its flags (R249). `scale` is ta × tb. -/
def blockSum (fpcr : Word) (scale : FVal) (a b : List FVal) : Rounded :=
  let ps := (a.zip b).map (fun e => e.1.mul e.2)
  let invalid := ps.any (fun p => p.2 ≠ 0)
  let pos := ps.any (fun p => p.1.isInf false)
  let neg := ps.any (fun p => p.1.isInf true)
  if invalid || (pos && neg) then ⟨Fmt.f32.canon, fxNV⟩
  else if a.any FVal.isNan || b.any FVal.isNan then ⟨Fmt.f32.canon, 0⟩
  else if pos || neg then ⟨Fmt.f32.signBit neg + Fmt.f32.infCode, 0⟩
  else
    match exactSum (ps.map (·.1)) with
    | .fin _ 0 _ => ⟨0, 0⟩
    | x => roundVec fpcr .f32 (x.mul scale).1

/-- The accumulator after one block. -/
def addBlock (fpcr : Word) (scale : FVal) (acc : Rounded) (blk : List FVal × List FVal) : Rounded :=
  let s := blockSum fpcr scale blk.1 blk.2
  let o := finish fpcr .f32 ((decodeFtzi fpcr .f32 acc.code).add (fpcrRm fpcr) (decodeFp .f32 s.code))
  ⟨o.code, acc.fx ||| s.fx ||| o.fx⟩

/-- An accumulator element of a floating pairing. -/
def mmaFloat (fpcr : Word) (scale : FVal) (acc : Word) (a b : List (List FVal)) : Word × Fx :=
  let r := (a.zip b).foldl (addBlock fpcr scale) ⟨acc.toNat, 0⟩
  (BitVec.ofNat 32 r.code, r.fx)

/-- An accumulator element of an S8 pairing: modulo 2^32, no flag. -/
def mmaInt (acc : Word) (a b : List (List FVal)) : Word × Fx :=
  match exactSum (((a.zip b).flatMap (fun e => e.1.zip e.2)).map (fun e => (e.1.mul e.2).1)) with
  | .fin s n d => (acc + BitVec.ofInt 32 (if s then -((n / d : Nat) : Int) else ((n / d : Nat) : Int)), 0)
  | _ => (acc, 0)

/-- TSCALE as a factor, or 1. -/
def tensorScale (slot : Dword) : FVal :=
  if slotScale slot = 2 then decodeFp .f32 (slotTscale slot) else .fin false 1 1

/-! ### Drain conversions (R250, R372) -/

/-- An accumulator element as an exact value: S32 or FP32. -/
def accValue (sacc : Dword) (x : Word) : FVal :=
  if slotType sacc = 7 then ofInt x.toInt else decodeFp .f32 x.toNat

/-- One dense output element. -/
def drainElem (fpcr : Word) (so sacc : Dword) (x : Word) : Nat × Fx :=
  let t := slotType so
  let v0 := accValue sacc x
  let v := if slotScale so = 2 then v0.divFin (tensorScale so) else v0
  if t = 5 || t = 7 then
    let w := if t = 5 then 8 else 32
    let r := fpToInt (fpcrRm fpcr) (-2 ^ (w - 1)) (2 ^ (w - 1) - 1) v
    ((r.1 % 2 ^ w).toNat, r.2)
  else
    let r := roundFp (typeFmt t) (fpcrRm fpcr) (fpcrFtzo fpcr) (fpcrSatn fpcr || slotSat so) v
    (r.code, r.fx)

/-- Bytes of a drained half. -/
def drainBytes (so : Dword) : Nat := if slotType so = 6 then 2304 else 4096 * typeBytes (slotType so)

/-- A half of a tile drained: its bytes and the flags. `el m n` is an accumulator element. -/
def drainHalf (fpcr : Word) (so sacc : Dword) (el : Nat → Nat → Word) : List Byte × Fx :=
  if slotType so = 6 then
    (List.range 64).foldl (fun acc v =>
      let r := oi4Encode (fpcrRm fpcr) (slotOutl so)
        ((List.range 64).map (fun k => if slotTrn so then el k v else el v k))
      (acc.1 ++ r.1, acc.2 ||| r.2)) ([], 0)
  else
    (List.range 4096).foldl (fun acc q =>
      let r := drainElem fpcr so sacc (if slotTrn so then el (q % 64) (q / 64) else el (q / 64) (q % 64))
      (acc.1 ++ leBytes (typeBytes (slotType so)) r.1, acc.2 ||| r.2)) ([], 0)

/-! ### Tiles (R358) -/

/-- Key of element 0 of half `h` of a tile. -/
def tileKey (wg h tile : Nat) : Nat := (2 * wg + h) * 32768 + 4096 * tile

/-- Key of element `e` of a tile, `e` counted as in R358. -/
def elementKey (wg tile e : Nat) : Nat := tileKey wg (e / 4096) tile + e % 4096

/-- Zeroes a half of a tile. -/
def State.zeroTile (s : State) (wg h tile : Nat) : State :=
  { s with tiles := s.tiles.clear (tileKey wg h tile) (tileKey wg h tile + 4096) }

/-- Sets every element of a half of a tile. -/
def State.fillTile (s : State) (wg h tile : Nat) (el : Nat → Word) : State :=
  { s with tiles := (List.range 4096).foldl (fun m e => m.set (tileKey wg h tile + e) (el e)) s.tiles }

/-! ### Performing one accepted instruction -/

/-- Flags of MXU work: from the next round in ORDERED mode, at completion in FREE mode (R374). -/
def State.lateFx (s : State) (i : Nat) (f : Fx) : State :=
  if (s.gridOf i).ordered then s.modGrp i (fun g => { g with fxLater := g.fxLater ||| f })
  else s.modGrp i (fun g => g.orFx f)

/-- MMA on one half (R367). -/
def State.mmaHalf (s : State) (o : MxuOp) (h : Nat) (bb : List Byte) : State :=
  let gr := s.gridOf o.group
  let va := gr.fmt o.sa
  let vb := gr.fmt o.sb
  let k := mmaK (slotType va) (slotType vb)
  let a := operandBlocks va k (k = 32 && o.ha.getLsbD 0) o.a
  let b := operandBlocks vb k (k = 32 && o.hb.getLsbD 0) bb
  let scale := ((tensorScale va).mul (tensorScale vb)).1
  let w := (s.grp o.group).wg
  let s1 := if o.zero then s.zeroTile w h o.tile else s
  let base := tileKey w h o.tile
  let r := (List.range 4096).foldl (fun (acc : Sparse 32 × Fx) e =>
    let x := s1.tiles.get (base + e)
    let ra := a.getD (e / 64) []
    let rb := b.getD (e % 64) []
    let y := if slotType va = 5 then mmaInt x ra rb else mmaFloat gr.fpcr scale x ra rb
    (acc.1.set (base + e) y.1, acc.2 ||| y.2)) (s1.tiles, operandFlags va k o.a ||| operandFlags vb k bb)
  { s1 with tiles := r.1 }.lateFx o.group r.2

/-- LDA: the bytes of both halves of a pair, or of the only half (R370). -/
def State.ldaOp (s : State) (o : MxuOp) : State :=
  let gr := s.gridOf o.group
  let trn := slotTrn (gr.fmt o.sa)
  (List.range (if gr.twoshot then 2 else 1)).foldl (fun s h =>
    s.fillTile (s.grp o.group).wg h o.tile (fun e =>
      BitVec.ofNat 32 (leAt o.a (16384 * h + 4 * (if trn then 64 * (e % 64) + e / 64 else e)) 4))) s

/-- The bytes that STA writes for a half (R370). -/
def State.staBytes (s : State) (o : MxuOp) (h : Nat) : List Byte :=
  let trn := slotTrn ((s.gridOf o.group).fmt o.sa)
  (List.range 4096).flatMap (fun q =>
    let e := if trn then 64 * (q % 64) + q / 64 else q
    leBytes 4 (s.tiles.get (tileKey (s.grp o.group).wg h o.tile + e)).toNat)

/-- The writes of STA and DRAIN: an ordered operation of the round of issue, or stores of the group, which
follow its earlier accesses to the same bytes (R154, R371). -/
def State.mxuWrite (s : State) (i key : Nat) (bytes : List Byte) : State :=
  if (s.gridOf i).ordered then s.modGrp i (fun g => { g with ops := g.ops ++ [.bytes key bytes] })
  else
    (s.drain i (fun f => f.meets true key bytes.length)).performStore i (s.viaOf i 0 false false) true (cellsOf key bytes)

/-- Performs an accepted MXU instruction. -/
def State.performMxu (s : State) (o : MxuOp) : State :=
  let gr := s.gridOf o.group
  let hs := List.range (if gr.twoshot then 2 else 1)
  let w := (s.grp o.group).wg
  let key := s.handleKey o.group o.ha
  match o.kind with
  | 0 => s.mmaHalf o 0 (o.b.getD 0 [])
  | 1 => (s.mmaHalf o 0 (o.b.getD 0 [])).mmaHalf o 1 (o.b.getD 1 [])
  | 2 => s.ldaOp o
  | 3 => s.mxuWrite o.group key (hs.flatMap (s.staBytes o))
  | 4 =>
    let rs := hs.map (fun h =>
      drainHalf gr.fpcr (gr.fmt o.sa) (gr.fmt o.sb) (fun m n => s.tiles.get (tileKey w h o.tile + 64 * m + n)))
    (s.mxuWrite o.group key (rs.flatMap (·.1))).lateFx o.group (rs.foldl (fun f r => f ||| r.2) 0)
  | _ => hs.foldl (fun s h => s.zeroTile w h o.tile) s

/-! ### The queue (R368) -/

/-- The home core of a group's workgroup: the leader of a pair. -/
def State.homeCore (s : State) (i : Nat) : Nat := (s.wgOf i).core

/-- Accepted instructions of an MXU. -/
def State.mxuDepth (s : State) (core : Nat) : Nat := (s.mxu.filter (fun o => o.core == core)).length

/-- Completes every accepted instruction of an MXU, in issue order (R368). -/
def State.drainMxu (s : State) (core : Nat) : State :=
  let os := s.mxu.filter (fun o => o.core == core)
  os.foldl (fun s o => s.performMxu o) { s with mxu := s.mxu.filter (fun o => o.core != core) }

/-- A FREE group's queued STA or DRAIN precedes its later accesses to scratchpad (R154, R371). -/
def State.settleMxu (s : State) (i : Nat) : State :=
  if s.mxu.any (fun o => o.group == i && (o.kind == 3 || o.kind == 4)) then s.drainMxu (s.homeCore i) else s

/-- `n` bytes at a handle, as a load of the group at this point of its program (R369). -/
def State.handleBytes (s : State) (i : Nat) (h : Word) (n : Nat) : List Byte :=
  if (s.gridOf i).ordered then
    (List.range n).map (fun k => s.ordByte i true (handleRank h) (handleOff h + k) (s.handleKey i h + k))
  else byteList s.scratch (s.handleKey i h) n

/-- A group's stores to a range of scratchpad, and its queued STA and DRAIN, are performed. -/
def State.settleRange (s : State) (i : Nat) (h : Word) (n : Nat) : State :=
  if (s.gridOf i).ordered then s
  else (s.settleMxu i).drain i (fun f => f.writes && f.meets true (s.handleKey i h) n)

end Sys2Proof.Machine
end

