-- ==== Sys2Proof/WellFormed.lean ====
section
/-!
DEFINITION. When an instruction's code fields hold a value of the opcode map (R271, R272 step 1), and when
an event names an object that the package can have.

The register rules (R196, R255, R256), which need the group's register count, and the rules on the XT
word in front (R268, R269) are checked when the instruction issues, and raise ILLEGAL there.
-/
namespace Sys2Proof

/-- A bit-field word describes bits that a register has (R292): `pos + len + 1 ≤ 32`. -/
def bitFieldOk (pos len : BitVec 5) : Bool := pos.toNat + len.toNat + 1 ≤ 32

/-- The number of PCIe functions (R435). -/
def functionCount : Nat := 32

/-- The number of hardware queues of the package (R5, R218). -/
def queueCount : Nat := 16384

/-- The number of telemetry coprocessors (R408). -/
def tcoCount : Nat := 9

/-- The number of cores of the package (R5). -/
def coreCount : Nat := 1152

/-- The code fields hold values of the opcode map (R270, R271); an event's numbers name units that exist. -/
def Instr.wf : Instr → Bool
  | .icmp _ _ _ _ c t => c.toNat ≤ 9 && t.toNat ≤ 1
  | .icmpi _ c _ _ => c.toNat ≤ 9
  | .fcmp _ _ _ _ c t => c.toNat ≤ 7 && t.toNat ≤ 2
  | .bfe _ _ p l => bitFieldOk p l
  | .bfez _ _ p l => bitFieldOk p l
  | .bfi _ _ p l => bitFieldOk p l
  | .bmsk _ p l => bitFieldOk p l
  | .mxuComplete core => core < coreCount
  | .migrArrival _ core => core < coreCount
  | .wayMove slice src dst => slice < 128 && src ≤ functionCount && dst ≤ functionCount
  | .tinvPage f _ => f < functionCount
  | .tinvAsid f _ => f < functionCount
  | .tinvFunction f => f < functionCount
  | .tinvComplete f => f < functionCount
  | .freplyRetry f _ => f < functionCount
  | .freplyFail f _ => f < functionCount
  | .qctlEnable q _ => q < queueCount
  | .qctlDisable q _ => q < queueCount
  | .qtailDoorbell q _ => q < queueCount
  | .packetFetch q => q < queueCount
  | .pctlSave q => q < queueCount
  | .saveDone q => q < queueCount
  | .pctlRestore q => q < queueCount
  | .pctlDiscard q => q < queueCount
  | .pcrEnable f _ => f < functionCount
  | .pcrDisable f _ => f < functionCount
  | .pcrFlr f _ => f < functionCount
  | .pcieFlr f => f < functionCount
  | .flrDone f => f < functionCount
  | .tbudWrite f _ => f < functionCount
  | .mergeSum f _ => f < functionCount
  | .mergeMax f _ => f < functionCount
  | .mergeComplete f => f < functionCount
  | .registerWrite _ size _ => size == 4 || size == 8
  | .tcoRecordIntake t => t < tcoCount
  | .tcoRun t f => t < tcoCount && f < functionCount
  | .budgetWindow t => t < tcoCount
  | .reductionResult w _ => w < 32
  | .tdispRequest f _ => f < functionCount
  | _ => true

end Sys2Proof
end

