-- ==== Sys2Proof/Decode.lean ====
section
/-!
DEFINITION. Decoding: from bytes to an instruction word, total, every rejection named; and the encoder.

Formats R259, opcode map R270, unused fields R261. The checks are those of R272 steps 1 and 2; the later
steps need the group and are made at issue.
-/
namespace Sys2Proof

/-- Why a word is not an instruction. Each is an ILLEGAL of R272. -/
inductive DecodeError where
  /-- A major that the map does not use (R270). -/
  | illegalMajor
  /-- A function, operation or sub code that the map does not list (R270). -/
  | illegalCode
  /-- A field that must be zero is not (R261). -/
  | nonzeroField
  /-- A cc, type or bit-field value outside its range (R271, R292). -/
  | codeRange
  /-- Fewer than four bytes. -/
  | short
  deriving DecidableEq, Repr

/-- Bits `lo + n - 1` down to `lo` of a word (R10). -/
def bits (w : Word) (lo n : Nat) : BitVec n := w.extractLsb' lo n

/-- The same bits as a number. -/
def fieldNat (w : Word) (lo n : Nat) : Nat := (w.extractLsb' lo n).toNat

/-- The field holds zero (R261). -/
abbrev zeroAt (w : Word) (lo n : Nat) : Prop := w.extractLsb' lo n = 0#n

/-- Major 0x01 (R270). -/
def decodeIalu (w : Word) : Except DecodeError Instr :=
  match fieldNat w 0 5 with
  | 0x00 => .ok (.add (bits w 19 7) (bits w 12 7) (bits w 5 7))
  | 0x01 => .ok (.sub (bits w 19 7) (bits w 12 7) (bits w 5 7))
  | 0x02 => .ok (.and (bits w 19 7) (bits w 12 7) (bits w 5 7))
  | 0x03 => .ok (.or (bits w 19 7) (bits w 12 7) (bits w 5 7))
  | 0x04 => .ok (.xor (bits w 19 7) (bits w 12 7) (bits w 5 7))
  | 0x05 => .ok (.andn (bits w 19 7) (bits w 12 7) (bits w 5 7))
  | 0x06 => .ok (.shl (bits w 19 7) (bits w 12 7) (bits w 5 7))
  | 0x07 => .ok (.shr (bits w 19 7) (bits w 12 7) (bits w 5 7))
  | 0x08 => .ok (.sar (bits w 19 7) (bits w 12 7) (bits w 5 7))
  | 0x09 => .ok (.rotl (bits w 19 7) (bits w 12 7) (bits w 5 7))
  | 0x0A => .ok (.min (bits w 19 7) (bits w 12 7) (bits w 5 7))
  | 0x0B => .ok (.max (bits w 19 7) (bits w 12 7) (bits w 5 7))
  | 0x0C => .ok (.minz (bits w 19 7) (bits w 12 7) (bits w 5 7))
  | 0x0D => .ok (.maxz (bits w 19 7) (bits w 12 7) (bits w 5 7))
  | 0x0E => .ok (.mul (bits w 19 7) (bits w 12 7) (bits w 5 7))
  | 0x0F => .ok (.mulh (bits w 19 7) (bits w 12 7) (bits w 5 7))
  | 0x10 => .ok (.mulhz (bits w 19 7) (bits w 12 7) (bits w 5 7))
  | 0x11 => .ok (.absd (bits w 19 7) (bits w 12 7) (bits w 5 7))
  | 0x12 => .ok (.add64 (bits w 19 7) (bits w 12 7) (bits w 5 7))
  | 0x13 => .ok (.sub64 (bits w 19 7) (bits w 12 7) (bits w 5 7))
  | 0x14 => if zeroAt w 5 7 then .ok (.popc (bits w 19 7) (bits w 12 7)) else .error .nonzeroField
  | 0x15 => if zeroAt w 5 7 then .ok (.clz (bits w 19 7) (bits w 12 7)) else .error .nonzeroField
  | 0x16 => if zeroAt w 5 7 then .ok (.brev (bits w 19 7) (bits w 12 7)) else .error .nonzeroField
  | 0x17 => .ok (.sadd (bits w 19 7) (bits w 12 7) (bits w 5 7))
  | 0x18 => .ok (.ssub (bits w 19 7) (bits w 12 7) (bits w 5 7))
  | _ => .error .illegalCode

/-- Major 0x06 (R270). -/
def decodeShfi (w : Word) : Except DecodeError Instr :=
  match fieldNat w 10 2 with
  | 0x00 => if zeroAt w 5 5 then .ok (.shfiShl (bits w 19 7) (bits w 12 7) (bits w 0 5)) else .error .nonzeroField
  | 0x01 => if zeroAt w 5 5 then .ok (.shfiShr (bits w 19 7) (bits w 12 7) (bits w 0 5)) else .error .nonzeroField
  | 0x02 => if zeroAt w 5 5 then .ok (.shfiSar (bits w 19 7) (bits w 12 7) (bits w 0 5)) else .error .nonzeroField
  | 0x03 => if zeroAt w 5 5 then .ok (.shfiRotl (bits w 19 7) (bits w 12 7) (bits w 0 5)) else .error .nonzeroField
  | _ => .error .illegalCode

/-- Major 0x0C (R270). -/
def decodeImad (w : Word) : Except DecodeError Instr :=
  match fieldNat w 0 5 with
  | 0x00 => .ok (.imad (bits w 19 7) (bits w 12 7) (bits w 5 7))
  | 0x01 => .ok (.imadw (bits w 19 7) (bits w 12 7) (bits w 5 7))
  | 0x02 => .ok (.imadwz (bits w 19 7) (bits w 12 7) (bits w 5 7))
  | _ => .error .illegalCode

/-- Major 0x0D (R270). -/
def decodeBitf (w : Word) : Except DecodeError Instr :=
  match fieldNat w 0 2 with
  | 0x00 => .ok (.bfe (bits w 19 7) (bits w 12 7) (bits w 7 5) (bits w 2 5))
  | 0x01 => .ok (.bfez (bits w 19 7) (bits w 12 7) (bits w 7 5) (bits w 2 5))
  | 0x02 => .ok (.bfi (bits w 19 7) (bits w 12 7) (bits w 7 5) (bits w 2 5))
  | 0x03 => if zeroAt w 12 7 then .ok (.bmsk (bits w 19 7) (bits w 7 5) (bits w 2 5)) else .error .nonzeroField
  | _ => .error .illegalCode

/-- Major 0x0E (R270). -/
def decodeAddr (w : Word) : Except DecodeError Instr :=
  match fieldNat w 0 5 with
  | 0x00 => .ok (.padd (bits w 19 7) (bits w 12 7) (bits w 5 7))
  | 0x01 => .ok (.ptag (bits w 19 7) (bits w 12 7) (bits w 5 7))
  | 0x02 => .ok (.prank (bits w 19 7) (bits w 12 7) (bits w 5 7))
  | 0x03 => if zeroAt w 5 7 then .ok (.pinfo (bits w 19 7) (bits w 12 7)) else .error .nonzeroField
  | 0x04 => if zeroAt w 5 7 then .ok (.phnd (bits w 19 7) (bits w 12 7)) else .error .nonzeroField
  | _ => .error .illegalCode

/-- Major 0x0F (R270). -/
def decodeFalu (w : Word) : Except DecodeError Instr :=
  match fieldNat w 0 5 with
  | 0x00 => .ok (.fadd (bits w 19 7) (bits w 12 7) (bits w 5 7))
  | 0x01 => .ok (.fsub (bits w 19 7) (bits w 12 7) (bits w 5 7))
  | 0x02 => .ok (.fmul (bits w 19 7) (bits w 12 7) (bits w 5 7))
  | 0x03 => .ok (.fmin (bits w 19 7) (bits w 12 7) (bits w 5 7))
  | 0x04 => .ok (.fmax (bits w 19 7) (bits w 12 7) (bits w 5 7))
  | 0x05 => if zeroAt w 5 7 then .ok (.fabs (bits w 19 7) (bits w 12 7)) else .error .nonzeroField
  | 0x06 => if zeroAt w 5 7 then .ok (.fneg (bits w 19 7) (bits w 12 7)) else .error .nonzeroField
  | 0x07 => .ok (.fcpys (bits w 19 7) (bits w 12 7) (bits w 5 7))
  | 0x08 => if zeroAt w 5 7 then .ok (.frndN (bits w 19 7) (bits w 12 7)) else .error .nonzeroField
  | 0x09 => if zeroAt w 5 7 then .ok (.frndZ (bits w 19 7) (bits w 12 7)) else .error .nonzeroField
  | 0x0A => if zeroAt w 5 7 then .ok (.frndP (bits w 19 7) (bits w 12 7)) else .error .nonzeroField
  | 0x0B => if zeroAt w 5 7 then .ok (.frndM (bits w 19 7) (bits w 12 7)) else .error .nonzeroField
  | _ => .error .illegalCode

/-- Major 0x10 (R270). -/
def decodeHalu (w : Word) : Except DecodeError Instr :=
  match fieldNat w 0 5 with
  | 0x00 => .ok (.hadd2F16 (bits w 19 7) (bits w 12 7) (bits w 5 7))
  | 0x01 => .ok (.hsub2F16 (bits w 19 7) (bits w 12 7) (bits w 5 7))
  | 0x02 => .ok (.hmul2F16 (bits w 19 7) (bits w 12 7) (bits w 5 7))
  | 0x03 => .ok (.hmin2F16 (bits w 19 7) (bits w 12 7) (bits w 5 7))
  | 0x04 => .ok (.hmax2F16 (bits w 19 7) (bits w 12 7) (bits w 5 7))
  | 0x10 => .ok (.hadd2Bf16 (bits w 19 7) (bits w 12 7) (bits w 5 7))
  | 0x11 => .ok (.hsub2Bf16 (bits w 19 7) (bits w 12 7) (bits w 5 7))
  | 0x12 => .ok (.hmul2Bf16 (bits w 19 7) (bits w 12 7) (bits w 5 7))
  | 0x13 => .ok (.hmin2Bf16 (bits w 19 7) (bits w 12 7) (bits w 5 7))
  | 0x14 => .ok (.hmax2Bf16 (bits w 19 7) (bits w 12 7) (bits w 5 7))
  | _ => .error .illegalCode

/-- Major 0x11 (R270). -/
def decodeFfma (w : Word) : Except DecodeError Instr :=
  match fieldNat w 0 5 with
  | 0x00 => .ok (.ffma (bits w 19 7) (bits w 12 7) (bits w 5 7))
  | 0x01 => .ok (.ffms (bits w 19 7) (bits w 12 7) (bits w 5 7))
  | 0x02 => .ok (.fnma (bits w 19 7) (bits w 12 7) (bits w 5 7))
  | 0x03 => .ok (.hfma2F16 (bits w 19 7) (bits w 12 7) (bits w 5 7))
  | 0x04 => .ok (.hfma2Bf16 (bits w 19 7) (bits w 12 7) (bits w 5 7))
  | _ => .error .illegalCode

/-- Major 0x13 (R270). -/
def decodeSfu (w : Word) : Except DecodeError Instr :=
  match fieldNat w 0 5 with
  | 0x00 => if zeroAt w 5 7 then .ok (.rcp (bits w 19 7) (bits w 12 7)) else .error .nonzeroField
  | 0x01 => if zeroAt w 5 7 then .ok (.rsq (bits w 19 7) (bits w 12 7)) else .error .nonzeroField
  | 0x02 => if zeroAt w 5 7 then .ok (.sqrt (bits w 19 7) (bits w 12 7)) else .error .nonzeroField
  | 0x03 => if zeroAt w 5 7 then .ok (.exp2 (bits w 19 7) (bits w 12 7)) else .error .nonzeroField
  | 0x04 => if zeroAt w 5 7 then .ok (.log2 (bits w 19 7) (bits w 12 7)) else .error .nonzeroField
  | 0x05 => if zeroAt w 5 7 then .ok (.sinpi (bits w 19 7) (bits w 12 7)) else .error .nonzeroField
  | 0x06 => if zeroAt w 5 7 then .ok (.cospi (bits w 19 7) (bits w 12 7)) else .error .nonzeroField
  | 0x07 => if zeroAt w 5 7 then .ok (.tanh (bits w 19 7) (bits w 12 7)) else .error .nonzeroField
  | _ => .error .illegalCode

/-- Major 0x14 (R270). -/
def decodeCvt (w : Word) : Except DecodeError Instr :=
  match fieldNat w 0 5 with
  | 0x00 => if zeroAt w 5 7 then .ok (.cvtF32F16 (bits w 19 7) (bits w 12 7)) else .error .nonzeroField
  | 0x01 => if zeroAt w 5 7 then .ok (.cvtF16F32 (bits w 19 7) (bits w 12 7)) else .error .nonzeroField
  | 0x02 => if zeroAt w 5 7 then .ok (.cvtF32Bf16 (bits w 19 7) (bits w 12 7)) else .error .nonzeroField
  | 0x03 => if zeroAt w 5 7 then .ok (.cvtBf16F32 (bits w 19 7) (bits w 12 7)) else .error .nonzeroField
  | 0x04 => if zeroAt w 5 7 then .ok (.cvtS32F32 (bits w 19 7) (bits w 12 7)) else .error .nonzeroField
  | 0x05 => if zeroAt w 5 7 then .ok (.cvtZ32F32 (bits w 19 7) (bits w 12 7)) else .error .nonzeroField
  | 0x06 => if zeroAt w 5 7 then .ok (.cvtF32S32 (bits w 19 7) (bits w 12 7)) else .error .nonzeroField
  | 0x07 => if zeroAt w 5 7 then .ok (.cvtF32Z32 (bits w 19 7) (bits w 12 7)) else .error .nonzeroField
  | 0x08 => .ok (.pack2 (bits w 19 7) (bits w 12 7) (bits w 5 7))
  | _ => .error .illegalCode

/-- Major 0x15 (R270). -/
def decodeXch (w : Word) : Except DecodeError Instr :=
  match fieldNat w 0 7 with
  | 0x00 => .ok (.shfl (bits w 19 7) (bits w 12 7) (bits w 7 5))
  | 0x08 => .ok (.shflup (bits w 19 7) (bits w 12 7) (bits w 7 5))
  | 0x10 => .ok (.shfldn (bits w 19 7) (bits w 12 7) (bits w 7 5))
  | 0x18 => .ok (.shflx (bits w 19 7) (bits w 12 7) (bits w 7 5))
  | 0x20 => .ok (.bcst (bits w 19 7) (bits w 12 7) (bits w 7 5))
  | 0x28 => .ok (.prev (bits w 19 7) (bits w 12 7) (bits w 7 5))
  | 0x30 => .ok (.scanAdd (bits w 19 7) (bits w 12 7) (bits w 7 5))
  | 0x31 => .ok (.scanMin (bits w 19 7) (bits w 12 7) (bits w 7 5))
  | 0x32 => .ok (.scanMax (bits w 19 7) (bits w 12 7) (bits w 7 5))
  | 0x33 => .ok (.scanMinz (bits w 19 7) (bits w 12 7) (bits w 7 5))
  | 0x34 => .ok (.scanMaxz (bits w 19 7) (bits w 12 7) (bits w 7 5))
  | 0x35 => .ok (.scanAnd (bits w 19 7) (bits w 12 7) (bits w 7 5))
  | 0x36 => .ok (.scanOr (bits w 19 7) (bits w 12 7) (bits w 7 5))
  | 0x37 => .ok (.scanFadd (bits w 19 7) (bits w 12 7) (bits w 7 5))
  | 0x38 => .ok (.redAdd (bits w 19 7) (bits w 12 7) (bits w 7 5))
  | 0x39 => .ok (.redMin (bits w 19 7) (bits w 12 7) (bits w 7 5))
  | 0x3A => .ok (.redMax (bits w 19 7) (bits w 12 7) (bits w 7 5))
  | 0x3B => .ok (.redMinz (bits w 19 7) (bits w 12 7) (bits w 7 5))
  | 0x3C => .ok (.redMaxz (bits w 19 7) (bits w 12 7) (bits w 7 5))
  | 0x3D => .ok (.redAnd (bits w 19 7) (bits w 12 7) (bits w 7 5))
  | 0x3E => .ok (.redOr (bits w 19 7) (bits w 12 7) (bits w 7 5))
  | 0x3F => .ok (.redFadd (bits w 19 7) (bits w 12 7) (bits w 7 5))
  | 0x40 => .ok (.voteAny (bits w 19 7) (bits w 12 7) (bits w 7 5))
  | 0x41 => .ok (.voteAll (bits w 19 7) (bits w 12 7) (bits w 7 5))
  | 0x42 => .ok (.voteUni (bits w 19 7) (bits w 12 7) (bits w 7 5))
  | 0x48 => .ok (.ballot (bits w 19 7) (bits w 12 7) (bits w 7 5))
  | 0x50 => .ok (.matchEq (bits w 19 7) (bits w 12 7) (bits w 7 5))
  | _ => .error .illegalCode

/-- Major 0x16 (R270). -/
def decodeUalu (w : Word) : Except DecodeError Instr :=
  match fieldNat w 0 11 with
  | 0x00 => .ok (.uadd (bits w 21 5) (bits w 16 5) (bits w 11 5))
  | 0x01 => .ok (.usub (bits w 21 5) (bits w 16 5) (bits w 11 5))
  | 0x02 => .ok (.uand (bits w 21 5) (bits w 16 5) (bits w 11 5))
  | 0x03 => .ok (.uor (bits w 21 5) (bits w 16 5) (bits w 11 5))
  | 0x04 => .ok (.uxor (bits w 21 5) (bits w 16 5) (bits w 11 5))
  | 0x05 => .ok (.ushl (bits w 21 5) (bits w 16 5) (bits w 11 5))
  | 0x06 => .ok (.ushr (bits w 21 5) (bits w 16 5) (bits w 11 5))
  | 0x07 => .ok (.usar (bits w 21 5) (bits w 16 5) (bits w 11 5))
  | 0x08 => .ok (.umul (bits w 21 5) (bits w 16 5) (bits w 11 5))
  | 0x09 => .ok (.umin (bits w 21 5) (bits w 16 5) (bits w 11 5))
  | 0x0A => .ok (.umax (bits w 21 5) (bits w 16 5) (bits w 11 5))
  | 0x0B => .ok (.uminz (bits w 21 5) (bits w 16 5) (bits w 11 5))
  | 0x0C => .ok (.umaxz (bits w 21 5) (bits w 16 5) (bits w 11 5))
  | _ => .error .illegalCode

/-- Major 0x1A (R270). -/
def decodeUxmv (w : Word) : Except DecodeError Instr :=
  match fieldNat w 0 9 with
  | 0x00 => if zeroAt w 9 5 then .ok (.rdg (bits w 19 7) (bits w 14 5)) else .error .nonzeroField
  | 0x01 => if zeroAt w 9 5 then .ok (.wrgf (bits w 19 7) (bits w 14 5)) else .error .nonzeroField
  | 0x02 => .ok (.wrgt (bits w 19 7) (bits w 14 5) (bits w 9 5))
  | _ => .error .illegalCode

/-- Major 0x29 (R270). -/
def decodeAtom (w : Word) : Except DecodeError Instr :=
  match fieldNat w 5 3 with
  | 0x00 => .ok (.atomAdd (bits w 19 7) (bits w 12 7) (bits w 8 4) (bits w 3 2) (bits w 1 2) (bits w 0 1))
  | 0x01 => .ok (.atomMin (bits w 19 7) (bits w 12 7) (bits w 8 4) (bits w 3 2) (bits w 1 2) (bits w 0 1))
  | 0x02 => .ok (.atomMax (bits w 19 7) (bits w 12 7) (bits w 8 4) (bits w 3 2) (bits w 1 2) (bits w 0 1))
  | 0x03 => .ok (.atomMinz (bits w 19 7) (bits w 12 7) (bits w 8 4) (bits w 3 2) (bits w 1 2) (bits w 0 1))
  | 0x04 => .ok (.atomMaxz (bits w 19 7) (bits w 12 7) (bits w 8 4) (bits w 3 2) (bits w 1 2) (bits w 0 1))
  | 0x05 => .ok (.atomAnd (bits w 19 7) (bits w 12 7) (bits w 8 4) (bits w 3 2) (bits w 1 2) (bits w 0 1))
  | 0x06 => .ok (.atomOr (bits w 19 7) (bits w 12 7) (bits w 8 4) (bits w 3 2) (bits w 1 2) (bits w 0 1))
  | 0x07 => .ok (.atomXor (bits w 19 7) (bits w 12 7) (bits w 8 4) (bits w 3 2) (bits w 1 2) (bits w 0 1))
  | _ => .error .illegalCode

/-- Major 0x2A (R270). -/
def decodeAtomx (w : Word) : Except DecodeError Instr :=
  match fieldNat w 5 3 with
  | 0x00 => .ok (.atomxExch (bits w 19 7) (bits w 12 7) (bits w 8 4) (bits w 3 2) (bits w 1 2) (bits w 0 1))
  | 0x01 => .ok (.atomxCas (bits w 19 7) (bits w 12 7) (bits w 8 4) (bits w 3 2) (bits w 1 2) (bits w 0 1))
  | 0x02 => if zeroAt w 0 1 then .ok (.atomxFadd (bits w 19 7) (bits w 12 7) (bits w 8 4) (bits w 3 2) (bits w 1 2)) else .error .nonzeroField
  | _ => .error .illegalCode

/-- Major 0x2B (R270). -/
def decodeMsyn (w : Word) : Except DecodeError Instr :=
  match fieldNat w 0 6 with
  | 0x00 => if zeroAt w 6 10 then .ok (.fence (bits w 18 8) (bits w 16 2)) else .error .nonzeroField
  | 0x01 => if zeroAt w 6 17 then .ok (.setclr (bits w 23 3)) else .error .nonzeroField
  | 0x02 =>
    if fieldNat w 18 1 = 0 then
      if zeroAt w 6 12 then .ok (.mon (bits w 19 7)) else .error .nonzeroField
    else if zeroAt w 6 12 ∧ zeroAt w 19 7 then .ok .monClr else .error .nonzeroField
  | 0x03 => if zeroAt w 6 10 then .ok (.mwait (bits w 21 5) (bits w 16 5)) else .error .nonzeroField
  | 0x04 => if zeroAt w 6 4 then .ok (.cede (bits w 10 16)) else .error .nonzeroField
  | 0x05 => if zeroAt w 6 18 then .ok (.invl1 (bits w 24 2)) else .error .nonzeroField
  | 0x06 => if zeroAt w 6 12 then .ok (.pref (bits w 19 7) (bits w 18 1)) else .error .nonzeroField
  | 0x07 => if zeroAt w 6 16 then .ok (.qfence (bits w 22 4)) else .error .nonzeroField
  | 0x08 => if zeroAt w 6 15 then .ok (.clkrd (bits w 21 5)) else .error .nonzeroField
  | _ => .error .illegalCode

/-- Major 0x2C (R270). -/
def decodeBar (w : Word) : Except DecodeError Instr :=
  match fieldNat w 0 7 with
  | 0x00 => if zeroAt w 7 9 then .ok (.binit (bits w 21 5) (bits w 16 5)) else .error .nonzeroField
  | 0x01 => if zeroAt w 7 9 then .ok (.bexp (bits w 21 5) (bits w 16 5)) else .error .nonzeroField
  | 0x02 => if zeroAt w 7 9 then .ok (.barv (bits w 21 5) (bits w 16 5)) else .error .nonzeroField
  | 0x03 => .ok (.bwait (bits w 21 5) (bits w 16 5) (bits w 11 5) (bits w 7 4))
  | 0x04 => .ok (.btest (bits w 21 5) (bits w 16 5) (bits w 11 5) (bits w 7 4))
  | _ => .error .illegalCode

/-- Major 0x2D (R270). -/
def decodeRing (w : Word) : Except DecodeError Instr :=
  match fieldNat w 0 7 with
  | 0x00 => if zeroAt w 7 4 then .ok (.rinit (bits w 21 5) (bits w 16 5) (bits w 11 5)) else .error .nonzeroField
  | 0x01 => .ok (.awaitf (bits w 21 5) (bits w 16 5) (bits w 11 5) (bits w 7 4))
  | 0x02 => if zeroAt w 7 14 then .ok (.rels (bits w 21 5)) else .error .nonzeroField
  | 0x03 => if zeroAt w 16 5 then .ok (.rstat (bits w 21 5) (bits w 11 5) (bits w 7 4)) else .error .nonzeroField
  | 0x04 => .ok (.awaitfEmpty (bits w 21 5) (bits w 16 5) (bits w 11 5) (bits w 7 4))
  | _ => .error .illegalCode

/-- Major 0x2E (R270). -/
def decodeCopy (w : Word) : Except DecodeError Instr :=
  match fieldNat w 0 7 with
  | 0x00 => if zeroAt w 7 4 then .ok (.cpy (bits w 21 5) (bits w 16 5) (bits w 11 5)) else .error .nonzeroField
  | 0x01 => if zeroAt w 7 4 then .ok (.cpyt (bits w 21 5) (bits w 16 5) (bits w 11 5)) else .error .nonzeroField
  | 0x02 => if zeroAt w 7 4 then .ok (.cpys (bits w 21 5) (bits w 16 5) (bits w 11 5)) else .error .nonzeroField
  | 0x03 => if zeroAt w 7 4 then .ok (.cpym (bits w 21 5) (bits w 16 5) (bits w 11 5)) else .error .nonzeroField
  | 0x04 => if zeroAt w 7 4 then .ok (.cpyr (bits w 21 5) (bits w 16 5) (bits w 11 5)) else .error .nonzeroField
  | _ => .error .illegalCode

/-- Major 0x31 (R270). -/
def decodeCtrl (w : Word) : Except DecodeError Instr :=
  match fieldNat w 0 6 with
  | 0x00 => if zeroAt w 6 13 then .ok (.calli (bits w 19 7)) else .error .nonzeroField
  | 0x01 => if zeroAt w 6 13 then .ok (.bri (bits w 19 7)) else .error .nonzeroField
  | 0x02 => if zeroAt w 6 20 then .ok .ret else .error .nonzeroField
  | 0x03 => if zeroAt w 6 16 then .ok (.join (bits w 22 4)) else .error .nonzeroField
  | 0x04 => if zeroAt w 6 16 then .ok (.jmrk (bits w 22 4)) else .error .nonzeroField
  | 0x05 => if zeroAt w 6 16 then .ok (.jclr (bits w 22 4)) else .error .nonzeroField
  | 0x06 => if zeroAt w 6 9 then .ok (.jsav (bits w 22 4) (bits w 15 7)) else .error .nonzeroField
  | 0x07 => if zeroAt w 6 9 then .ok (.jrst (bits w 22 4) (bits w 15 7)) else .error .nonzeroField
  | 0x08 => if zeroAt w 6 20 then .ok .exit else .error .nonzeroField
  | 0x09 => if zeroAt w 6 20 then .ok .yield else .error .nonzeroField
  | 0x0A => if zeroAt w 6 20 then .ok .nop else .error .nonzeroField
  | _ => .error .illegalCode

/-- Major 0x32 (R270). -/
def decodeMma (w : Word) : Except DecodeError Instr :=
  match fieldNat w 1 1 with
  | 0x00 => if zeroAt w 2 5 then .ok (.mma (bits w 23 3) (bits w 20 3) (bits w 17 3) (bits w 12 5) (bits w 7 5) (bits w 0 1)) else .error .nonzeroField
  | 0x01 => if zeroAt w 2 5 then .ok (.mma2 (bits w 23 3) (bits w 20 3) (bits w 17 3) (bits w 12 5) (bits w 7 5) (bits w 0 1)) else .error .nonzeroField
  | _ => .error .illegalCode

/-- Major 0x33 (R270). -/
def decodeMxo (w : Word) : Except DecodeError Instr :=
  match fieldNat w 0 7 with
  | 0x00 => if zeroAt w 7 16 then .ok (.acqa (bits w 23 3)) else .error .nonzeroField
  | 0x01 => if zeroAt w 7 16 then .ok (.rela (bits w 23 3)) else .error .nonzeroField
  | 0x02 => if zeroAt w 7 5 ∧ zeroAt w 17 3 then .ok (.lda (bits w 23 3) (bits w 20 3) (bits w 12 5)) else .error .nonzeroField
  | 0x03 => if zeroAt w 7 5 ∧ zeroAt w 17 3 then .ok (.sta (bits w 23 3) (bits w 20 3) (bits w 12 5)) else .error .nonzeroField
  | 0x04 => if zeroAt w 7 5 then .ok (.drain (bits w 23 3) (bits w 20 3) (bits w 17 3) (bits w 12 5)) else .error .nonzeroField
  | 0x05 => if zeroAt w 7 16 then .ok (.zacc (bits w 23 3)) else .error .nonzeroField
  | 0x06 => if zeroAt w 7 5 then .ok (.accrd (bits w 23 3) (bits w 17 6) (bits w 12 5)) else .error .nonzeroField
  | 0x07 => if zeroAt w 7 5 then .ok (.accwr (bits w 23 3) (bits w 17 6) (bits w 12 5)) else .error .nonzeroField
  | _ => .error .illegalCode

/-- Major 0x34 (R270). -/
def decodeSys (w : Word) : Except DecodeError Instr :=
  match fieldNat w 20 6 with
  | 0x00 => if zeroAt w 0 3 then .ok (.srd (bits w 13 7) (bits w 3 10)) else .error .nonzeroField
  | 0x01 => if zeroAt w 0 3 then .ok (.swr (bits w 13 7) (bits w 3 10)) else .error .nonzeroField
  | 0x02 => if zeroAt w 0 3 ∧ zeroAt w 13 7 then .ok (.trap (bits w 3 10)) else .error .nonzeroField
  | 0x03 => if zeroAt w 0 3 ∧ zeroAt w 13 7 then .ok (.bkpt (bits w 3 10)) else .error .nonzeroField
  | 0x04 => if zeroAt w 0 3 then .ok (.emit (bits w 13 7) (bits w 3 10)) else .error .nonzeroField
  | 0x05 => if zeroAt w 0 13 then .ok (.migr (bits w 13 7)) else .error .nonzeroField
  | 0x06 => if zeroAt w 0 3 ∧ zeroAt w 8 5 then .ok (.launch (bits w 13 7) (bits w 3 5)) else .error .nonzeroField
  | 0x07 => if zeroAt w 0 3 ∧ zeroAt w 8 4 ∧ zeroAt w 13 7 then .ok (.haltctx (bits w 12 1) (bits w 3 5)) else .error .nonzeroField
  | 0x08 => if zeroAt w 0 20 then .ok .rft else .error .nonzeroField
  | 0x09 => if zeroAt w 0 13 then .ok (.cycrd (bits w 13 7)) else .error .nonzeroField
  | _ => .error .illegalCode

/-- Major 0x3F (R270). -/
def decodeXt (w : Word) : Except DecodeError Instr :=
  match fieldNat w 24 2 with
  | 0x00 => .ok (.xtImm (bits w 0 24))
  | 0x01 => if zeroAt w 11 13 then .ok (.xtOpd (bits w 7 4) (bits w 0 7)) else .error .nonzeroField
  | 0x02 => if zeroAt w 8 16 then .ok (.xtMem (bits w 7 1) (bits w 4 3) (bits w 2 2) (bits w 0 2)) else .error .nonzeroField
  | _ => .error .illegalCode

/-- The instruction that a word of the opcode map is, before the checks on the values of its code fields (R270). -/
def decodeMajor (w : Word) : Except DecodeError Instr :=
  match fieldNat w 26 6 with
  | 0x00 => if w = 0 then .ok .ill else .error .illegalMajor
  | 0x01 => decodeIalu w
  | 0x02 => .ok (.addi (bits w 19 7) (bits w 12 7) (bits w 0 12))
  | 0x03 => .ok (.andi (bits w 19 7) (bits w 12 7) (bits w 0 12))
  | 0x04 => .ok (.ori (bits w 19 7) (bits w 12 7) (bits w 0 12))
  | 0x05 => .ok (.xori (bits w 19 7) (bits w 12 7) (bits w 0 12))
  | 0x06 => decodeShfi w
  | 0x07 => .ok (.movi (bits w 19 7) (bits w 0 19))
  | 0x08 => .ok (.movh (bits w 19 7) (bits w 0 19))
  | 0x09 => .ok (.icmp (bits w 23 3) (bits w 21 2) (bits w 14 7) (bits w 7 7) (bits w 3 4) (bits w 0 3))
  | 0x0A => .ok (.icmpi (bits w 23 3) (bits w 19 4) (bits w 12 7) (bits w 0 12))
  | 0x0B => if zeroAt w 0 1 then .ok (.sel (bits w 19 7) (bits w 12 7) (bits w 5 7) (bits w 1 4)) else .error .nonzeroField
  | 0x0C => decodeImad w
  | 0x0D => decodeBitf w
  | 0x0E => decodeAddr w
  | 0x0F => decodeFalu w
  | 0x10 => decodeHalu w
  | 0x11 => decodeFfma w
  | 0x12 => .ok (.fcmp (bits w 23 3) (bits w 21 2) (bits w 14 7) (bits w 7 7) (bits w 3 4) (bits w 0 3))
  | 0x13 => decodeSfu w
  | 0x14 => decodeCvt w
  | 0x15 => decodeXch w
  | 0x16 => decodeUalu w
  | 0x17 => .ok (.uaddi (bits w 21 5) (bits w 16 5) (bits w 0 16))
  | 0x18 => if zeroAt w 16 5 then .ok (.umovi (bits w 21 5) (bits w 0 16)) else .error .nonzeroField
  | 0x19 => if zeroAt w 16 5 then .ok (.umovh (bits w 21 5) (bits w 0 16)) else .error .nonzeroField
  | 0x1A => decodeUxmv w
  | 0x1B => .ok (.ldb (bits w 19 7) (bits w 12 7) (bits w 8 4) (bits w 0 8))
  | 0x1C => .ok (.ldbs (bits w 19 7) (bits w 12 7) (bits w 8 4) (bits w 0 8))
  | 0x1D => .ok (.ldh (bits w 19 7) (bits w 12 7) (bits w 8 4) (bits w 0 8))
  | 0x1E => .ok (.ldhs (bits w 19 7) (bits w 12 7) (bits w 8 4) (bits w 0 8))
  | 0x1F => .ok (.ldw (bits w 19 7) (bits w 12 7) (bits w 8 4) (bits w 0 8))
  | 0x20 => .ok (.ldd (bits w 19 7) (bits w 12 7) (bits w 8 4) (bits w 0 8))
  | 0x21 => .ok (.ldq (bits w 19 7) (bits w 12 7) (bits w 8 4) (bits w 0 8))
  | 0x22 => .ok (.stb (bits w 19 7) (bits w 12 7) (bits w 8 4) (bits w 0 8))
  | 0x23 => .ok (.sth (bits w 19 7) (bits w 12 7) (bits w 8 4) (bits w 0 8))
  | 0x24 => .ok (.stw (bits w 19 7) (bits w 12 7) (bits w 8 4) (bits w 0 8))
  | 0x25 => .ok (.std (bits w 19 7) (bits w 12 7) (bits w 8 4) (bits w 0 8))
  | 0x26 => .ok (.stq (bits w 19 7) (bits w 12 7) (bits w 8 4) (bits w 0 8))
  | 0x27 => .ok (.uldw (bits w 21 5) (bits w 16 5) (bits w 12 4) (bits w 0 12))
  | 0x28 => .ok (.uldd (bits w 21 5) (bits w 16 5) (bits w 12 4) (bits w 0 12))
  | 0x29 => decodeAtom w
  | 0x2A => decodeAtomx w
  | 0x2B => decodeMsyn w
  | 0x2C => decodeBar w
  | 0x2D => decodeRing w
  | 0x2E => decodeCopy w
  | 0x2F => .ok (.bra (bits w 22 4) (bits w 18 4) (bits w 0 18))
  | 0x30 => .ok (.call (bits w 22 4) (bits w 18 4) (bits w 0 18))
  | 0x31 => decodeCtrl w
  | 0x32 => decodeMma w
  | 0x33 => decodeMxo w
  | 0x34 => decodeSys w
  | 0x3F => decodeXt w
  | _ => .error .illegalMajor
/-- The instruction of a word, or the reason why it is none (R272 steps 1 and 2). -/
def decodeWord (w : Word) : Except DecodeError Instr :=
  match decodeMajor w with
  | .ok i => if i.wf then .ok i else .error .codeRange
  | .error e => .error e

/-- The word that four bytes of memory hold, least significant byte first (R10, R257). -/
def wordOfBytes (b0 b1 b2 b3 : Byte) : Word := b3 ++ b2 ++ b1 ++ b0

/-- The first instruction word of a run of bytes, and the bytes after it. -/
def decode : List Byte → Except DecodeError (Instr × List Byte)
  | b0 :: b1 :: b2 :: b3 :: rest =>
    match decodeWord (wordOfBytes b0 b1 b2 b3) with
    | .ok i => .ok (i, rest)
    | .error e => .error e
  | _ => .error .short

/-- The word of an instruction, field by field from bit 31 down (R259, R270); events have none. -/
def encode : Instr → Option Word
  | .ill => some (0x0#6 ++ 0x0#26)
  | .xtImm p => some (0x3F#6 ++ 0x0#2 ++ p)
  | .xtOpd l c => some (0x3F#6 ++ 0x2000#15 ++ l ++ c)
  | .xtMem e k t p => some (0x3F#6 ++ 0x20000#18 ++ e ++ k ++ t ++ p)
  | .add d a b => some (0x1#6 ++ d ++ a ++ b ++ 0x0#5)
  | .sub d a b => some (0x1#6 ++ d ++ a ++ b ++ 0x1#5)
  | .and d a b => some (0x1#6 ++ d ++ a ++ b ++ 0x2#5)
  | .or d a b => some (0x1#6 ++ d ++ a ++ b ++ 0x3#5)
  | .xor d a b => some (0x1#6 ++ d ++ a ++ b ++ 0x4#5)
  | .andn d a b => some (0x1#6 ++ d ++ a ++ b ++ 0x5#5)
  | .shl d a b => some (0x1#6 ++ d ++ a ++ b ++ 0x6#5)
  | .shr d a b => some (0x1#6 ++ d ++ a ++ b ++ 0x7#5)
  | .sar d a b => some (0x1#6 ++ d ++ a ++ b ++ 0x8#5)
  | .rotl d a b => some (0x1#6 ++ d ++ a ++ b ++ 0x9#5)
  | .min d a b => some (0x1#6 ++ d ++ a ++ b ++ 0xA#5)
  | .max d a b => some (0x1#6 ++ d ++ a ++ b ++ 0xB#5)
  | .minz d a b => some (0x1#6 ++ d ++ a ++ b ++ 0xC#5)
  | .maxz d a b => some (0x1#6 ++ d ++ a ++ b ++ 0xD#5)
  | .mul d a b => some (0x1#6 ++ d ++ a ++ b ++ 0xE#5)
  | .mulh d a b => some (0x1#6 ++ d ++ a ++ b ++ 0xF#5)
  | .mulhz d a b => some (0x1#6 ++ d ++ a ++ b ++ 0x10#5)
  | .absd d a b => some (0x1#6 ++ d ++ a ++ b ++ 0x11#5)
  | .add64 d a b => some (0x1#6 ++ d ++ a ++ b ++ 0x12#5)
  | .sub64 d a b => some (0x1#6 ++ d ++ a ++ b ++ 0x13#5)
  | .popc d a => some (0x1#6 ++ d ++ a ++ 0x14#12)
  | .clz d a => some (0x1#6 ++ d ++ a ++ 0x15#12)
  | .brev d a => some (0x1#6 ++ d ++ a ++ 0x16#12)
  | .sadd d a b => some (0x1#6 ++ d ++ a ++ b ++ 0x17#5)
  | .ssub d a b => some (0x1#6 ++ d ++ a ++ b ++ 0x18#5)
  | .addi d a i => some (0x2#6 ++ d ++ a ++ i)
  | .andi d a i => some (0x3#6 ++ d ++ a ++ i)
  | .ori d a i => some (0x4#6 ++ d ++ a ++ i)
  | .xori d a i => some (0x5#6 ++ d ++ a ++ i)
  | .shfiShl d a n => some (0x6#6 ++ d ++ a ++ 0x0#7 ++ n)
  | .shfiShr d a n => some (0x6#6 ++ d ++ a ++ 0x20#7 ++ n)
  | .shfiSar d a n => some (0x6#6 ++ d ++ a ++ 0x40#7 ++ n)
  | .shfiRotl d a n => some (0x6#6 ++ d ++ a ++ 0x60#7 ++ n)
  | .movi d i => some (0x7#6 ++ d ++ i)
  | .movh d i => some (0x8#6 ++ d ++ i)
  | .icmp p m a b c t => some (0x9#6 ++ p ++ m ++ a ++ b ++ c ++ t)
  | .icmpi p c a i => some (0xA#6 ++ p ++ c ++ a ++ i)
  | .sel d a b g => some (0xB#6 ++ d ++ a ++ b ++ g ++ 0x0#1)
  | .imad d a b => some (0xC#6 ++ d ++ a ++ b ++ 0x0#5)
  | .imadw d a b => some (0xC#6 ++ d ++ a ++ b ++ 0x1#5)
  | .imadwz d a b => some (0xC#6 ++ d ++ a ++ b ++ 0x2#5)
  | .bfe d a p l => some (0xD#6 ++ d ++ a ++ p ++ l ++ 0x0#2)
  | .bfez d a p l => some (0xD#6 ++ d ++ a ++ p ++ l ++ 0x1#2)
  | .bfi d a p l => some (0xD#6 ++ d ++ a ++ p ++ l ++ 0x2#2)
  | .bmsk d p l => some (0xD#6 ++ d ++ 0x0#7 ++ p ++ l ++ 0x3#2)
  | .padd d a b => some (0xE#6 ++ d ++ a ++ b ++ 0x0#5)
  | .ptag d a b => some (0xE#6 ++ d ++ a ++ b ++ 0x1#5)
  | .prank d a b => some (0xE#6 ++ d ++ a ++ b ++ 0x2#5)
  | .pinfo d a => some (0xE#6 ++ d ++ a ++ 0x3#12)
  | .phnd d a => some (0xE#6 ++ d ++ a ++ 0x4#12)
  | .fadd d a b => some (0xF#6 ++ d ++ a ++ b ++ 0x0#5)
  | .fsub d a b => some (0xF#6 ++ d ++ a ++ b ++ 0x1#5)
  | .fmul d a b => some (0xF#6 ++ d ++ a ++ b ++ 0x2#5)
  | .fmin d a b => some (0xF#6 ++ d ++ a ++ b ++ 0x3#5)
  | .fmax d a b => some (0xF#6 ++ d ++ a ++ b ++ 0x4#5)
  | .fabs d a => some (0xF#6 ++ d ++ a ++ 0x5#12)
  | .fneg d a => some (0xF#6 ++ d ++ a ++ 0x6#12)
  | .fcpys d a b => some (0xF#6 ++ d ++ a ++ b ++ 0x7#5)
  | .frndN d a => some (0xF#6 ++ d ++ a ++ 0x8#12)
  | .frndZ d a => some (0xF#6 ++ d ++ a ++ 0x9#12)
  | .frndP d a => some (0xF#6 ++ d ++ a ++ 0xA#12)
  | .frndM d a => some (0xF#6 ++ d ++ a ++ 0xB#12)
  | .hadd2F16 d a b => some (0x10#6 ++ d ++ a ++ b ++ 0x0#5)
  | .hsub2F16 d a b => some (0x10#6 ++ d ++ a ++ b ++ 0x1#5)
  | .hmul2F16 d a b => some (0x10#6 ++ d ++ a ++ b ++ 0x2#5)
  | .hmin2F16 d a b => some (0x10#6 ++ d ++ a ++ b ++ 0x3#5)
  | .hmax2F16 d a b => some (0x10#6 ++ d ++ a ++ b ++ 0x4#5)
  | .hadd2Bf16 d a b => some (0x10#6 ++ d ++ a ++ b ++ 0x10#5)
  | .hsub2Bf16 d a b => some (0x10#6 ++ d ++ a ++ b ++ 0x11#5)
  | .hmul2Bf16 d a b => some (0x10#6 ++ d ++ a ++ b ++ 0x12#5)
  | .hmin2Bf16 d a b => some (0x10#6 ++ d ++ a ++ b ++ 0x13#5)
  | .hmax2Bf16 d a b => some (0x10#6 ++ d ++ a ++ b ++ 0x14#5)
  | .ffma d a b => some (0x11#6 ++ d ++ a ++ b ++ 0x0#5)
  | .ffms d a b => some (0x11#6 ++ d ++ a ++ b ++ 0x1#5)
  | .fnma d a b => some (0x11#6 ++ d ++ a ++ b ++ 0x2#5)
  | .hfma2F16 d a b => some (0x11#6 ++ d ++ a ++ b ++ 0x3#5)
  | .hfma2Bf16 d a b => some (0x11#6 ++ d ++ a ++ b ++ 0x4#5)
  | .fcmp p m a b c t => some (0x12#6 ++ p ++ m ++ a ++ b ++ c ++ t)
  | .rcp d a => some (0x13#6 ++ d ++ a ++ 0x0#12)
  | .rsq d a => some (0x13#6 ++ d ++ a ++ 0x1#12)
  | .sqrt d a => some (0x13#6 ++ d ++ a ++ 0x2#12)
  | .exp2 d a => some (0x13#6 ++ d ++ a ++ 0x3#12)
  | .log2 d a => some (0x13#6 ++ d ++ a ++ 0x4#12)
  | .sinpi d a => some (0x13#6 ++ d ++ a ++ 0x5#12)
  | .cospi d a => some (0x13#6 ++ d ++ a ++ 0x6#12)
  | .tanh d a => some (0x13#6 ++ d ++ a ++ 0x7#12)
  | .cvtF32F16 d a => some (0x14#6 ++ d ++ a ++ 0x0#12)
  | .cvtF16F32 d a => some (0x14#6 ++ d ++ a ++ 0x1#12)
  | .cvtF32Bf16 d a => some (0x14#6 ++ d ++ a ++ 0x2#12)
  | .cvtBf16F32 d a => some (0x14#6 ++ d ++ a ++ 0x3#12)
  | .cvtS32F32 d a => some (0x14#6 ++ d ++ a ++ 0x4#12)
  | .cvtZ32F32 d a => some (0x14#6 ++ d ++ a ++ 0x5#12)
  | .cvtF32S32 d a => some (0x14#6 ++ d ++ a ++ 0x6#12)
  | .cvtF32Z32 d a => some (0x14#6 ++ d ++ a ++ 0x7#12)
  | .pack2 d a b => some (0x14#6 ++ d ++ a ++ b ++ 0x8#5)
  | .shfl d a g => some (0x15#6 ++ d ++ a ++ g ++ 0x0#7)
  | .shflup d a g => some (0x15#6 ++ d ++ a ++ g ++ 0x8#7)
  | .shfldn d a g => some (0x15#6 ++ d ++ a ++ g ++ 0x10#7)
  | .shflx d a g => some (0x15#6 ++ d ++ a ++ g ++ 0x18#7)
  | .bcst d a g => some (0x15#6 ++ d ++ a ++ g ++ 0x20#7)
  | .prev d a g => some (0x15#6 ++ d ++ a ++ g ++ 0x28#7)
  | .scanAdd d a g => some (0x15#6 ++ d ++ a ++ g ++ 0x30#7)
  | .scanMin d a g => some (0x15#6 ++ d ++ a ++ g ++ 0x31#7)
  | .scanMax d a g => some (0x15#6 ++ d ++ a ++ g ++ 0x32#7)
  | .scanMinz d a g => some (0x15#6 ++ d ++ a ++ g ++ 0x33#7)
  | .scanMaxz d a g => some (0x15#6 ++ d ++ a ++ g ++ 0x34#7)
  | .scanAnd d a g => some (0x15#6 ++ d ++ a ++ g ++ 0x35#7)
  | .scanOr d a g => some (0x15#6 ++ d ++ a ++ g ++ 0x36#7)
  | .scanFadd d a g => some (0x15#6 ++ d ++ a ++ g ++ 0x37#7)
  | .redAdd d a g => some (0x15#6 ++ d ++ a ++ g ++ 0x38#7)
  | .redMin d a g => some (0x15#6 ++ d ++ a ++ g ++ 0x39#7)
  | .redMax d a g => some (0x15#6 ++ d ++ a ++ g ++ 0x3A#7)
  | .redMinz d a g => some (0x15#6 ++ d ++ a ++ g ++ 0x3B#7)
  | .redMaxz d a g => some (0x15#6 ++ d ++ a ++ g ++ 0x3C#7)
  | .redAnd d a g => some (0x15#6 ++ d ++ a ++ g ++ 0x3D#7)
  | .redOr d a g => some (0x15#6 ++ d ++ a ++ g ++ 0x3E#7)
  | .redFadd d a g => some (0x15#6 ++ d ++ a ++ g ++ 0x3F#7)
  | .voteAny d a g => some (0x15#6 ++ d ++ a ++ g ++ 0x40#7)
  | .voteAll d a g => some (0x15#6 ++ d ++ a ++ g ++ 0x41#7)
  | .voteUni d a g => some (0x15#6 ++ d ++ a ++ g ++ 0x42#7)
  | .ballot d a g => some (0x15#6 ++ d ++ a ++ g ++ 0x48#7)
  | .matchEq d a g => some (0x15#6 ++ d ++ a ++ g ++ 0x50#7)
  | .uadd d a b => some (0x16#6 ++ d ++ a ++ b ++ 0x0#11)
  | .usub d a b => some (0x16#6 ++ d ++ a ++ b ++ 0x1#11)
  | .uand d a b => some (0x16#6 ++ d ++ a ++ b ++ 0x2#11)
  | .uor d a b => some (0x16#6 ++ d ++ a ++ b ++ 0x3#11)
  | .uxor d a b => some (0x16#6 ++ d ++ a ++ b ++ 0x4#11)
  | .ushl d a b => some (0x16#6 ++ d ++ a ++ b ++ 0x5#11)
  | .ushr d a b => some (0x16#6 ++ d ++ a ++ b ++ 0x6#11)
  | .usar d a b => some (0x16#6 ++ d ++ a ++ b ++ 0x7#11)
  | .umul d a b => some (0x16#6 ++ d ++ a ++ b ++ 0x8#11)
  | .umin d a b => some (0x16#6 ++ d ++ a ++ b ++ 0x9#11)
  | .umax d a b => some (0x16#6 ++ d ++ a ++ b ++ 0xA#11)
  | .uminz d a b => some (0x16#6 ++ d ++ a ++ b ++ 0xB#11)
  | .umaxz d a b => some (0x16#6 ++ d ++ a ++ b ++ 0xC#11)
  | .uaddi d a i => some (0x17#6 ++ d ++ a ++ i)
  | .umovi d i => some (0x18#6 ++ d ++ 0x0#5 ++ i)
  | .umovh d i => some (0x19#6 ++ d ++ 0x0#5 ++ i)
  | .rdg x g => some (0x1A#6 ++ x ++ g ++ 0x0#14)
  | .wrgf x g => some (0x1A#6 ++ x ++ g ++ 0x1#14)
  | .wrgt x g n => some (0x1A#6 ++ x ++ g ++ n ++ 0x2#9)
  | .ldb d a l o => some (0x1B#6 ++ d ++ a ++ l ++ o)
  | .ldbs d a l o => some (0x1C#6 ++ d ++ a ++ l ++ o)
  | .ldh d a l o => some (0x1D#6 ++ d ++ a ++ l ++ o)
  | .ldhs d a l o => some (0x1E#6 ++ d ++ a ++ l ++ o)
  | .ldw d a l o => some (0x1F#6 ++ d ++ a ++ l ++ o)
  | .ldd d a l o => some (0x20#6 ++ d ++ a ++ l ++ o)
  | .ldq d a l o => some (0x21#6 ++ d ++ a ++ l ++ o)
  | .stb s a g o => some (0x22#6 ++ s ++ a ++ g ++ o)
  | .sth s a g o => some (0x23#6 ++ s ++ a ++ g ++ o)
  | .stw s a g o => some (0x24#6 ++ s ++ a ++ g ++ o)
  | .std s a g o => some (0x25#6 ++ s ++ a ++ g ++ o)
  | .stq s a g o => some (0x26#6 ++ s ++ a ++ g ++ o)
  | .uldw d a l o => some (0x27#6 ++ d ++ a ++ l ++ o)
  | .uldd d a l o => some (0x28#6 ++ d ++ a ++ l ++ o)
  | .atomAdd d a g r s w => some (0x29#6 ++ d ++ a ++ g ++ 0x0#3 ++ r ++ s ++ w)
  | .atomMin d a g r s w => some (0x29#6 ++ d ++ a ++ g ++ 0x1#3 ++ r ++ s ++ w)
  | .atomMax d a g r s w => some (0x29#6 ++ d ++ a ++ g ++ 0x2#3 ++ r ++ s ++ w)
  | .atomMinz d a g r s w => some (0x29#6 ++ d ++ a ++ g ++ 0x3#3 ++ r ++ s ++ w)
  | .atomMaxz d a g r s w => some (0x29#6 ++ d ++ a ++ g ++ 0x4#3 ++ r ++ s ++ w)
  | .atomAnd d a g r s w => some (0x29#6 ++ d ++ a ++ g ++ 0x5#3 ++ r ++ s ++ w)
  | .atomOr d a g r s w => some (0x29#6 ++ d ++ a ++ g ++ 0x6#3 ++ r ++ s ++ w)
  | .atomXor d a g r s w => some (0x29#6 ++ d ++ a ++ g ++ 0x7#3 ++ r ++ s ++ w)
  | .atomxExch d a g r s w => some (0x2A#6 ++ d ++ a ++ g ++ 0x0#3 ++ r ++ s ++ w)
  | .atomxCas d a g r s w => some (0x2A#6 ++ d ++ a ++ g ++ 0x1#3 ++ r ++ s ++ w)
  | .atomxFadd d a g r s => some (0x2A#6 ++ d ++ a ++ g ++ 0x2#3 ++ r ++ s ++ 0x0#1)
  | .fence m s => some (0x2B#6 ++ m ++ s ++ 0x0#16)
  | .setclr c => some (0x2B#6 ++ c ++ 0x1#23)
  | .mon a => some (0x2B#6 ++ a ++ 0x2#19)
  | .monClr => some (0x2B#6 ++ 0x40002#26)
  | .mwait d t => some (0x2B#6 ++ d ++ t ++ 0x3#16)
  | .cede n => some (0x2B#6 ++ n ++ 0x4#10)
  | .invl1 s => some (0x2B#6 ++ s ++ 0x5#24)
  | .pref a v => some (0x2B#6 ++ a ++ v ++ 0x6#18)
  | .qfence q => some (0x2B#6 ++ q ++ 0x7#22)
  | .clkrd d => some (0x2B#6 ++ d ++ 0x8#21)
  | .binit a b => some (0x2C#6 ++ a ++ b ++ 0x0#16)
  | .bexp a b => some (0x2C#6 ++ a ++ b ++ 0x1#16)
  | .barv a b => some (0x2C#6 ++ a ++ b ++ 0x2#16)
  | .bwait a b c l => some (0x2C#6 ++ a ++ b ++ c ++ l ++ 0x3#7)
  | .btest a b c l => some (0x2C#6 ++ a ++ b ++ c ++ l ++ 0x4#7)
  | .rinit a b c => some (0x2D#6 ++ a ++ b ++ c ++ 0x0#11)
  | .awaitf a b c l => some (0x2D#6 ++ a ++ b ++ c ++ l ++ 0x1#7)
  | .rels a => some (0x2D#6 ++ a ++ 0x2#21)
  | .rstat a c l => some (0x2D#6 ++ a ++ 0x0#5 ++ c ++ l ++ 0x3#7)
  | .awaitfEmpty a b c l => some (0x2D#6 ++ a ++ b ++ c ++ l ++ 0x4#7)
  | .cpy a b c => some (0x2E#6 ++ a ++ b ++ c ++ 0x0#11)
  | .cpyt a b c => some (0x2E#6 ++ a ++ b ++ c ++ 0x1#11)
  | .cpys a b c => some (0x2E#6 ++ a ++ b ++ c ++ 0x2#11)
  | .cpym a b c => some (0x2E#6 ++ a ++ b ++ c ++ 0x3#11)
  | .cpyr a b c => some (0x2E#6 ++ a ++ b ++ c ++ 0x4#11)
  | .bra g j d => some (0x2F#6 ++ g ++ j ++ d)
  | .call g j d => some (0x30#6 ++ g ++ j ++ d)
  | .calli a => some (0x31#6 ++ a ++ 0x0#19)
  | .bri a => some (0x31#6 ++ a ++ 0x1#19)
  | .ret => some (0x31#6 ++ 0x2#26)
  | .join j => some (0x31#6 ++ j ++ 0x3#22)
  | .jmrk j => some (0x31#6 ++ j ++ 0x4#22)
  | .jclr j => some (0x31#6 ++ j ++ 0x5#22)
  | .jsav j x => some (0x31#6 ++ j ++ x ++ 0x6#15)
  | .jrst j x => some (0x31#6 ++ j ++ x ++ 0x7#15)
  | .exit => some (0x31#6 ++ 0x8#26)
  | .yield => some (0x31#6 ++ 0x9#26)
  | .nop => some (0x31#6 ++ 0xA#26)
  | .mma c s t a b z => some (0x32#6 ++ c ++ s ++ t ++ a ++ b ++ 0x0#6 ++ z)
  | .mma2 c s t a b z => some (0x32#6 ++ c ++ s ++ t ++ a ++ b ++ 0x1#6 ++ z)
  | .acqa c => some (0x33#6 ++ c ++ 0x0#23)
  | .rela c => some (0x33#6 ++ c ++ 0x1#23)
  | .lda c s a => some (0x33#6 ++ c ++ s ++ 0x0#3 ++ a ++ 0x2#12)
  | .sta c s a => some (0x33#6 ++ c ++ s ++ 0x0#3 ++ a ++ 0x3#12)
  | .drain c s t a => some (0x33#6 ++ c ++ s ++ t ++ a ++ 0x4#12)
  | .zacc c => some (0x33#6 ++ c ++ 0x5#23)
  | .accrd c x a => some (0x33#6 ++ c ++ x ++ a ++ 0x6#12)
  | .accwr c x a => some (0x33#6 ++ c ++ x ++ a ++ 0x7#12)
  | .srd x i => some (0x34#6 ++ 0x0#6 ++ x ++ i ++ 0x0#3)
  | .swr x i => some (0x34#6 ++ 0x1#6 ++ x ++ i ++ 0x0#3)
  | .trap n => some (0x34#6 ++ 0x100#13 ++ n ++ 0x0#3)
  | .bkpt n => some (0x34#6 ++ 0x180#13 ++ n ++ 0x0#3)
  | .emit x n => some (0x34#6 ++ 0x4#6 ++ x ++ n ++ 0x0#3)
  | .migr x => some (0x34#6 ++ 0x5#6 ++ x ++ 0x0#13)
  | .launch x g => some (0x34#6 ++ 0x6#6 ++ x ++ 0x0#5 ++ g ++ 0x0#3)
  | .haltctx c g => some (0x34#6 ++ 0x380#13 ++ c ++ 0x0#4 ++ g ++ 0x0#3)
  | .rft => some (0x34#6 ++ 0x800000#26)
  | .cycrd x => some (0x34#6 ++ 0x9#6 ++ x ++ 0x0#13)
  | .trapDelivery _ => none
  | .workgroupStart _ _ _ => none
  | .roundApply _ => none
  | .groupWake _ => none
  | .mwaitTimeout _ => none
  | .cedeExpiry _ => none
  | .deadlock _ => none
  | .externalWriteLand _ => none
  | .hostBarWrite _ _ => none
  | .hostCompletion _ _ _ => none
  | .loadResponse _ _ => none
  | .storePerform _ _ => none
  | .atomicPerform _ _ => none
  | .copyPerform _ _ => none
  | .mxuComplete _ => none
  | .migrArrival _ _ => none
  | .haltctxComplete _ => none
  | .tierMigration _ _ => none
  | .wayMove _ _ _ => none
  | .timeSliceSwitch => none
  | .machineCheck _ _ => none
  | .faultRingWrite _ => none
  | .tinvPage _ _ => none
  | .tinvAsid _ _ => none
  | .tinvFunction _ => none
  | .tinvComplete _ => none
  | .facmdBaseFrame _ => none
  | .facmdHugeFrame _ => none
  | .facmdTableFrame _ => none
  | .facmdRelease => none
  | .freplyRetry _ _ => none
  | .freplyFail _ _ => none
  | .qctlEnable _ _ => none
  | .qctlDisable _ _ => none
  | .qtailDoorbell _ _ => none
  | .packetFetch _ => none
  | .nopPacket _ _ => none
  | .launchPacket _ _ => none
  | .waitseq _ _ => none
  | .signal _ _ => none
  | .quiesceStop _ _ => none
  | .quiesceResume _ _ => none
  | .quiesceStopAndSave _ _ => none
  | .domainQuiesced _ => none
  | .telemAttach _ _ => none
  | .telemDetach _ _ => none
  | .gridComplete _ => none
  | .pctlSave _ => none
  | .saveDone _ => none
  | .pctlRestore _ => none
  | .pctlDiscard _ => none
  | .pcrEnable _ _ => none
  | .pcrDisable _ _ => none
  | .pcrFlr _ _ => none
  | .pcieFlr _ => none
  | .flrDone _ => none
  | .pfResourceWrite _ _ => none
  | .tbudWrite _ _ => none
  | .mergeSum _ _ => none
  | .mergeMax _ _ => none
  | .registerWrite _ _ _ => none
  | .tcoRecordIntake _ => none
  | .tcoRun _ _ => none
  | .budgetWindow _ => none
  | .fabricFlitReceive _ _ _ => none
  | .reductionResult _ _ => none
  | .boot _ => none
  | .spdmRequest _ => none
  | .copySourceReadDone _ => none
  | .barrierNetworkArrival _ => none
  | .nackRetry _ => none
  | .correctableError _ _ => none
  | .mergeComplete _ => none
  | .tdispRequest _ _ => none

/-- The bytes of a word as memory holds them (R10). -/
def bytesOfWord (w : Word) : List Byte :=
  [w.extractLsb' 0 8, w.extractLsb' 8 8, w.extractLsb' 16 8, w.extractLsb' 24 8]

/-- What the decoder reads from an instruction whose first word is the low 32 bits of `w`. -/
def decodeTableWord (_nbits w : Nat) : Option Instr :=
  match decode (bytesOfWord (BitVec.ofNat 32 w)) with
  | .ok (i, _) => some i
  | .error _ => none

end Sys2Proof
end

