-- ==== Sys2Proof/Machine/Operands.lean ====
section
/-!
DEFINITION. Operand forms: what an XT prefix adds to an instruction (R266 to R268), immediates, displacements and
lookahead (R260, R263), and the record of what an instruction names, from which the ILLEGAL and LOOKAHEAD checks of
R264 and R272 are made.
-/
namespace Sys2Proof.Machine

/-! ### The prefix -/

/-- Kind of an XT word (R266). -/
def xtKind (w : Word) : Nat := (w.extractLsb' 24 2).toNat

/-- No prefix is accepted. -/
def pfxNone (p : Option Word) : Bool := p == none

/-- XT.IMM with `n` payload bits in use and zeros above (R267). -/
def pfxImm (n : Nat) (p : Option Word) : Bool :=
  match p with
  | none => true
  | some w => xtKind w == 0 && (w.extractLsb' 0 24).toNat < 2 ^ n

/-- XT.OPD; its c register must be zero unless the instruction has an addend (R268). -/
def pfxOpd (addend : Bool) (p : Option Word) : Bool :=
  match p with
  | none => true
  | some w => xtKind w == 1 && (addend || w.extractLsb' 0 7 == 0)

/-- XT.MEM of a thread load (R268): its own atomicity code, if it has one, and no colour. -/
def pfxLoad (own : Nat) (p : Option Word) : Bool :=
  match p with
  | none => true
  | some w =>
    if xtKind w = 0 then true
    else xtKind w == 2 && w.extractLsb' 4 4 == 0 &&
      ((w.extractLsb' 2 2).toNat == 0 || (own ≠ 0 && (w.extractLsb' 2 2).toNat == own))

/-- XT.MEM of a thread store (R268): its own atomicity code, if it has one. -/
def pfxStore (own : Nat) (p : Option Word) : Bool :=
  match p with
  | none => true
  | some w =>
    if xtKind w = 0 then true
    else xtKind w == 2 && ((w.extractLsb' 2 2).toNat == 0 || (own ≠ 0 && (w.extractLsb' 2 2).toNat == own))

/-- Prefixes of a uniform load (R267, R268). -/
def pfxUload (p : Option Word) : Bool :=
  match p with
  | none => true
  | some w =>
    if xtKind w = 0 then (w.extractLsb' 20 4) == 0 else xtKind w == 2 && w.extractLsb' 2 6 == 0

/-- XT.MEM of PREF (R268). -/
def pfxPref (p : Option Word) : Bool :=
  match p with
  | none => true
  | some w => xtKind w == 2 && w.extractLsb' 2 6 == 0

/-- Prefixes of an atomic: XT.OPD for lookahead, or XT.MEM for a colour (R268, R335). -/
def pfxAtom (p : Option Word) : Bool :=
  match p with
  | none => true
  | some w =>
    if xtKind w = 1 then w.extractLsb' 0 7 == 0 else xtKind w == 2 && w.extractLsb' 0 4 == 0

/-- Payload of an XT.IMM prefix. -/
def pfxPayload (p : Option Word) : Option (BitVec 24) :=
  match p with
  | some w => if xtKind w = 0 then some (w.extractLsb' 0 24) else none
  | none => none

/-- Lookahead of an XT.OPD prefix (R263). -/
def pfxLa (p : Option Word) : Nat :=
  match p with
  | some w => if xtKind w = 1 then (w.extractLsb' 7 4).toNat else 0
  | none => 0

/-- The addend register: c of XT.OPD, else d (R268). -/
def pfxAddend (p : Option Word) (d : BitVec 7) : Nat :=
  match p with
  | some w => if xtKind w = 1 then (w.extractLsb' 0 7).toNat else d.toNat
  | none => d.toNat

/-- Cache policy of XT.MEM: 0 default, 1 .BY, 2 .ST, 3 .NA (R266). -/
def pfxPolicy (p : Option Word) : Nat :=
  match p with
  | some w => if xtKind w = 2 then (w.extractLsb' 0 2).toNat else 0
  | none => 0

/-- Atomicity of XT.MEM (R266). -/
def pfxAtomicity (p : Option Word) : Nat :=
  match p with
  | some w => if xtKind w = 2 then (w.extractLsb' 2 2).toNat else 0
  | none => 0

/-- The colour of a store or atomic: the override of XT.MEM, else GSR.CLR (R156). -/
def pfxColour (p : Option Word) (clr : BitVec 3) : BitVec 3 :=
  match p with
  | some w => if xtKind w = 2 && w.getLsbD 7 then w.extractLsb' 4 3 else clr
  | none => clr

/-- The operand of a B or PI instruction: 12 bits as the instruction extends them, or the 32 bits of XT.IMM (R267). -/
def immB (p : Option Word) (i : BitVec 12) (ext : Word) : Word :=
  match pfxPayload p with
  | some x => x.extractLsb' 0 20 ++ i
  | none => ext

/-- The operand of a UI instruction (R267). -/
def immUi (p : Option Word) (i : BitVec 16) (ext : Word) : Word :=
  match pfxPayload p with
  | some x => x.extractLsb' 0 16 ++ i
  | none => ext

/-- The displacement of an L or T instruction of `n` bytes (R260, R267). -/
def dispL (p : Option Word) (o : BitVec 8) (n : Nat) : Int :=
  match pfxPayload p with
  | some x => (x ++ o).toInt
  | none => o.toInt * n

/-- The displacement of a UL instruction (R260, R267). -/
def dispUl (p : Option Word) (o : BitVec 12) (n : Nat) : Int :=
  match pfxPayload p with
  | some x => (x.extractLsb' 0 20 ++ o).toInt
  | none => o.toInt * n

/-! ### What an instruction names -/

/-- What the checks before the walk, and the completion, need to know of an instruction. -/
structure Form where
  /-- Thread registers named: first and count (R255, R256). -/
  xr : List (Nat × Nat) := []
  /-- Uniform registers named. -/
  gr : List (Nat × Nat) := []
  /-- Destination set: uniform or not, first, count (R263). -/
  dst : Option (Bool × Nat × Nat) := none
  /-- Lookahead (R263). -/
  la : Nat := 0
  /-- The prefix, if any, is one the instruction accepts (R267 to R269). -/
  pfx : Bool := true
  /-- Another reason for ILLEGAL that the instruction's entry names. -/
  bad : Bool := false
  /-- Weight (R108). -/
  weight : Nat := 1
  /-- A round-closing event in itself (R114). -/
  closes : Bool := false
  /-- Faults are recorded at the lowest-numbered thread that has not exited (R209). -/
  full : Bool := false
  /-- WHOLE of the trap record (R389). -/
  whole : Bool := false
  /-- The instruction sets the PCs of its threads itself. -/
  control : Bool := false
  /-- A trap that follows the completed instruction (R377). -/
  after : Option Trap := none
  deriving DecidableEq, Repr

/-- The instruction of R209: full group, faults at the lowest thread that has not exited, performed whole. -/
def Form.fullGroup (f : Form) : Form := { f with full := true, whole := true }

/-- A register range that the file does not have, or that is not aligned (R196, R256). -/
def badRange (limit : Nat) (r : Nat × Nat) : Bool := limit < r.1 + r.2 || r.1 % r.2 ≠ 0

/-- The ILLEGAL checks of R272, but for the word's own codes, which decoding has made. -/
def Form.illegal (f : Form) (nregs : Nat) : Bool :=
  !f.pfx || f.bad || f.xr.any (badRange nregs) || f.gr.any (badRange 32) ||
    (f.la ≠ 0 &&
      match f.dst with
      | none => true
      | some (u, r, _) => u && r == 0)

/-- Numbers in a range. -/
def inRange (r : Nat × Nat) (k : Nat) : Bool := r.1 ≤ k && k < r.1 + r.2

/-- The registers named that an open window covers (R264): bit 8 marks a uniform register. -/
def Form.conflicts (f : Form) (ws : List Window) : List Nat :=
  (List.range 128).filter (fun k =>
    f.xr.any (inRange · k) && ws.any (fun w => !w.uni && inRange (w.reg, w.count) k)) ++
  ((List.range 32).filter (fun k =>
    f.gr.any (inRange · k) && ws.any (fun w => w.uni && inRange (w.reg, w.count) k))).map (· + 256)

end Sys2Proof.Machine
end

