-- ==== Sys2Proof/Machine/Settle.lean ====
section
/-!
DEFINITION. What must be finished before a group's round closes: the source reads of its copies (R126) and the MXU
work of the round, whose flags the next round sees (R369, R374).
-/
namespace Sys2Proof.Machine

/-- A copy of group `i` keeps its round open: it waits for a fault reply (R177). -/
def State.copyWaits (s : State) (i : Nat) : Bool :=
  s.copies.any (fun c => c.group == i && c.st == 4)

/-- Finishes what the close of group `i`'s round waits for. -/
def State.settleRound (s : State) (i : Nat) : State :=
  ((s.readSources i).dueTraps i |>.drainMxu (s.homeCore i)).modGrp i (fun g => { g with fx := g.fx ||| g.fxLater, fxLater := 0 })

/-- Closes round `q` of group `i`, which goes on at clock `lc`; a copy that waits for a fault reply holds the round
open, and the group with it (R113, R177). -/
def State.closeOrWait (s : State) (i q lc : Nat) : State :=
  let s1 := s.settleRound i
  if s1.copyWaits i then s1.modGrp i (fun g => { g with lc := lc, closing := some q })
  else s1.closeRound i q lc

/-- CUEWAIT of a group that stalled at the close of its round until its copies had read their sources: no round of its
scope is applied in that time, since the group holds its own (R122, R126, R411). -/
def State.tapStall (s : State) (i : Nat) : State :=
  let (v, s1) := s.tapFree
  s1.tapGroup i 0x01 0 (v.extractLsb' 0 32)

/-- The close that waited goes on (R177). -/
def State.tryClose (s : State) (i : Nat) : State :=
  match (s.grp i).closing with
  | none => s
  | some q =>
    let s1 := s.settleRound i
    if s1.copyWaits i then s1
    else ((s1.modGrp i (fun g => { g with closing := none })).closeRound i q (s.grp i).lc).tapStall i

end Sys2Proof.Machine
end

