-- ==== Sys2Proof/Machine/Issue.lean ====
section
/-!
DEFINITION. The issue of one instruction (R108 to R114, R200 to R202, R209, R263 to R265, R272): the checks before it,
what a stop of its walk does, and its completion with clock, round, windows and the choice of the next path.
-/
namespace Sys2Proof.Machine

/-! ### Fetch (R257, R258) -/

/-- The word at a PC, as the code pages held it when the launch was accepted; a fault falls to thread `t` (R93). -/
def State.fetchWord (s : State) (i pc t : Nat) : State × Except Stop Word :=
  let gr := s.gridOf i
  match s.lookup gr kindFetch pc with
  | .error f => (s, .error (.xlat f kindFetch pc (xlatTrap f t (BitVec.ofNat 64 pc))))
  | .ok e =>
    (s.useEntry e kindFetch, .ok (BitVec.ofNat 32 (readBytes gr.code (e.base + pc % 65536) 4)))

/-! ### A stop -/

/-- Delivers a trap after the open windows have been completed (R265, R391). -/
def State.deliver (s : State) (i : Nat) (t : Trap) : State :=
  (s.drain i (fun f => f.kind ≠ 1)).takeTrap i t

/-- FRCTL.EN of a function (R96). -/
def State.faultsRecorded (s : State) (f : Nat) : Bool := (s.reg (transBase f + 0x30)).getLsbD 0

/-- Parks group `i` on a translation fault, with a record for the fault ring (R94, R95). -/
def State.park (s : State) (i : Nat) (whole : Bool) (f : XFault) (kind va : Nat) (t : Trap) : State :=
  let gr := s.gridOf i
  let (v, s1) := s.free
  let id := s1.nextFault gr.fn
  let e : FaultEntry :=
    { id := id, fn := gr.fn, words := s.groupFault i va kind t.thread f id v,
      group := some i, copy := none, trap := { t with aux := id }, written := false, reply := none }
  (s1.addFault e).modGrp i (fun g =>
    { g with st := .parked, faultId := some id, rix := BitVec.ofNat 5 t.thread,
             walkFrom := if whole then none else some t.thread })

/-- Loads of the group are still to be sent again: before its next instruction issues (R400). -/
def Group.resending (g : Group) : Bool := g.flight.any g.stale

/-- Delivers the trap of a load that was sent again; the load stays to be sent again once the group has left its handler, and
the walk that the trap interrupts goes on where it stood (R93, R400; log 109). -/
def State.deliverResent (s : State) (i : Nat) (t : Trap) : State :=
  let w := (s.grp i).walkFrom
  (s.deliver i t).modGrp i (fun g => if g.st = .handler then { g with savedFrom := some w } else g)

/-- Parks a group on the translation fault of a load that was sent again (R94). -/
def State.parkResent (s : State) (i : Nat) (f : XFault) (kind va : Nat) (t : Trap) : State :=
  let w := (s.grp i).walkFrom
  (s.park i true f kind va t).modGrp i (fun g => { g with walkFrom := w })

/-- What a stop of the walk does (R32, R94, R390). -/
def State.stopAt (s : State) (i : Nat) (whole : Bool) (y : Stop) : State :=
  match y with
  | .trap t => s.deliver i { t with whole := whole }
  | .xlat f kind va t =>
    if s.faultsRecorded (s.gridOf i).fn then s.park i whole f kind va { t with whole := whole }
    else s.deliver i { t with whole := whole }
  | .wait t => s.modGrp i (fun g => { g with walkFrom := some t })
  | .close => s.closeOrWait i (s.grp i).round (64 * ((s.grp i).round + 1))

/-! ### The next path (R200, R202) -/

/-- Smallest of a list of numbers. -/
def minOf : List Nat → Nat
  | [] => 0
  | [a] => a
  | a :: r => min a (minOf r)

/-- The j field of a JOIN word (R301). -/
def joinField (w : Word) : Nat :=
  match decodeWord w with
  | .ok (.join j) => j.toNat
  | _ => 15

/-- The forced join: the JOIN with the lowest PC releases every thread parked at it (R202). -/
def State.forcedJoin (s : State) (i : Nat) : State :=
  let g := s.grp i
  let at_ := g.alive.filter (fun t => inMask g.parked t)
  let p := minOf (at_.map g.pcOf)
  let ts := at_.filter (fun t => g.pcOf t == p)
  match s.fetchWord i p (ts.headD 0) with
  | (s1, .error y) => s1.stopAt i false y
  | (s1, .ok w) =>
    s1.modGrp i (fun g =>
      let g1 := ts.foldl (fun g t => g.wpc t (p + 4)) { g with parked := g.parked &&& ~~~maskOf ts, jf := true, sel := p + 4 }
      if joinField w = 15 then g1 else g1.wj (joinField w) 0)

/-- The PC of the path that issues after `path` has issued at address `p` (R200). -/
def Group.nextSel (g : Group) (path : List Nat) (p : Nat) : Nat :=
  let el := g.eligible
  let pcs := el.map g.pcOf
  let above := pcs.filter (p < ·)
  let back := path.any (fun t => (el.contains t && g.pcOf t ≤ p) || inMask g.parked t)
  if back && above ≠ [] then minOf above else minOf pcs

/-- Selects the next path (R200); with no eligible thread, the forced join. -/
def State.selectPath (s : State) (i : Nat) (path : List Nat) (p : Nat) : State :=
  let g := s.grp i
  if g.eligible = [] then (if g.alive = [] then s else s.forcedJoin i)
  else s.modGrp i (fun g => { g with sel := g.nextSel path p })

/-! ### Retirement (R129, R191) -/

/-- Groups of workgroup `w`. -/
def State.wgGroups (s : State) (w : Nat) : List Nat := s.groupIds.filter (fun i => (s.grp i).wg == w)

/-- A group whose threads have all exited retires; its workgroup when it is the last (R191, R339, R342). -/
def State.retireDone (s : State) (i : Nat) : State :=
  let g := s.grp i
  if g.alive ≠ [] || g.st = .retired then s
  else
    let s1 := s.modGrp i (fun g => { g with st := .retired, armed := [], windows := [] })
    let s2 := s1.modGrid g.grid (fun gr => { gr with fx := gr.fx ||| g.fx })
    s2.modWg g.wg (fun w => { w with
      lastLc := max w.lastLc g.lc
      retired := (s2.wgGroups g.wg).all (fun k => (s2.grp k).st == .retired) })

/-! ### Completion -/

/-- Windows after a completed issue: each counts it, and the instruction's own opens (R263). -/
def Form.windows (f : Form) (ws : List Window) : List Window :=
  ((ws.map (fun w => { w with left := w.left - 1 })).filter (fun w => 0 < w.left)) ++
    match f.dst with
    | some (u, r, n) => if f.la = 0 then [] else [⟨r, u, n, f.la⟩]
    | none => []

/-- The clock after an instruction of a round, and the round it closes (R113). -/
def clockAfter (ordered closes : Bool) (lc weight : Nat) : Nat :=
  if ordered && closes then 64 * (lc / 64 + 1) else lc + weight

/-- Address of the word in issue, after its prefix. -/
def State.wordPc (s : State) : Nat := s.at' + (if s.pfx.isSome then 4 else 0)

/-- A group with a trap to take at its round-closing point does not fall asleep (R178, R390). -/
def State.stayAwake (s : State) (i : Nat) : State :=
  s.modGrp i (fun g =>
    if g.st = .sleeping && g.pend ≠ [] && g.priv ≠ 1 then { g with st := .running, sleep := none, wake := none } else g)

/-- Completes an instruction that `path` issued (R108 to R114, R200, R263). -/
def State.complete (s : State) (f : Form) (path : List Nat) : State :=
  let i := s.cur
  let g := s.grp i
  let p := s.wordPc
  let ordered := (s.gridOf i).ordered
  let lc := clockAfter ordered (f.closes || g.walk.close) g.lc f.weight
  let moved := (List.range 32).filter (fun t => inMask (g.walk.taken ||| g.walk.kept) t)
  let g1 := if f.control then g else path.foldl (fun g t => g.wpc t (p + 4)) g
  let s1 := s.setGrp i { g1 with windows := f.windows g1.windows, walkFrom := none, walk := .none }
  let s2 := if ordered && g.lc / 64 < lc / 64 then s1.closeOrWait i (g.lc / 64) lc
    else s1.modGrp i (fun g => { g with lc := lc })
  let s3 := (s2.selectPath i (path ++ moved) p).stayAwake i |>.retireDone i
  match f.after with
  | none => s3
  | some t => s3.deliver i t

/-! ### The issue -/

/-- The trap of an illegal word (R272, R388). -/
def State.illegalTrap (s : State) (thread : Nat) : Trap :=
  { Trap.plain codeIllegal thread with aux := s.pfx.getD 0, info := s.ir.setWidth 64 }

/-- The thread at which the faults of an instruction are recorded before its walk (R209, R264, R272). -/
def Form.lead (f : Form) (g : Group) : Nat := if f.full then g.lowestAlive else g.lowest

/-- The register that a LOOKAHEAD record names, of those that meet a window: the lowest-numbered in ORDERED mode, where
the record is the same on every run (R137), any of them in FREE mode (R264, R388; log 10). -/
def State.namedConflict (s : State) (ks : List Nat) : Nat × State :=
  if ks.length ≤ 1 || (s.gridOf s.cur).ordered then (minOf ks, s)
  else
    let (v, s1) := s.free
    (ks.getD (v.toNat % ks.length) 0, s1)

/-- Loads and atomics whose window has closed have returned before the next issue (R263). -/
def State.beginIssue (s : State) : State := s.drain s.cur (fun f => f.kind ≠ 1 && !s.me.windowOpen f)

/-- What a group has in flight may all be performed: its writes lie before the present round of every domain, and none of
its loads waits for a store that does not (R58, R133). -/
def State.flightsOk (s : State) (i : Nat) : Bool :=
  let fs := (s.grp i).flight.filter (fun f => !f.scratch)
  s.linesOk noDomain ((fs.filter Flight.writes).map (fun f => f.addr / 64)) &&
    fs.all (fun f => f.writes || !s.loadHeld i f.via f.addr f.n)

/-- A FREE group with writes in flight while a write may not land waits (R133); so does a group whose round is being
closed (R177), or which waits for a host completion, a synchronisation resource or the end of its HALTCTX
(R45, R189, R384). -/
def State.held (s : State) : Bool :=
  s.me.closing.isSome || s.me.hostReq.isSome || s.me.nack.any (fun n => !n.granted) ||
    s.me.haltWait.isSome || !s.flightsOk s.cur

/-- Issues an instruction: the checks, its walk, and `fin` when the walk is complete. -/
def State.runWith (s : State) (f : Form) (body : State → Walk) (fin : State → State) : State :=
  if s.held then s
  else
    let s1 := s.beginIssue
    let i := s1.cur
    let g := s1.grp i
    if f.illegal (s1.gridOf i).nregs then
      s1.deliver i { s1.illegalTrap (f.lead g) with whole := f.whole }
    else
      match f.conflicts g.windows with
      | [] =>
        match body s1 with
        | .done s2 => fin s2
        | .stop s2 y => s2.stopAt i f.whole y
      | ks =>
        let (k, s2) := s1.namedConflict ks
        s2.deliver i { Trap.plain codeLookahead (f.lead g) with detail := BitVec.ofNat 16 k, whole := f.whole }

/-- Issues an ordinary instruction. -/
def State.run (s : State) (f : Form) (body : State → Walk) : State :=
  s.runWith f body (fun t => t.complete f s.me.path)

/-- The outcome of an instruction: always a next state. -/
def State.issue (s : State) (f : Form) (body : State → Walk) : Host.Outcome State Fault Refusal :=
  .next (s.run f body)

/-! ### Walks -/

/-- The threads that the walk still has to visit, ascending (R32, R110). -/
def State.allWalkers (s : State) : List Nat :=
  s.me.path.filter (fun t => match s.me.walkFrom with | none => true | some k => k ≤ t)

/-- Those that this part of the walk visits: a stop leaves the others for later (R110, R399). -/
def State.walkers (s : State) : List Nat :=
  s.allWalkers.filter (fun t => match s.cut with | none => true | some c => t < c)

/-- The end of a part of the walk: it is complete, or it has been stopped. -/
def State.endWalk (s : State) : Walk :=
  match s.cut with
  | none => .done s
  | some c =>
    if s.allWalkers.all (· < c) then .done s else .stop s (.wait (max c (s.me.walkFrom.getD 0)))

/-- Moves a thread to a branch target. -/
def Group.take' (g : Group) (t pc : Nat) : Group :=
  { g.wpc t pc with walk := { g.walk with taken := g.walk.taken ||| (1#32 <<< t) } }

/-- Moves a thread to the next word. -/
def Group.keep (g : Group) (t pc : Nat) : Group :=
  { g.wpc t pc with walk := { g.walk with kept := g.walk.kept ||| (1#32 <<< t) } }

/-- The walk of a per-thread instruction. -/
def walkThreads (ts : List Nat) (f : Nat → State → Walk) (s : State) : Walk :=
  match ts with
  | [] => .done s
  | t :: r => (f t s).bind (walkThreads r f)

/-- The walk of some of the threads to visit, up to where it stops. -/
def State.walk (s : State) (ts : List Nat) (f : Nat → State → Walk) : Walk := (walkThreads ts f s).bind State.endWalk

/-- A per-thread instruction that reads and writes registers only (R282). -/
def State.alu (s : State) (f : Nat → Group → Group) : Walk :=
  (s.modMe (fun g => s.walkers.foldl (fun g t => f t g) g)).endWalk

/-- A uniform instruction that reads and writes the group's own state only (R208). -/
def State.once (s : State) (f : Group → Group) : Walk := .done (s.modMe f)

/-- Full-group check of R209. -/
def State.needFull (s : State) (k : State → Walk) : Walk :=
  let g := s.me
  if g.path = g.alive then k s
  else
    .stop s (.trap { Trap.plain codePartialMask g.lowestAlive with
      aux := maskOf g.path, info := (maskOf g.alive).setWidth 64 })

end Sys2Proof.Machine
end

