-- ==== Sys2Proof/Machine/Integer.lean ====
section
/-!
DEFINITION. Integer, address and uniform instructions (R285 to R297): the functions on words, and one meaning per
instruction.
-/
namespace Sys2Proof.Machine

/-! ### Functions on words (R285, R291, R292) -/

/-- Shift amount: the low five bits (R285). -/
def shiftOf (b : Word) : Nat := (b.extractLsb' 0 5).toNat

/-- A signed value clamped to 32 bits. -/
def satWord (k : Int) : Word :=
  BitVec.ofInt 32 (if k < -2 ^ 31 then -2 ^ 31 else if 2 ^ 31 - 1 < k then 2 ^ 31 - 1 else k)

/-- MIN. -/
def intMin (a b : Word) : Word := if a.slt b then a else b
/-- MAX. -/
def intMax (a b : Word) : Word := if a.slt b then b else a
/-- MINZ. -/
def intMinz (a b : Word) : Word := if a.ult b then a else b
/-- MAXZ. -/
def intMaxz (a b : Word) : Word := if a.ult b then b else a
/-- MULH: the upper half of the signed product. -/
def intMulh (a b : Word) : Word := BitVec.ofInt 32 (a.toInt * b.toInt / 2 ^ 32)
/-- MULHZ: the upper half of the unsigned product. -/
def intMulhz (a b : Word) : Word := BitVec.ofNat 32 (a.toNat * b.toNat / 2 ^ 32)
/-- ABSD. -/
def intAbsd (a b : Word) : Word := BitVec.ofNat 32 (a.toInt - b.toInt).natAbs
/-- SHL. -/
def intShl (a b : Word) : Word := a <<< shiftOf b
/-- SHR. -/
def intShr (a b : Word) : Word := a >>> shiftOf b
/-- SAR. -/
def intSar (a b : Word) : Word := a.sshiftRight (shiftOf b)
/-- ROTL. -/
def intRotl (a b : Word) : Word := a.rotateLeft (shiftOf b)
/-- SADD. -/
def intSadd (a b : Word) : Word := satWord (a.toInt + b.toInt)
/-- SSUB. -/
def intSsub (a b : Word) : Word := satWord (a.toInt - b.toInt)
/-- POPC. -/
def intPopc (a : Word) : Word := BitVec.ofNat 32 ((List.range 32).filter (fun i => a.getLsbD i)).length
/-- CLZ. -/
def intClz (a : Word) : Word := if a = 0 then 32 else BitVec.ofNat 32 (31 - a.toNat.log2)
/-- BREV. -/
def intBrev (a : Word) : Word := a.reverse

/-- The field of `len + 1` bits at `pos` (R292). -/
def fieldMask (pos len : BitVec 5) : Word := BitVec.ofNat 32 ((2 ^ (len.toNat + 1) - 1) * 2 ^ pos.toNat)
/-- BFEZ. -/
def bitBfez (a : Word) (pos len : BitVec 5) : Word :=
  BitVec.ofNat 32 (a.toNat / 2 ^ pos.toNat % 2 ^ (len.toNat + 1))
/-- BFE. -/
def bitBfe (a : Word) (pos len : BitVec 5) : Word :=
  ((bitBfez a pos len).setWidth (len.toNat + 1)).signExtend 32
/-- BFI. -/
def bitBfi (d a : Word) (pos len : BitVec 5) : Word :=
  (d &&& ~~~(fieldMask pos len)) ||| ((a <<< pos.toNat) &&& fieldMask pos len)

/-! ### Shapes -/

/-- Format A with two sources: singles, pairs or quads (R256), no addend. -/
def formA (s : State) (d a b : BitVec 7) (nd na nb : Nat) : Form :=
  { xr := [(d.toNat, nd), (a.toNat, na), (b.toNat, nb)], dst := some (false, d.toNat, nd), la := pfxLa s.pfx,
    pfx := pfxOpd false s.pfx }

/-- Format A with one source. -/
def formA1 (s : State) (d a : BitVec 7) (nd na : Nat) : Form :=
  { xr := [(d.toNat, nd), (a.toNat, na)], dst := some (false, d.toNat, nd), la := pfxLa s.pfx,
    pfx := pfxOpd false s.pfx }

/-- Format A with an addend of `n` registers (R268). -/
def formAddend (s : State) (d a b : BitVec 7) (n : Nat) : Form :=
  { xr := [(d.toNat, n), (a.toNat, 1), (b.toNat, 1), (pfxAddend s.pfx d, n)], dst := some (false, d.toNat, n),
    la := pfxLa s.pfx, pfx := pfxOpd true s.pfx }

/-- Each active thread: one destination from two sources. -/
def State.alu2 (s : State) (op : Word → Word → Word) (d a b : BitVec 7) : Host.Outcome State Fault Refusal :=
  s.issue (formA s d a b 1 1 1)
    (fun s => s.alu (fun t g => g.wx t d.toNat (op (g.rx t a.toNat) (g.rx t b.toNat))))

/-- Each active thread: one destination from one source. -/
def State.alu1 (s : State) (op : Word → Word) (d a : BitVec 7) : Host.Outcome State Fault Refusal :=
  s.issue (formA1 s d a 1 1) (fun s => s.alu (fun t g => g.wx t d.toNat (op (g.rx t a.toNat))))

/-- Each active thread: a pair from two pairs. -/
def State.alu64 (s : State) (op : Dword → Dword → Dword) (d a b : BitVec 7) : Host.Outcome State Fault Refusal :=
  s.issue (formA s d a b 2 2 2)
    (fun s => s.alu (fun t g => g.wx64 t d.toNat (op (g.rx64 t a.toNat) (g.rx64 t b.toNat))))

/-- Format B: a source and an immediate, which XT.IMM may replace (R286). -/
def State.aluImm (s : State) (op : Word → Word → Word) (d a : BitVec 7) (i : BitVec 12) (ext : Word) :
    Host.Outcome State Fault Refusal :=
  s.issue { xr := [(d.toNat, 1), (a.toNat, 1)], dst := some (false, d.toNat, 1), pfx := pfxImm 20 s.pfx }
    (fun s => s.alu (fun t g => g.wx t d.toNat (op (g.rx t a.toNat) (immB s.pfx i ext))))

/-- SHFI: a source and a constant amount, no prefix (R287). -/
def State.aluShift (s : State) (op : Word → Word → Word) (d a : BitVec 7) (n : BitVec 5) :
    Host.Outcome State Fault Refusal :=
  s.issue { xr := [(d.toNat, 1), (a.toNat, 1)], dst := some (false, d.toNat, 1), pfx := pfxNone s.pfx }
    (fun s => s.alu (fun t g => g.wx t d.toNat (op (g.rx t a.toNat) (n.setWidth 32))))

/-- Format BF with or without the old destination as a source (R292). -/
def State.aluField (s : State) (op : Word → Word → Word) (xr : List (Nat × Nat)) (d a : BitVec 7) :
    Host.Outcome State Fault Refusal :=
  s.issue { xr := (d.toNat, 1) :: xr, dst := some (false, d.toNat, 1), la := pfxLa s.pfx,
            pfx := pfxOpd false s.pfx }
    (fun s => s.alu (fun t g => g.wx t d.toNat (op (g.rx t d.toNat) (g.rx t a.toNat))))

/-- UALU: once for the path (R295). -/
def State.ualu (s : State) (op : Word → Word → Word) (d a b : BitVec 5) : Host.Outcome State Fault Refusal :=
  s.issue { gr := [(d.toNat, 1), (a.toNat, 1), (b.toNat, 1)], pfx := pfxNone s.pfx }
    (fun s => s.once (fun g => g.wg' d.toNat (op (g.rg a.toNat) (g.rg b.toNat))))

/-! ### IALU (R285) -/

/-- ADD. -/
def execAdd (d a b : BitVec 7) (s : State) : Host.Outcome State Fault Refusal := s.alu2 (· + ·) d a b
/-- SUB. -/
def execSub (d a b : BitVec 7) (s : State) : Host.Outcome State Fault Refusal := s.alu2 (· - ·) d a b
/-- AND. -/
def execAnd (d a b : BitVec 7) (s : State) : Host.Outcome State Fault Refusal := s.alu2 (· &&& ·) d a b
/-- OR. -/
def execOr (d a b : BitVec 7) (s : State) : Host.Outcome State Fault Refusal := s.alu2 (· ||| ·) d a b
/-- XOR. -/
def execXor (d a b : BitVec 7) (s : State) : Host.Outcome State Fault Refusal := s.alu2 (· ^^^ ·) d a b
/-- ANDN. -/
def execAndn (d a b : BitVec 7) (s : State) : Host.Outcome State Fault Refusal :=
  s.alu2 (fun x y => x &&& ~~~y) d a b
/-- SHL. -/
def execShl (d a b : BitVec 7) (s : State) : Host.Outcome State Fault Refusal := s.alu2 intShl d a b
/-- SHR. -/
def execShr (d a b : BitVec 7) (s : State) : Host.Outcome State Fault Refusal := s.alu2 intShr d a b
/-- SAR. -/
def execSar (d a b : BitVec 7) (s : State) : Host.Outcome State Fault Refusal := s.alu2 intSar d a b
/-- ROTL. -/
def execRotl (d a b : BitVec 7) (s : State) : Host.Outcome State Fault Refusal := s.alu2 intRotl d a b
/-- MIN. -/
def execMin (d a b : BitVec 7) (s : State) : Host.Outcome State Fault Refusal := s.alu2 intMin d a b
/-- MAX. -/
def execMax (d a b : BitVec 7) (s : State) : Host.Outcome State Fault Refusal := s.alu2 intMax d a b
/-- MINZ. -/
def execMinz (d a b : BitVec 7) (s : State) : Host.Outcome State Fault Refusal := s.alu2 intMinz d a b
/-- MAXZ. -/
def execMaxz (d a b : BitVec 7) (s : State) : Host.Outcome State Fault Refusal := s.alu2 intMaxz d a b
/-- MUL. -/
def execMul (d a b : BitVec 7) (s : State) : Host.Outcome State Fault Refusal := s.alu2 (· * ·) d a b
/-- MULH. -/
def execMulh (d a b : BitVec 7) (s : State) : Host.Outcome State Fault Refusal := s.alu2 intMulh d a b
/-- MULHZ. -/
def execMulhz (d a b : BitVec 7) (s : State) : Host.Outcome State Fault Refusal := s.alu2 intMulhz d a b
/-- ABSD. -/
def execAbsd (d a b : BitVec 7) (s : State) : Host.Outcome State Fault Refusal := s.alu2 intAbsd d a b
/-- ADD64. -/
def execAdd64 (d a b : BitVec 7) (s : State) : Host.Outcome State Fault Refusal := s.alu64 (· + ·) d a b
/-- SUB64. -/
def execSub64 (d a b : BitVec 7) (s : State) : Host.Outcome State Fault Refusal := s.alu64 (· - ·) d a b
/-- POPC. -/
def execPopc (d a : BitVec 7) (s : State) : Host.Outcome State Fault Refusal := s.alu1 intPopc d a
/-- CLZ. -/
def execClz (d a : BitVec 7) (s : State) : Host.Outcome State Fault Refusal := s.alu1 intClz d a
/-- BREV. -/
def execBrev (d a : BitVec 7) (s : State) : Host.Outcome State Fault Refusal := s.alu1 intBrev d a
/-- SADD. -/
def execSadd (d a b : BitVec 7) (s : State) : Host.Outcome State Fault Refusal := s.alu2 intSadd d a b
/-- SSUB. -/
def execSsub (d a b : BitVec 7) (s : State) : Host.Outcome State Fault Refusal := s.alu2 intSsub d a b

/-! ### Immediate forms (R286 to R288) -/

/-- ADDI. -/
def execAddi (d a : BitVec 7) (i : BitVec 12) (s : State) : Host.Outcome State Fault Refusal :=
  s.aluImm (· + ·) d a i (i.signExtend 32)
/-- ANDI. -/
def execAndi (d a : BitVec 7) (i : BitVec 12) (s : State) : Host.Outcome State Fault Refusal :=
  s.aluImm (· &&& ·) d a i (i.setWidth 32)
/-- ORI. -/
def execOri (d a : BitVec 7) (i : BitVec 12) (s : State) : Host.Outcome State Fault Refusal :=
  s.aluImm (· ||| ·) d a i (i.setWidth 32)
/-- XORI. -/
def execXori (d a : BitVec 7) (i : BitVec 12) (s : State) : Host.Outcome State Fault Refusal :=
  s.aluImm (· ^^^ ·) d a i (i.setWidth 32)
/-- SHFI.SHL. -/
def execShfiShl (d a : BitVec 7) (n : BitVec 5) (s : State) : Host.Outcome State Fault Refusal :=
  s.aluShift intShl d a n
/-- SHFI.SHR. -/
def execShfiShr (d a : BitVec 7) (n : BitVec 5) (s : State) : Host.Outcome State Fault Refusal :=
  s.aluShift intShr d a n
/-- SHFI.SAR. -/
def execShfiSar (d a : BitVec 7) (n : BitVec 5) (s : State) : Host.Outcome State Fault Refusal :=
  s.aluShift intSar d a n
/-- SHFI.ROTL. -/
def execShfiRotl (d a : BitVec 7) (n : BitVec 5) (s : State) : Host.Outcome State Fault Refusal :=
  s.aluShift intRotl d a n
/-- MOVI. -/
def execMovi (d : BitVec 7) (i : BitVec 19) (s : State) : Host.Outcome State Fault Refusal :=
  s.issue { xr := [(d.toNat, 1)], dst := some (false, d.toNat, 1), pfx := pfxNone s.pfx }
    (fun s => s.alu (fun t g => g.wx t d.toNat (i.signExtend 32)))
/-- MOVH. -/
def execMovh (d : BitVec 7) (i : BitVec 19) (s : State) : Host.Outcome State Fault Refusal :=
  s.issue { xr := [(d.toNat, 1)], dst := some (false, d.toNat, 1), pfx := pfxNone s.pfx }
    (fun s => s.alu (fun t g => g.wx t d.toNat (i ++ (g.rx t d.toNat).extractLsb' 0 13)))

/-! ### Compares and selection (R289, R290) -/

/-- ICMP: 32-bit words for type 0, pairs for type 1. -/
def execIcmp (p : BitVec 3) (m : BitVec 2) (a b : BitVec 7) (c : BitVec 4) (t : BitVec 3) (s : State) :
    Host.Outcome State Fault Refusal :=
  let n := if t = 0 then 1 else 2
  s.issue { xr := [(a.toNat, n), (b.toNat, n)], pfx := pfxNone s.pfx, bad := p == 7 }
    (fun s => s.alu (fun k g => g.wp k p.toNat (combine m (g.rp k p.toNat)
      (if t = 0 then intCond c.toNat (g.rx k a.toNat) (g.rx k b.toNat)
       else intCond c.toNat (g.rx64 k a.toNat) (g.rx64 k b.toNat)))))
/-- ICMPI. -/
def execIcmpi (p : BitVec 3) (c : BitVec 4) (a : BitVec 7) (i : BitVec 12) (s : State) :
    Host.Outcome State Fault Refusal :=
  s.issue { xr := [(a.toNat, 1)], pfx := pfxImm 20 s.pfx, bad := p == 7 }
    (fun s => s.alu (fun k g => g.wp k p.toNat
      (intCond c.toNat (g.rx k a.toNat) (immB s.pfx i (i.signExtend 32)))))
/-- SEL. -/
def execSel (d a b : BitVec 7) (g : BitVec 4) (s : State) : Host.Outcome State Fault Refusal :=
  s.issue { xr := [(d.toNat, 1), (a.toNat, 1), (b.toNat, 1)], pfx := pfxNone s.pfx }
    (fun s => s.alu (fun t r => r.wx t d.toNat (if r.guard t g then r.rx t a.toNat else r.rx t b.toNat)))

/-! ### Multiply-add (R291) -/

/-- IMAD. -/
def execImad (d a b : BitVec 7) (s : State) : Host.Outcome State Fault Refusal :=
  s.issue (formAddend s d a b 1) (fun s => s.alu (fun t g =>
    g.wx t d.toNat (g.rx t a.toNat * g.rx t b.toNat + g.rx t (pfxAddend s.pfx d))))
/-- IMADW. -/
def execImadw (d a b : BitVec 7) (s : State) : Host.Outcome State Fault Refusal :=
  s.issue (formAddend s d a b 2) (fun s => s.alu (fun t g =>
    g.wx64 t d.toNat ((g.rx t a.toNat).signExtend 64 * (g.rx t b.toNat).signExtend 64 +
      g.rx64 t (pfxAddend s.pfx d))))
/-- IMADWZ. -/
def execImadwz (d a b : BitVec 7) (s : State) : Host.Outcome State Fault Refusal :=
  s.issue (formAddend s d a b 2) (fun s => s.alu (fun t g =>
    g.wx64 t d.toNat ((g.rx t a.toNat).setWidth 64 * (g.rx t b.toNat).setWidth 64 +
      g.rx64 t (pfxAddend s.pfx d))))

/-! ### Bit fields (R292) -/

/-- BFE. -/
def execBfe (d a : BitVec 7) (p l : BitVec 5) (s : State) : Host.Outcome State Fault Refusal :=
  s.aluField (fun _ x => bitBfe x p l) [(a.toNat, 1)] d a
/-- BFEZ. -/
def execBfez (d a : BitVec 7) (p l : BitVec 5) (s : State) : Host.Outcome State Fault Refusal :=
  s.aluField (fun _ x => bitBfez x p l) [(a.toNat, 1)] d a
/-- BFI. -/
def execBfi (d a : BitVec 7) (p l : BitVec 5) (s : State) : Host.Outcome State Fault Refusal :=
  s.aluField (fun o x => bitBfi o x p l) [(a.toNat, 1)] d a
/-- BMSK. -/
def execBmsk (d : BitVec 7) (p l : BitVec 5) (s : State) : Host.Outcome State Fault Refusal :=
  s.aluField (fun _ _ => fieldMask p l) [] d d

/-! ### Pointers (R293, R294) -/

/-- An ADDRESS with DETAIL 0 (R495): INFO holds the pointer operand. -/
def addressTrap (t : Nat) (p : Dword) : Trap := { Trap.plain codeAddress t with info := p }

/-- A thread has its result and moves on, so that a handler entered from a later thread finds it there (R305). -/
def State.pass (s : State) (t : Nat) (f : Group → Group) : Walk :=
  .done (s.modMe (fun g => (f g).keep t (s.wordPc + 4)))

/-- PADD. -/
def execPadd (d a b : BitVec 7) (s : State) : Host.Outcome State Fault Refusal :=
  s.issue (formA s d a b 2 2 1) (fun s => s.walk s.walkers (fun t s =>
    let p := s.me.rx64 t a.toNat
    let o : Int := ptrOffset p + (s.me.rx t b.toNat).toInt
    let e := effPtr p (s.me.rx t b.toNat).toInt
    if o < 0 || 2 ^ 55 ≤ o then .stop s (.trap (addressTrap t e))
    else s.pass t (fun g => g.wx64 t d.toNat e)))
/-- PTAG. -/
def execPtag (d a b : BitVec 7) (s : State) : Host.Outcome State Fault Refusal :=
  s.issue (formA s d a b 2 2 1) (fun s => s.alu (fun t g =>
    let v := g.rx t b.toNat
    g.wx64 t d.toNat (v.extractLsb' 0 4 ++ v.extractLsb' 4 5 ++ (g.rx64 t a.toNat).extractLsb' 0 55)))
/-- PRANK. -/
def execPrank (d a b : BitVec 7) (s : State) : Host.Outcome State Fault Refusal :=
  s.issue (formA s d a b 2 2 1) (fun s => s.walk s.walkers (fun t s =>
    let p := s.me.rx64 t a.toNat
    let r := s.me.rx t b.toNat
    if ptrSpace p ≠ 1 || (s.gridOf s.cur).teamCores ≤ r.toNat then .stop s (.trap (addressTrap t p))
    else s.pass t (fun g => g.wx64 t d.toNat (p.extractLsb' 60 4 ++ r.extractLsb' 0 5 ++ p.extractLsb' 0 55))))
/-- The pointer passes steps 1 to 4 of R33 as a one-byte load (R293). -/
def State.pointerOk (s : State) (i : Nat) (p : Dword) : Bool :=
  ptrSpace p < 6 && (ptrSpace p ≠ 5 || (s.grp i).priv = 2) && s.spaceStep i p 0 1 == none
/-- PINFO. -/
def execPinfo (d a : BitVec 7) (s : State) : Host.Outcome State Fault Refusal :=
  s.issue (formA1 s d a 1 2) (fun s => s.alu (fun t g =>
    let p := g.rx64 t a.toNat
    g.wx t d.toNat (0#22 ++ BitVec.ofBool (s.pointerOk s.cur p) ++ p.extractLsb' 55 5 ++ p.extractLsb' 60 4)))
/-- PHND. -/
def execPhnd (d a : BitVec 7) (s : State) : Host.Outcome State Fault Refusal :=
  s.issue (formA1 s d a 1 2) (fun s => s.walk s.walkers (fun t s =>
    let p := s.me.rx64 t a.toNat
    if ptrSpace p ≠ 1 || p.extractLsb' 19 36 ≠ 0 then .stop s (.trap (addressTrap t p))
    else s.pass t (fun g => g.wx t d.toNat (p.extractLsb' 55 5 ++ 0#8 ++ p.extractLsb' 0 19))))

/-! ### Uniform arithmetic (R295, R296) -/

/-- UADD. -/
def execUadd (d a b : BitVec 5) (s : State) : Host.Outcome State Fault Refusal := s.ualu (· + ·) d a b
/-- USUB. -/
def execUsub (d a b : BitVec 5) (s : State) : Host.Outcome State Fault Refusal := s.ualu (· - ·) d a b
/-- UAND. -/
def execUand (d a b : BitVec 5) (s : State) : Host.Outcome State Fault Refusal := s.ualu (· &&& ·) d a b
/-- UOR. -/
def execUor (d a b : BitVec 5) (s : State) : Host.Outcome State Fault Refusal := s.ualu (· ||| ·) d a b
/-- UXOR. -/
def execUxor (d a b : BitVec 5) (s : State) : Host.Outcome State Fault Refusal := s.ualu (· ^^^ ·) d a b
/-- USHL. -/
def execUshl (d a b : BitVec 5) (s : State) : Host.Outcome State Fault Refusal := s.ualu intShl d a b
/-- USHR. -/
def execUshr (d a b : BitVec 5) (s : State) : Host.Outcome State Fault Refusal := s.ualu intShr d a b
/-- USAR. -/
def execUsar (d a b : BitVec 5) (s : State) : Host.Outcome State Fault Refusal := s.ualu intSar d a b
/-- UMUL. -/
def execUmul (d a b : BitVec 5) (s : State) : Host.Outcome State Fault Refusal := s.ualu (· * ·) d a b
/-- UMIN. -/
def execUmin (d a b : BitVec 5) (s : State) : Host.Outcome State Fault Refusal := s.ualu intMin d a b
/-- UMAX. -/
def execUmax (d a b : BitVec 5) (s : State) : Host.Outcome State Fault Refusal := s.ualu intMax d a b
/-- UMINZ. -/
def execUminz (d a b : BitVec 5) (s : State) : Host.Outcome State Fault Refusal := s.ualu intMinz d a b
/-- UMAXZ. -/
def execUmaxz (d a b : BitVec 5) (s : State) : Host.Outcome State Fault Refusal := s.ualu intMaxz d a b
/-- UADDI. -/
def execUaddi (d a : BitVec 5) (i : BitVec 16) (s : State) : Host.Outcome State Fault Refusal :=
  s.issue { gr := [(d.toNat, 1), (a.toNat, 1)], pfx := pfxImm 16 s.pfx }
    (fun s => s.once (fun g => g.wg' d.toNat (g.rg a.toNat + immUi s.pfx i (i.signExtend 32))))
/-- UMOVI. -/
def execUmovi (d : BitVec 5) (i : BitVec 16) (s : State) : Host.Outcome State Fault Refusal :=
  s.issue { gr := [(d.toNat, 1)], pfx := pfxImm 16 s.pfx }
    (fun s => s.once (fun g => g.wg' d.toNat (immUi s.pfx i (i.signExtend 32))))
/-- UMOVH. -/
def execUmovh (d : BitVec 5) (i : BitVec 16) (s : State) : Host.Outcome State Fault Refusal :=
  s.issue { gr := [(d.toNat, 1)], pfx := pfxNone s.pfx }
    (fun s => s.once (fun g => g.wg' d.toNat (i ++ (g.rg d.toNat).extractLsb' 0 16)))

/-! ### Moves between thread and uniform registers (R297) -/

/-- RDG. -/
def execRdg (x : BitVec 7) (g : BitVec 5) (s : State) : Host.Outcome State Fault Refusal :=
  s.issue { xr := [(x.toNat, 1)], gr := [(g.toNat, 1)], pfx := pfxNone s.pfx }
    (fun s => s.alu (fun t r => r.wx t x.toNat (r.rg g.toNat)))
/-- WRGF. -/
def execWrgf (x : BitVec 7) (g : BitVec 5) (s : State) : Host.Outcome State Fault Refusal :=
  s.issue { xr := [(x.toNat, 1)], gr := [(g.toNat, 1)], pfx := pfxNone s.pfx }
    (fun s => s.once (fun r => r.wg' g.toNat (r.rx r.lowest x.toNat)))
/-- WRGT. -/
def execWrgt (x : BitVec 7) (g : BitVec 5) (n : BitVec 5) (s : State) : Host.Outcome State Fault Refusal :=
  s.issue { xr := [(x.toNat, 1)], gr := [(g.toNat, 1)], pfx := pfxNone s.pfx }
    (fun s => s.once (fun r => r.wg' g.toNat (r.rx n.toNat x.toNat)))

end Sys2Proof.Machine
end

