-- ==== Sys2Proof/Machine/LoadStore.lean ====
section
/-!
DEFINITION. Loads, stores and atomics (R325 to R336): one thread's access, from its check to its effect, and one
meaning per instruction.
-/
namespace Sys2Proof.Machine

/-! ### One access -/

/-- An access of a thread. -/
structure Acc where
  /-- The thread. -/
  thread : Nat
  /-- Pointer. -/
  ptr : Dword
  /-- Displacement in bytes. -/
  disp : Int
  /-- Bytes. -/
  size : Nat
  /-- Natural alignment is asked for: .A8 or .A16 (R31). -/
  natural : Bool
  /-- Sign-extension of a load. -/
  sx : Bool
  /-- A uniform destination. -/
  uni : Bool
  /-- First register of the destination. -/
  reg : Nat
  /-- Cache policy (R266). -/
  policy : Nat
  /-- Colour of a store. -/
  colour : BitVec 3
  /-- Value of a store. -/
  data : BitVec 128
  deriving DecidableEq, Repr

/-- The request flit of a group's access to a peer: with the bytes of a store (R457). -/
def State.askPeer (s : State) (i : Nat) (ptr : Dword) (data : List Byte) : State :=
  let o := ptrOffset ptr
  if toPeer o then s.peerFlit (s.gridOf i) o data else s

/-- A host or peer access leaves the core; its thread waits for the completion (R45, R46, R134). -/
def State.hostIssue (s : State) (a : Acc) (ptr : Dword) (store : Bool) : Walk :=
  let r : HostReq := ⟨ptr, a.size, store, a.thread, a.uni, a.reg, a.sx, a.data, s.me.gen⟩
  let s1 := s.askPeer s.cur ptr (if store then leBytes a.size a.data.toNat else [])
  .stop ((s1.external s.cur).modMe (fun g => { g with hostReq := some r, walk := { g.walk with close := true } }))
    (.wait a.thread)

/-- An MMIO access follows every earlier access of its group (R50, R162). -/
def State.beforeMmio (s : State) : State :=
  ((s.settleMxu s.cur).drain s.cur (fun _ => true)).external s.cur |>.modMe
    (fun g => { g with walk := { g.walk with close := true } })

/-- Pieces of an access put in flight (R53, R152). -/
def State.fly (s : State) (a : Acc) (x : Target) (kind : Nat) (atom : Option AtomReq) (res : Bool) : State :=
  let scratch := x.reach == .scratch
  let v := s.viaTo s.cur a.policy x
  let fs : List Flight := (pieces (a.natural || atom.isSome) x.addr a.size).map (fun p =>
    { gen := s.me.gen, kind := kind, thread := a.thread, uni := a.uni, reg := a.reg, lo := p.1, n := p.2,
      size := a.size, sx := a.sx, scratch := scratch, addr := x.addr + p.1, ptr := x.ptr,
      colour := a.colour, via := v, data := a.data >>> (8 * p.1), atom := atom, res := res })
  s.modMe (fun g => { g with flight := g.flight ++ fs })

/-- Earlier accesses of the group to the same units come first (R154). -/
def State.orderUnits (s : State) (x : Target) (size : Nat) : State :=
  (if x.reach = .scratch then s.settleMxu s.cur else s).drain s.cur
    (fun f => f.meets (x.reach == .scratch) x.addr size)

/-- Every byte of an ORDERED access is in the group's take buffer (R142). -/
def State.covered (s : State) (x : Target) (size : Nat) : Bool :=
  (s.gridOf s.cur).ordered &&
    (List.range size).all (fun k => (takeByte s.me.take (x.reach == .scratch) x.rank (x.off + k)).isSome)

/-- The value of an ORDERED load: the bytes of the group's own take buffer, and the others by the path of R53 (R54,
R60, R142). -/
def State.ordLoad (s : State) (a : Acc) (x : Target) : Nat × State :=
  let i := s.cur
  let scratch := x.reach == .scratch
  let filled := fun (v : Nat) => overTake s.me.take scratch x.rank x.off a.size v
  if scratch then (filled (s.peek true x.addr a.size), s)
  else if s.covered x a.size then (filled 0, s)
  else
    let (v, s1) := s.readMem i (s.viaTo i a.policy x) x.addr a.size
    (filled v, s1.noteRead i false x.addr a.size)

/-- The load of one thread (R142, R159, R329, R333). -/
def State.loadAt (s : State) (u : Use) (a : Acc) : Walk :=
  let i := s.cur
  match s.check i a.thread u a.ptr a.disp a.size a.natural with
  | (s1, .error y) => .stop s1 y
  | (s1, .ok x) =>
    if x.reach = .host then s1.hostIssue a x.ptr false
    else if x.reach = .mmio then
      let (v, s2) := s1.beforeMmio.mmioRead x.off a.size
      .done (s2.modMe (fun g => g.setLoaded a.uni a.thread a.reg a.size a.sx v))
    else
      let scratch := x.reach == .scratch
      match if s1.covered x a.size then none else s1.poisonAt scratch x.addr a.size with
      | some e => .stop s1 (.trap (eccTrap (if u = .uload then s1.me.lowestAlive else a.thread) e))
      | none =>
        if (s1.gridOf i).ordered then
          let (v, s2) := s1.ordLoad a x
          .done (s2.modMe (fun g => g.setLoaded a.uni a.thread a.reg a.size a.sx v))
        else if !scratch && s1.loadHeld i (s1.viaTo i a.policy x) x.addr a.size then .stop s1 (.wait a.thread)
        else if s1.late then .done ((s1.orderUnits x a.size).fly a x 0 none false)
        else
          let s2 := s1.orderUnits x a.size
          let (v, s3) := if scratch then (s2.peek true x.addr a.size, s2)
            else s2.readMem i (s2.viaTo i a.policy x) x.addr a.size
          .done (s3.modMe (fun g => g.setLoaded a.uni a.thread a.reg a.size a.sx v))

/-- The access of a load that is sent again. -/
def Flight.again (f : Flight) : Acc :=
  ⟨f.thread, f.ptr, 0, f.size, false, f.sx, f.uni, f.reg, f.via.policy, 0, 0⟩

/-- The oldest load of group `i` that is to be sent again is checked, translated and performed anew: its translation fault
is that of a thread's load, raised at its thread (R93, R94, R400; log 109). -/
def State.resend (s : State) (i : Nat) : State :=
  match (s.grp i).flight.find? (s.grp i).stale with
  | none => s
  | some f =>
    let a := f.again
    let t := if f.uni then (s.grp i).lowestAlive else f.thread
    match ({ s with cur := i } : State).check i t (if f.uni then .uload else .load) f.ptr 0 f.size false with
    | (s1, .error (.trap y)) => s1.deliverResent i y
    | (s1, .error (.xlat x kind va y)) =>
      if s1.faultsRecorded (s1.gridOf i).fn then s1.parkResent i x kind va y else s1.deliverResent i y
    | (s1, .error _) => s1
    | (s1, .ok x) =>
      let scratch := x.reach == .scratch
      match s1.poisonAt scratch x.addr f.size with
      | some e => s1.deliverResent i (eccTrap t e)
      | none =>
        let v := s1.viaTo i a.policy x
        if !scratch && s1.loadHeld i v x.addr f.size then s1
        else
          let s2 := s1.modGrp i (fun g => { g with flight := g.flight.erase f })
          let (n, s3) := if (s2.gridOf i).ordered then s2.ordLoad a x
            else if scratch then (s2.peek true x.addr f.size, s2)
            else s2.readMem i v x.addr f.size
          s3.modGrp i (fun g => g.setLoaded f.uni f.thread f.reg f.size f.sx n)

/-- A FREE access that writes memory waits while a write to its line may not land (R133). -/
def State.mayWrite (s : State) (x : Target) : Bool := x.reach == .scratch || s.linesOk noDomain [x.addr / 64]

/-- Entries of a core's take store in use: those of the groups that run there, but for the spilled ones (R64, R66). -/
def State.takeUsed (s : State) (core : Nat) : Nat :=
  (s.groups.map (fun g =>
    if g.core = core && (s.grd g.grid).st != .saved then (g.take.filter (fun e => !e.spilled)).length else 0)).sum

/-- The oldest entry that lies in the take store goes to the overflow area. -/
def spillOldest : List TakeEntry → List TakeEntry
  | [] => []
  | e :: r => if e.spilled then e :: spillOldest r else { e with spilled := true } :: r

/-- A store that needs an entry while the core's 4,096 are taken spills the oldest of its group: one record with the
entries spilled, one for the new one, and those that the group holds (R66, R411). -/
def State.spill (s : State) (i n : Nat) : State :=
  if n < (s.grp i).take.length && 4096 < s.takeUsed (s.grp i).core then
    (s.modGrp i (fun g => { g with take := spillOldest g.take })).tapGroup i 0x02 1
      (BitVec.ofNat 32 (s.grp i).take.length)
  else s

/-- The store of one thread (R116, R331, R332). It begins once the register writes of the threads before it are complete
(R50). -/
def State.storeAt (s : State) (a : Acc) : Walk :=
  let i := s.cur
  if s.posted ≠ [] then .stop s (.wait a.thread) else
  match s.check i a.thread .store a.ptr a.disp a.size a.natural with
  | (s1, .error y) => .stop s1 y
  | (s1, .ok x) =>
    let bytes := leBytes a.size a.data.toNat
    if x.reach = .host then s1.hostIssue a x.ptr true
    else if x.reach = .mmio then .done (s1.beforeMmio.mmioWrite x.off a.size (leAt bytes 0 a.size))
    else
      let scratch := x.reach == .scratch
      if (s1.gridOf i).ordered then
        let e0 := TakeEntry.blank scratch x.rank x.off x.addr a.policy x.uc
        .done ((s1.modMe (fun g => { g with take := takeBytes g.take e0 x.off bytes })).spill i (s1.grp i).take.length)
      else if !s1.mayWrite x then .stop s1 (.wait a.thread)
      else if s1.late then .done ((s1.orderUnits x a.size).fly a x 1 none false)
      else .done ((s1.orderUnits x a.size).performStore i (s1.viaTo i a.policy x) scratch (cellsOf x.addr bytes))

/-! ### Atomics (R145, R153, R334 to R336) -/

/-- The acquire and release effects of an atomic around its access (R157, R336): `ord` 1 acquires, 2 releases, 3 does
both; on a scratchpad at team scope at most (R151). -/
def State.atomPerform (s : State) (a : Acc) (x : Target) (r : AtomReq) (ord scope : BitVec 2) : State :=
  let i := s.cur
  let res := !r.scratch && s.atomSlot i (sliceNumber x.addr) == some true
  let s0 := s.modMe (fun g => { g with ticket := none, nack := none })
  let s1 := if ord.getLsbD 1 then (s0.settleMxu i).drain i (fun _ => true) else s0.orderUnits x a.size
  if s1.late && !ord.getLsbD 0 then s1.fly a x 2 (some r) res
  else
    let s2 := s1.performAtom i r
    if ord.getLsbD 0 then s2.acquire i (if r.scratch then min 1 scope.toNat else scope.toNat) else s2

/-- The atomic of one thread (R145, R153, R334 to R336). -/
def State.atomOne (s : State) (a : Acc) (op : AtomOp) (wide : Bool) (v n : Dword) (ord scope : BitVec 2) : Walk :=
  let i := s.cur
  match s.check i a.thread .atomic a.ptr 0 a.size true with
  | (s1, .error y) => .stop s1 y
  | (s1, .ok x) =>
    let scratch := x.reach == .scratch
    let r : AtomReq := ⟨a.thread, op, wide, scratch, x.addr, v, n, a.reg⟩
    match s1.poisonAt scratch x.addr a.size with
    | some e => .stop s1 (.trap (eccTrap a.thread e))
    | none =>
      if (s1.gridOf i).ordered then .done (s1.modMe (fun g => { g with ops := g.ops ++ [.atom r] }))
      else if !scratch && s1.atomRefused i x.addr then .stop (s1.refuseFirst i 2 (sliceNumber x.addr)) (.wait a.thread)
      else if s1.mayWrite x then .done (s1.atomPerform a x r ord scope)
      else .stop s1 (.wait a.thread)

/-! ### The take quota (R117) -/

/-- The line that a thread's store would enter in the take buffer, if its checks pass. -/
def State.storeLine (s : State) (t : Nat) (p : Dword) (disp : Int) (size : Nat) (natural : Bool) :
    Option (Bool × Nat × Nat) :=
  match s.checkPlain s.cur t .store p disp size natural with
  | .error _ => none
  | .ok () =>
    let ep := effPtr p disp
    match ptrSpace ep with
    | 0 => some (false, 0, ptrOffset ep / 64)
    | 1 => some (true, ptrRank ep, ptrOffset ep / 64)
    | 2 => some (false, 0, s.privateVa s.cur t (ptrOffset ep) / 64)
    | _ => none

/-- The lines that are not in the take buffer yet. -/
def State.freshLines (s : State) (lines : List (Bool × Nat × Nat)) : List (Bool × Nat × Nat) :=
  lines.eraseDups.filter (fun l => !(s.me.take.map (fun e => (e.scratch, e.rank, e.line))).contains l)

/-- The store must be preceded by a close of the round: n > 0 entries and n + m > E (R117). -/
def State.overQuota (s : State) (lines : List (Bool × Nat × Nat)) : Bool :=
  s.me.take ≠ [] && 16 * (s.gridOf s.cur).takeQuota < s.me.take.length + (s.freshLines lines).length

/-- Applies the quota once to an instruction that stores; its QUOTACLOSE record carries n and m (R117, R411; log 18). -/
def State.withQuota (s : State) (lines : List (Bool × Nat × Nat)) (k : State → Walk) : Walk :=
  if !(s.gridOf s.cur).ordered || s.me.walk.quota then k s
  else
    let s1 := s.modMe (fun g => { g with walk := { g.walk with quota := true } })
    if s.overQuota lines then
      let n := s.me.take.length
      .stop (s1.tapGroup s.cur 0x03 (BitVec.ofNat 32 n) (BitVec.ofNat 32 (s.freshLines lines).length)) .close
    else k s1

/-! ### Thread loads (R329) -/

/-- A thread load of `n` bytes. -/
def State.load (s : State) (n own : Nat) (sx : Bool) (d a : BitVec 7) (l : BitVec 4) (o : BitVec 8) :
    Host.Outcome State Fault Refusal :=
  s.issue
    { xr := [(d.toNat, loadRegs n), (a.toNat, 2)], dst := some (false, d.toNat, loadRegs n), la := l.toNat,
      pfx := pfxLoad own s.pfx }
    (fun s => s.walk s.walkers (fun t s =>
      s.loadAt .load ⟨t, s.me.rx64 t a.toNat, dispL s.pfx o n, n, pfxAtomicity s.pfx ≠ 0, sx, false, d.toNat,
        pfxPolicy s.pfx, 0, 0⟩))

/-- LDB. -/
def execLdb (d a : BitVec 7) (l : BitVec 4) (o : BitVec 8) (s : State) : Host.Outcome State Fault Refusal :=
  s.load 1 0 false d a l o
/-- LDBS. -/
def execLdbs (d a : BitVec 7) (l : BitVec 4) (o : BitVec 8) (s : State) : Host.Outcome State Fault Refusal :=
  s.load 1 0 true d a l o
/-- LDH. -/
def execLdh (d a : BitVec 7) (l : BitVec 4) (o : BitVec 8) (s : State) : Host.Outcome State Fault Refusal :=
  s.load 2 0 false d a l o
/-- LDHS. -/
def execLdhs (d a : BitVec 7) (l : BitVec 4) (o : BitVec 8) (s : State) : Host.Outcome State Fault Refusal :=
  s.load 2 0 true d a l o
/-- LDW. -/
def execLdw (d a : BitVec 7) (l : BitVec 4) (o : BitVec 8) (s : State) : Host.Outcome State Fault Refusal :=
  s.load 4 0 false d a l o
/-- LDD. -/
def execLdd (d a : BitVec 7) (l : BitVec 4) (o : BitVec 8) (s : State) : Host.Outcome State Fault Refusal :=
  s.load 8 1 false d a l o
/-- LDQ. -/
def execLdq (d a : BitVec 7) (l : BitVec 4) (o : BitVec 8) (s : State) : Host.Outcome State Fault Refusal :=
  s.load 16 2 false d a l o

/-! ### Thread stores (R331) -/

/-- The threads of this part of the walk whose guard is true. -/
def State.guarded (s : State) (g : BitVec 4) : List Nat := s.walkers.filter (fun t => s.me.guard t g)
/-- The threads of the whole walk whose guard is true. -/
def State.allGuarded (s : State) (g : BitVec 4) : List Nat := s.allWalkers.filter (fun t => s.me.guard t g)

/-- The value of a store: the low `n` bytes of a register, a pair or a quad. -/
def Group.storeData (g : Group) (t r n : Nat) : BitVec 128 :=
  if n = 16 then g.rx128 t r else if n = 8 then (g.rx64 t r).setWidth 128 else (g.rx t r).setWidth 128

/-- A thread store of `n` bytes. -/
def State.storeBytes (s : State) (n own : Nat) (v a : BitVec 7) (g : BitVec 4) (o : BitVec 8) :
    Host.Outcome State Fault Refusal :=
  let natural := pfxAtomicity s.pfx ≠ 0
  s.issue { xr := [(v.toNat, loadRegs n), (a.toNat, 2)], pfx := pfxStore own s.pfx }
    (fun s =>
      let lines := (s.allGuarded g).filterMap (fun t =>
        s.storeLine t (s.me.rx64 t a.toNat) (dispL s.pfx o n) n natural)
      s.withQuota lines (fun s => s.walk (s.guarded g) (fun t s =>
        s.storeAt ⟨t, s.me.rx64 t a.toNat, dispL s.pfx o n, n, natural, false, false, 0, pfxPolicy s.pfx,
          pfxColour s.pfx s.me.clr, s.me.storeData t v.toNat n⟩)))

/-- STB. -/
def execStb (v a : BitVec 7) (g : BitVec 4) (o : BitVec 8) (s : State) : Host.Outcome State Fault Refusal :=
  s.storeBytes 1 0 v a g o
/-- STH. -/
def execSth (v a : BitVec 7) (g : BitVec 4) (o : BitVec 8) (s : State) : Host.Outcome State Fault Refusal :=
  s.storeBytes 2 0 v a g o
/-- STW. -/
def execStw (v a : BitVec 7) (g : BitVec 4) (o : BitVec 8) (s : State) : Host.Outcome State Fault Refusal :=
  s.storeBytes 4 0 v a g o
/-- STD. -/
def execStd (v a : BitVec 7) (g : BitVec 4) (o : BitVec 8) (s : State) : Host.Outcome State Fault Refusal :=
  s.storeBytes 8 1 v a g o
/-- STQ. -/
def execStq (v a : BitVec 7) (g : BitVec 4) (o : BitVec 8) (s : State) : Host.Outcome State Fault Refusal :=
  s.storeBytes 16 2 v a g o

/-! ### Uniform loads (R333) -/

/-- A uniform load of `n` bytes, once for the path. -/
def State.uload (s : State) (n : Nat) (d a : BitVec 5) (l : BitVec 4) (o : BitVec 12) :
    Host.Outcome State Fault Refusal :=
  s.issue
    { gr := [(d.toNat, loadRegs n), (a.toNat, 2)], dst := some (true, d.toNat, loadRegs n), la := l.toNat,
      pfx := pfxUload s.pfx }
    (fun s => walkThreads (s.allWalkers.filter (· == s.me.lowest)) (fun t s =>
      s.loadAt .uload ⟨t, s.me.rg64 a.toNat, dispUl s.pfx o n, n, false, false, true, d.toNat, pfxPolicy s.pfx, 0, 0⟩)
      s)

/-- ULDW. -/
def execUldw (d a : BitVec 5) (l : BitVec 4) (o : BitVec 12) (s : State) : Host.Outcome State Fault Refusal :=
  s.uload 4 d a l o
/-- ULDD. -/
def execUldd (d a : BitVec 5) (l : BitVec 4) (o : BitVec 12) (s : State) : Host.Outcome State Fault Refusal :=
  s.uload 8 d a l o

/-! ### Atomics (R334, R335) -/

/-- ATOM and ATOMX on `named` registers from `d` on, of which the first `dst` receive the old value; `casNew` is the
register of the new value of a CAS. -/
def State.atomic (s : State) (op : AtomOp) (named casNew : Nat) (d a : BitVec 7) (g : BitVec 4)
    (ord scope : BitVec 2) (wide : Bool) : Host.Outcome State Fault Refusal :=
  let n := if wide then 2 else 1
  s.issue
    { xr := [(d.toNat, named), (a.toNat, 2)], dst := some (false, d.toNat, n), la := pfxLa s.pfx,
      pfx := pfxAtom s.pfx, closes := true }
    (fun s => s.walk (s.guarded g) (fun t s =>
      let get := fun r => if wide then s.me.rx64 t r else (s.me.rx t r).setWidth 64
      s.atomOne ⟨t, s.me.rx64 t a.toNat, 0, 4 * n, true, false, false, d.toNat, 0, pfxColour s.pfx s.me.clr, 0⟩
        op wide (get d.toNat) (get (d.toNat + casNew)) ord scope))

/-- ATOM of an operation. -/
def State.atom (s : State) (op : AtomOp) (d a : BitVec 7) (g : BitVec 4) (r sc : BitVec 2) (w : BitVec 1) :
    Host.Outcome State Fault Refusal :=
  s.atomic op (if w = 1 then 2 else 1) 0 d a g r sc (w == 1)

/-- ATOM.ADD. -/
def execAtomAdd (d a : BitVec 7) (g : BitVec 4) (r sc : BitVec 2) (w : BitVec 1) (s : State) :
    Host.Outcome State Fault Refusal := s.atom .add d a g r sc w
/-- ATOM.MIN. -/
def execAtomMin (d a : BitVec 7) (g : BitVec 4) (r sc : BitVec 2) (w : BitVec 1) (s : State) :
    Host.Outcome State Fault Refusal := s.atom .min d a g r sc w
/-- ATOM.MAX. -/
def execAtomMax (d a : BitVec 7) (g : BitVec 4) (r sc : BitVec 2) (w : BitVec 1) (s : State) :
    Host.Outcome State Fault Refusal := s.atom .max d a g r sc w
/-- ATOM.MINZ. -/
def execAtomMinz (d a : BitVec 7) (g : BitVec 4) (r sc : BitVec 2) (w : BitVec 1) (s : State) :
    Host.Outcome State Fault Refusal := s.atom .minz d a g r sc w
/-- ATOM.MAXZ. -/
def execAtomMaxz (d a : BitVec 7) (g : BitVec 4) (r sc : BitVec 2) (w : BitVec 1) (s : State) :
    Host.Outcome State Fault Refusal := s.atom .maxz d a g r sc w
/-- ATOM.AND. -/
def execAtomAnd (d a : BitVec 7) (g : BitVec 4) (r sc : BitVec 2) (w : BitVec 1) (s : State) :
    Host.Outcome State Fault Refusal := s.atom .and d a g r sc w
/-- ATOM.OR. -/
def execAtomOr (d a : BitVec 7) (g : BitVec 4) (r sc : BitVec 2) (w : BitVec 1) (s : State) :
    Host.Outcome State Fault Refusal := s.atom .or d a g r sc w
/-- ATOM.XOR. -/
def execAtomXor (d a : BitVec 7) (g : BitVec 4) (r sc : BitVec 2) (w : BitVec 1) (s : State) :
    Host.Outcome State Fault Refusal := s.atom .xor d a g r sc w
/-- ATOMX.EXCH. -/
def execAtomxExch (d a : BitVec 7) (g : BitVec 4) (r sc : BitVec 2) (w : BitVec 1) (s : State) :
    Host.Outcome State Fault Refusal := s.atom .exch d a g r sc w
/-- ATOMX.CAS: the new value is the register, or the pair, above the compare value. -/
def execAtomxCas (d a : BitVec 7) (g : BitVec 4) (r sc : BitVec 2) (w : BitVec 1) (s : State) :
    Host.Outcome State Fault Refusal :=
  if w = 1 then s.atomic .cas 4 2 d a g r sc true else s.atomic .cas 2 1 d a g r sc false
/-- ATOMX.FADD. -/
def execAtomxFadd (d a : BitVec 7) (g : BitVec 4) (r sc : BitVec 2) (s : State) :
    Host.Outcome State Fault Refusal := s.atomic .fadd 1 0 d a g r sc false

end Sys2Proof.Machine
end

