-- ==== Sys2Proof/Machine/Sync.lean ====
section
/-!
DEFINITION. Fences, monitors, sleeping, cache control, and the barrier, ring and copy instructions (R337 to R353).
-/
namespace Sys2Proof.Machine

/-! ### Fences and colours (R337, R338) -/

/-- The effect of FENCE in FREE mode: loads, atomics and the stores of the named colours are performed, then an
acquire at the scope (R157, R337). -/
def State.fenceFree (s : State) (i : Nat) (mask : BitVec 8) (scope : Nat) : State :=
  let s1 := s.drain i (fun f => f.kind ≠ 1 || mask.getLsbD f.colour.toNat)
  let s2 := if s1.mxu.any (fun o => o.group == i && (o.kind == 3 || o.kind == 4) && mask.getLsbD o.colour.toNat)
    then s1.drainMxu (s1.homeCore i) else s1
  s2.acquire i scope

/-- FENCE. -/
def execFence (m : BitVec 8) (sc : BitVec 2) (s : State) : Host.Outcome State Fault Refusal :=
  s.issue { pfx := pfxNone s.pfx } (fun s =>
    if (s.gridOf s.cur).ordered then .done s else .done (s.fenceFree s.cur m sc.toNat))

/-- SETCLR. -/
def execSetclr (c : BitVec 3) (s : State) : Host.Outcome State Fault Refusal :=
  s.issue { pfx := pfxNone s.pfx } (fun s => s.once (fun g => { g with clr := c }))

/-! ### Monitors (R339 to R342) -/

/-- Monitor entries in use at a core: armed lines of the FREE groups that run on it; a group on its way to another core holds
none (R342, R343). -/
def State.monitorsUsed (s : State) (core : Nat) : List SlotUse :=
  s.groups.flatMap (fun g =>
    let gr := s.grd g.grid
    if g.core = core && !gr.ordered && gr.st ≠ .saved && g.st ≠ .retired && g.st ≠ .migrating && !g.nack.any (·.again) then
      g.armed.map (fun l => ⟨core, gr.tenant, l.res⟩) else [])

/-- The entry that a line of group `i` finds, of the 64 of its core, one of which the core reserves (R189, R190, R342). -/
def State.monitorSlot (s : State) (i : Nat) (used : List SlotUse) : Option Bool := s.groupSlot i 0 (s.grp i).core 63 used

/-- Lines of group `i` with the entries that they find. -/
def State.takeEntries (s : State) (i : Nat) : List ArmedLine → List SlotUse → Option (List ArmedLine)
  | [], _ => some []
  | l :: r, used =>
    match s.monitorSlot i used with
    | none => none
    | some b => (s.takeEntries i r (⟨(s.grp i).core, (s.gridOf i).tenant, b⟩ :: used)).map (fun ls => { l with res := b } :: ls)

/-- The armed set of a group, with entries of its core. -/
def State.armedAnew (s : State) (i : Nat) : Option (List ArmedLine) :=
  s.takeEntries i (s.grp i).armed (s.monitorsUsed (s.grp i).core)

/-- A FREE group that comes to a core takes the entries of its armed set there before it issues (R343). -/
def State.retakeMonitors (s : State) (i : Nat) : State :=
  let g := s.grp i
  if (s.gridOf i).ordered || g.armed = [] || g.st = .retired then s
  else
    let s1 := s.modGrp i (fun g => { g with nack := some ⟨0, g.core, 1, true, false⟩ })
    match s1.armedAnew i with
    | none => s1.tapNack i 0x20 0 g.core 0
    | some ls => s1.modGrp i (fun g => { g with nack := none, armed := ls })

/-- Drops a tenant's line from the L1 of a core and the RDC of its die, read-only-shared or not (R339, R444). -/
def State.dropLine (s : State) (core : Nat) (tenant : BitVec 6) (line : Nat) : State :=
  let stays := fun (owner : Nat) (x : Sector) => x.owner != owner || x.tenant != tenant || x.sector / 2 != line
  { s with l1 := s.l1.filter (stays core), rdc := s.rdc.filter (stays (core / 144)) }

/-- A write that the set's round m looks back to has touched the line (R127, R340). -/
def State.lookBack (s : State) (i : Nat) (scratch : Bool) (place : Nat) : Bool :=
  let g := s.grp i
  g.armed ≠ [] && (s.rootOf i).wrote.any (fun w =>
    g.monRound < w.1 && w.2.1 == scratch && w.2.2.1 == place && w.2.2.2 != i)

/-- Arms the line of one thread (R339, R340). -/
def State.armLine (s : State) (t : Nat) (p : Dword) : Walk :=
  let i := s.cur
  match s.check i t .mon p 0 1 false with
  | (s1, .error y) => .stop s1 y
  | (s1, .ok x) =>
    let scratch := x.reach == .scratch
    let g := s1.grp i
    let ordered := (s1.gridOf i).ordered
    if g.armed.any (fun l => l.scratch == scratch && l.rank == x.rank && l.line == x.off / 64) then .done s1
    else if 4 ≤ g.armed.length then .stop s1 (.trap (addressTrap t x.ptr))
    else
      match if ordered then some false else s1.monitorSlot i (s1.monitorsUsed g.core) with
      | none => .stop (s1.refuseFirst i 0 g.core) (.wait t)
      | some b =>
        let l : ArmedLine := ⟨scratch, x.rank, x.off / 64, x.addr / 64, ordered && s1.lookBack i scratch (x.addr / 64), b⟩
        let s2 := s1.modMe (fun g => { g with
          ticket := none, nack := none, armed := g.armed ++ [l], monRound := if g.armed = [] then g.round else g.monRound })
        .done (if ordered || scratch then s2 else s2.dropLine g.core (s2.gridOf i).tenant (x.addr / 64))

/-- MON. -/
def execMon (a : BitVec 7) (s : State) : Host.Outcome State Fault Refusal :=
  s.issue { xr := [(a.toNat, 2)], pfx := pfxNone s.pfx }
    (fun s => s.walk s.walkers (fun t s => s.armLine t (s.me.rx64 t a.toNat)))

/-- MON.CLR. -/
def execMonClr (s : State) : Host.Outcome State Fault Refusal :=
  s.issue { pfx := pfxNone s.pfx } (fun s => s.once (fun g => { g with armed := [] }))

/-- Falls asleep (R127, R340, R344). In FREE mode `wake` only says that a timeout is under way. -/
def State.sleepMe (s : State) (k : SleepKind) (wake : Option Nat) : State :=
  s.modMe (fun g => { g with st := .sleeping, sleep := some ⟨k, s.at', maskOf g.path⟩, wake := wake })

/-- Clears the FIRED bits of a set, whose round m becomes `m`. -/
def Group.unfire (g : Group) (m : Nat) : Group :=
  { g with armed := g.armed.map (fun l => { l with fired := false }), monRound := m }

/-- MWAIT: FIRED 0, TIMEOUT 1, EMPTY 2 (R127, R340). -/
def execMwait (d t : BitVec 5) (s : State) : Host.Outcome State Fault Refusal :=
  s.issue { gr := [(d.toNat, 1), (t.toNat, 1)], pfx := pfxNone s.pfx, closes := true } (fun s =>
    let g := s.me
    let v := g.rg t.toNat
    let ordered := (s.gridOf s.cur).ordered
    if g.armed = [] && v = 0 then .done (s.modMe (fun g => g.wg' d.toNat 2))
    else if g.armed.any (·.fired) then .done (s.modMe (fun g => (g.unfire (g.round + 1)).wg' d.toNat 0))
    else
      .done (s.sleepMe (.mwait d.toNat)
        (if v = 0 then none else if ordered then some (g.round + 1 + v.toNat) else some v.toNat)))

/-- CEDE (R344). -/
def execCede (n : BitVec 16) (s : State) : Host.Outcome State Fault Refusal :=
  s.issue { pfx := pfxNone s.pfx, closes := true } (fun s =>
    if (s.gridOf s.cur).ordered then .done (s.sleepMe .cede (some (s.me.round + 1 + n.toNat)))
    else if n = 0 then .done s
    else .done (s.sleepMe .cede (some n.toNat)))

/-! ### Cache control, prefetch, clock (R345 to R348) -/

/-- INVL1. -/
def execInvl1 (sc : BitVec 2) (s : State) : Host.Outcome State Fault Refusal :=
  s.issue { pfx := pfxNone s.pfx } (fun s =>
    if (s.gridOf s.cur).ordered then .done s else .done (s.dropCaches s.me.core (s.gridOf s.cur).tenant true (2 ≤ sc.toNat)))

/-- PREF: no value changes; an MMIO address below supervisor privilege raises PRIVILEGE (R48, R346). -/
def execPref (a : BitVec 7) (_v : BitVec 1) (s : State) : Host.Outcome State Fault Refusal :=
  s.issue { xr := [(a.toNat, 2)], pfx := pfxPref s.pfx }
    (fun s => s.walk s.walkers (fun t s =>
      let p := s.me.rx64 t a.toNat
      if ptrSpace p = 5 && s.me.priv ≠ 2 then .stop s (.trap (privTrap t 2 p)) else .done s))

/-- PRODUCER (R166, R347, R388). -/
def State.producerTrap (s : State) (t : Nat) : Trap :=
  { Trap.plain codeProducer t with detail := BitVec.ofNat 16 (s.gridOf s.cur).producer }

/-- The group in issue may start copies (R166). -/
def State.isProducer (s : State) : Bool :=
  (s.gridOf s.cur).producer ≠ 0xFF && (s.gridOf s.cur).producer == s.me.gix

/-- QFENCE (R173, R174, R347). -/
def execQfence (q : BitVec 4) (s : State) : Host.Outcome State Fault Refusal :=
  s.issue { pfx := pfxNone s.pfx } (fun s =>
    if !s.isProducer then .stop s (.trap (s.producerTrap s.me.lowest))
    else if q = 0 || (s.gridOf s.cur).ordered then .done s
    else .done (s.modWg s.me.wg (fun w => { w with qfences := w.qfences ++ [(q, s.copies.length)] })))

/-- CLKRD. -/
def execClkrd (d : BitVec 5) (s : State) : Host.Outcome State Fault Refusal :=
  s.issue { gr := [(d.toNat, 2)], pfx := pfxNone s.pfx, bad := d == 0 } (fun s =>
    s.once (fun g => (g.wg' d.toNat (BitVec.ofNat 32 g.lc)).wg' (d.toNat + 1) (BitVec.ofNat 32 (g.lc / 2 ^ 32))))

/-! ### Objects (R349, R351) -/

/-- A uniform instruction on an object: its handle and `other`, the check of a second one, then the object's alignment;
then `k` runs (R349). One that `reads` the object as it issues meets the error of a poisoned one (R406). -/
def State.onObjects (s : State) (h : Word) (size : Nat) (other : Option Trap) (reads : Bool) (k : State → Walk) : Walk :=
  s.needFull (fun s =>
    match (s.checkHandle s.cur s.me.lowestAlive h 1 1).or (other.or (s.checkHandle s.cur s.me.lowestAlive h size size)) with
    | some t => .stop s (.trap t)
    | none =>
      let s1 := s.settleRange s.cur h size
      match if reads then s1.seePoison s1.cur h size else none with
      | some e => .stop s1 (.trap (eccTrap s1.me.lowestAlive e))
      | none => k s1)

/-- A uniform instruction on one object. -/
def State.onObject (s : State) (h : Word) (size : Nat) (reads : Bool) (k : State → Walk) : Walk :=
  s.onObjects h size none reads k

/-- BEXP, BARV and RELS read their object as they issue in FREE mode, and at their cue in ORDERED mode (R125). -/
def State.readsNow (s : State) : Bool := !(s.gridOf s.cur).ordered

/-- A RING trap at issue (R349, R351). -/
def State.ringStop (s : State) (detail : Nat) (aux h : Word) : Walk :=
  .stop s (.trap (objTrap codeRing s.me.lowestAlive detail aux h))

/-- An ordered operation: an item of the contribution, or performed at once (R125, R185). -/
def State.operate (s : State) (op : OrdOp) (now : State → State) : State :=
  if (s.gridOf s.cur).ordered then s.modMe (fun g => { g with ops := g.ops ++ [op] }) else now s

/-- Every earlier store of the group is performed: a copy reads its source after them (R164). -/
def State.settleStores (s : State) : State := (s.settleMxu s.cur).drain s.cur Flight.writes

/-- Every earlier access of the group is performed: BARV and RELS are releases of all colours (R157, R164). -/
def State.releaseAll (s : State) : State := (s.settleMxu s.cur).drain s.cur (fun _ => true)

/-- The form of a barrier or ring instruction that returns nothing. -/
def objForm (s : State) (rs : List (BitVec 5)) : Form :=
  ({ gr := rs.map (fun r => (r.toNat, 1)), pfx := pfxNone s.pfx } : Form).fullGroup

/-- The form of one that returns `n` words in registers from `c` on. -/
def resForm (s : State) (rs : List (BitVec 5)) (c : BitVec 5) (n : Nat) (l : BitVec 4) : Form :=
  ({ gr := (c.toNat, n) :: rs.map (fun r => (r.toNat, 1)), pfx := pfxNone s.pfx, dst := some (true, c.toNat, n),
     la := l.toNat } : Form).fullGroup

/-! ### Barriers (R350) -/

/-- The count operand of BINIT is out of range, or its other bits are not zero. -/
def badCount (v : Word) : Bool :=
  let n := (v.extractLsb' 0 11).toNat
  n = 0 || 1024 < n || v.extractLsb' 11 5 ≠ 0 || v.extractLsb' 17 15 ≠ 0

/-- BINIT. -/
def execBinit (a b : BitVec 5) (s : State) : Host.Outcome State Fault Refusal :=
  s.issue (objForm s [a, b]) (fun s =>
    let h := s.me.rg a.toNat
    let v := s.me.rg b.toNat
    s.onObject h 16 false (fun s =>
      if badCount v then s.ringStop 3 0 h
      else
        let n := (v.extractLsb' 0 11).toNat
        .done (s.operate (.binit h n (v.getLsbD 16))
          (fun s => s.setObj s.cur h 16 (Barrier.init n (v.getLsbD 16)).toNat))))

/-- BEXP and BARV: an item of the contribution; at the bank; or, when the barrier is on another rank, on the barrier
network, where the request may be refused (R125, R185, R186, R189). BARV is a release. -/
def State.sendBarrier (s : State) (kind : Nat) (h : Word) (bytes : Nat) : Walk :=
  let i := s.cur
  if (s.gridOf i).ordered then .done (s.modMe (fun g => { g with ops := g.ops ++ [if kind = 0 then .bexp h bytes else .barv h bytes] }))
  else
    let core := s.rankCore i h
    let far := s.late && handleRank h ≠ s.trank i
    match if far then s.netSlot i core else some false with
    | none => .stop (s.refuseFirst i 3 core) (.wait s.me.lowestAlive)
    | some b =>
      let s1 := (if kind = 1 then s.releaseAll else s).modMe (fun g => { g with ticket := none, nack := none })
      .done (if far then { s1 with barNet := s1.barNet ++ [⟨i, kind, h, bytes, b⟩] } else s1.barrierOp i kind h bytes)

/-- BEXP. -/
def execBexp (a b : BitVec 5) (s : State) : Host.Outcome State Fault Refusal :=
  s.issue (objForm s [a, b]) (fun s =>
    let h := s.me.rg a.toNat
    let v := s.me.rg b.toNat
    s.onObject h 16 s.readsNow (fun s =>
      if v.getLsbD 31 then s.ringStop 3 0 h
      else s.sendBarrier 0 h v.toNat))

/-- BARV: a release at team scope. -/
def execBarv (a b : BitVec 5) (s : State) : Host.Outcome State Fault Refusal :=
  s.issue (objForm s [a, b]) (fun s =>
    let h := s.me.rg a.toNat
    let v := s.me.rg b.toNat
    s.onObject h 16 s.readsNow (fun s =>
      if v.getLsbD 31 then s.ringStop 3 0 h
      else s.sendBarrier 1 h v.toNat))

/-- The answer of BWAIT and BTEST on a completed phase: the status, or BAR_OVERRUN at the next boundary in its place
(R183, R350). -/
def State.phaseDone (s : State) (i : Nat) (c : Nat) (h : Word) (b : Barrier) : State :=
  if b.ovr && b.tovr then
    s.pendTrap i (objTrap codeBarOverrun (s.grp i).lowestAlive 0 b.phases h)
  else s.modGrp i (fun g => g.wg' c (if b.ovr then 1 else 0))

/-- BWAIT. -/
def execBwait (a b c : BitVec 5) (l : BitVec 4) (s : State) : Host.Outcome State Fault Refusal :=
  s.issue { resForm s [a, b] c 1 l with closes := true } (fun s =>
    let h := s.me.rg a.toNat
    let p := (s.me.rg b.toNat).getLsbD 0
    s.onObject h 16 true (fun s =>
      let o := Barrier.ofNat (s.seeObj s.cur h 16)
      if !o.valid then s.ringStop 1 0 h
      else if (s.gridOf s.cur).ordered then .done (s.sleepMe (.bwait c.toNat h p) none)
      else if o.phase != p then .done ((s.phaseDone s.cur c.toNat h o).acquire s.cur 1)
      else .stop s (.wait s.me.lowestAlive)))

/-- BTEST. -/
def execBtest (a b c : BitVec 5) (l : BitVec 4) (s : State) : Host.Outcome State Fault Refusal :=
  s.issue (resForm s [a, b] c 1 l) (fun s =>
    let h := s.me.rg a.toNat
    let p := (s.me.rg b.toNat).getLsbD 0
    s.onObject h 16 true (fun s =>
      let o := Barrier.ofNat (s.seeObj s.cur h 16)
      if !o.valid then s.ringStop 1 0 h
      else if o.phase != p then
        let s1 := s.phaseDone s.cur c.toNat h o
        .done (if (s.gridOf s.cur).ordered then s1 else s1.acquire s.cur 1)
      else .done (s.modMe (fun g => g.wg' c.toNat 2))))

/-! ### Rings (R352) -/

/-- RINIT. -/
def execRinit (a b c : BitVec 5) (s : State) : Host.Outcome State Fault Refusal :=
  s.issue (objForm s [a, b, c]) (fun s =>
    let h := s.me.rg a.toNat
    let base := s.me.rg b.toNat
    let cfg := s.me.rg c.toNat
    let second := (s.checkHandle s.cur s.me.lowestAlive (h.extractLsb' 27 5 ++ base.extractLsb' 0 27) 1 1).map
      (fun t => { t with info := base.setWidth 64 })
    s.onObjects h 32 second false (fun s =>
      if cfgBad cfg (handleOff base) (s.gridOf s.cur).scratchBytes then s.ringStop 3 0 h
      else .done (s.operate (.rinit h base cfg) (fun s => s.setObj s.cur h 32 (Ring.init base cfg).toNat))))

/-- AWAITF and AWAITF.EMPTY. -/
def State.awaitSlot (s : State) (a b c : BitVec 5) (l : BitVec 4) (empty : Bool) : Host.Outcome State Fault Refusal :=
  s.issue { resForm s [a, b] c 1 l with closes := true } (fun s =>
    let h := s.me.rg a.toNat
    let n := s.me.rg b.toNat
    s.onObject h 32 true (fun s =>
      let r := Ring.ofNat (s.seeObj s.cur h 32)
      match r.refuses with
      | some k => s.ringStop k n h
      | none =>
        if (s.gridOf s.cur).ordered then .done (s.sleepMe (.awaitf c.toNat h n empty) none)
        else if if empty then r.mayFill n else r.hasFilled n then
          .done ((s.modMe (fun g => g.wg' c.toNat (r.slotHandle (handleRank h) n))).acquire s.cur 1)
        else .stop s (.wait s.me.lowestAlive)))

/-- AWAITF. -/
def execAwaitf (a b c : BitVec 5) (l : BitVec 4) (s : State) : Host.Outcome State Fault Refusal :=
  s.awaitSlot a b c l false
/-- AWAITF.EMPTY. -/
def execAwaitfEmpty (a b c : BitVec 5) (l : BitVec 4) (s : State) : Host.Outcome State Fault Refusal :=
  s.awaitSlot a b c l true

/-- RELS: a release at team scope. -/
def execRels (a : BitVec 5) (s : State) : Host.Outcome State Fault Refusal :=
  s.issue { objForm s [a] with closes := true } (fun s =>
    let h := s.me.rg a.toNat
    s.onObject h 32 s.readsNow (fun s => .done (s.operate (.rels h) (fun s => s.releaseAll.ringRels s.cur h))))

/-- RSTAT; in FREE mode every one acquires, since the counters it returns report the landings so far (R164; log 103). -/
def execRstat (a c : BitVec 5) (l : BitVec 4) (s : State) : Host.Outcome State Fault Refusal :=
  s.issue { resForm s [a] c 4 l with bad := c == 0 } (fun s =>
    let h := s.me.rg a.toNat
    s.onObject h 32 true (fun s =>
      let r := Ring.ofNat (s.seeObj s.cur h 32)
      match r.refuses with
      | some k => s.ringStop k 0 h
      | none =>
        let s1 := s.modMe (fun g => g.wwords true 0 c.toNat 4 (r.widx.toNat + r.ridx.toNat * 2 ^ 32 + r.filled.toNat * 2 ^ 64))
        .done (if (s.gridOf s.cur).ordered then s1 else s1.acquire s.cur 1)))

/-! ### Copies (R353) -/

/-- Outstanding copies of a workgroup (R176). -/
def State.outstanding (s : State) (w : Nat) : Nat :=
  (s.copies.filter (fun c => c.wg == w && copyOpen c.st)).length

/-- Earlier copies that must have given their credit first: those of its queue, and those that a QFENCE before it
names (R173). The spec does not say whether a credit that still travels on the barrier network has been given: the model
counts the copy as done once the network has taken its credits (log 119). -/
def State.copyBlocked (s : State) (idx : Nat) (c : Copy) : Bool :=
  let q := (Desc.ofBits c.desc).queue
  (List.range s.copies.length).any (fun k =>
    match s.copies[k]? with
    | none => false
    | some x =>
      k < idx && x.wg == c.wg && copyOpen x.st &&
        ((Desc.ofBits x.desc).queue == q ||
          (s.wgp c.wg).qfences.any (fun m => k < m.2 && m.2 ≤ idx && m.1.getLsbD (Desc.ofBits x.desc).queue)))

/-- The copy names host, peer or MMIO space (R175). -/
def Desc.outer (d : Desc) : Bool :=
  ptrSpace d.src == 4 || ptrSpace d.src == 5 || ptrSpace d.dst == 4 || ptrSpace d.dst == 5

/-- Starts copy `idx`: an ORDERED one becomes an item of the contribution; unless `late`, its source is read, or the
FREE copy is performed, at once where that is possible now (R126, R173, R174). -/
def State.startCopy (s : State) (idx : Nat) (c : Copy) : State :=
  let d := Desc.ofBits c.desc
  if (s.gridOf s.cur).ordered then
    let s1 := s.modMe (fun g => { g with ops := g.ops ++ [.land idx], walk := { g.walk with close := g.walk.close || d.outer } })
    let s2 := if d.outer then s1.external s.cur else s1
    if s2.late then s2 else s2.readSource idx
  else if s.late || s.copyBlocked idx c || !s.linesOk noDomain (s.copyLines c) || ptrSpace d.dst = 4 then s
  else s.performCopy idx c 0

/-- A copy instruction: 0 CPY, 1 CPYT, 2 CPYS, 3 CPYM, 4 CPYR. -/
def State.copy (s : State) (form : Nat) (a b c : BitVec 5) : Host.Outcome State Fault Refusal :=
  s.issue { objForm s [a, b, c] with weight := 2 } (fun s =>
    if !s.isProducer then .stop s (.trap (s.producerTrap s.me.lowestAlive))
    else
      s.needFull (fun s =>
        let h := s.me.rg a.toNat
        let s1 := if (s.gridOf s.cur).ordered then s else s.settleStores
        match s1.copyCheck s1.cur form h (s1.me.rg b.toNat) (s1.me.rg c.toNat) with
        | .error t => .stop s1 (.trap t)
        | .ok v =>
          if 64 ≤ s1.outstanding s1.me.wg then .stop s1 (.wait s1.me.lowestAlive)
          else
            let k : Copy :=
              { group := s1.cur, wg := s1.me.wg, form := form, desc := v, dhandle := h, chandle := s1.me.rg b.toNat,
                n := s1.me.rg c.toNat, round := s1.me.round, thread := s1.me.lowestAlive, data := none, dest := [], uncached := [],
                st := 0, credits := [], due := none }
            .done ({ s1 with copies := s1.copies ++ [k] }.startCopy s1.copies.length k)))

/-- CPY. -/
def execCpy (a b c : BitVec 5) (s : State) : Host.Outcome State Fault Refusal := s.copy 0 a b c
/-- CPYT. -/
def execCpyt (a b c : BitVec 5) (s : State) : Host.Outcome State Fault Refusal := s.copy 1 a b c
/-- CPYS. -/
def execCpys (a b c : BitVec 5) (s : State) : Host.Outcome State Fault Refusal := s.copy 2 a b c
/-- CPYM. -/
def execCpym (a b c : BitVec 5) (s : State) : Host.Outcome State Fault Refusal := s.copy 3 a b c
/-- CPYR. -/
def execCpyr (a b c : BitVec 5) (s : State) : Host.Outcome State Fault Refusal := s.copy 4 a b c

end Sys2Proof.Machine
end

