-- ==== Sys2Proof/Machine/Launch.lean ====
section
/-!
DEFINITION. Launch records (R192, R193, R230, R487), the grid that an accepted launch makes, and LAUNCH (R227, R228,
R382, R383).
-/
namespace Sys2Proof.Machine

/-! ### The checks of a launch record -/

/-- Bytes of a record that must be zero: offset and length. -/
def zeroBytes : List (Nat × Nat) :=
  [(0x02D, 3), (0x044, 4)] ++ (List.range 8).map (fun i => (0x048 + 8 * i + 2, 2)) ++ [(0x098, 104)]

/-- The offsets at which a launch record breaks R192, R193 or R487. `host` marks a launch from a host queue, `sup` one
at supervisor privilege. -/
def recordFaults (r : List Byte) (host sup : Bool) : List Nat :=
  let u := fun (o n : Nat) => leAt r o n
  let flags := r.getD 0x02B 0
  let two := flags.getLsbD 1
  let team := u 0x023 1
  let ngrp := u 0x020 2
  let bad := fun (o : Nat) (b : Bool) => if b then [o] else []
  bad 0x000 (u 0x000 8 % 4 ≠ 0 || 2 ^ 55 ≤ u 0x000 8) ++
  bad 0x008 (u 0x008 8 % 64 ≠ 0 || 2 ^ 55 ≤ u 0x008 8) ++
  bad 0x010 (u 0x010 4 = 0) ++ bad 0x014 (u 0x014 4 = 0) ++ bad 0x018 (u 0x018 4 = 0) ++
  bad 0x01C (u 0x01C 4 = 0 || 65536 < u 0x01C 4 || (team ≠ 0 && u 0x01C 4 % team ≠ 0)) ++
  bad 0x020 (ngrp = 0 || 32 < ngrp || (two && ngrp % 2 ≠ 0)) ++
  bad 0x022 (u 0x022 1 = 0 || 16 < u 0x022 1) ++
  bad 0x023 (team = 0 || 24 < team || (two && 12 < team) || u 0x010 4 * u 0x014 4 * u 0x018 4 % team ≠ 0) ++
  bad 0x024 (u 0x024 4 % 1024 ≠ 0 || 393216 < u 0x024 4) ++
  bad 0x028 (8 < u 0x028 1) ++
  bad 0x029 (u 0x029 1 = 0 || 16 < u 0x029 1) ++
  bad 0x02A (u 0x02A 1 ≠ 255 && ngrp ≤ u 0x02A 1) ++
  bad 0x02B (32 ≤ u 0x02B 1 || (sup && (flags.getLsbD 0 || flags.getLsbD 4))) ++
  bad 0x02C (32 ≤ u 0x02C 1) ++
  bad 0x030 (flags.getLsbD 4 && (u 0x030 8 % 4 ≠ 0 || 2 ^ 55 ≤ u 0x030 8)) ++
  bad 0x038 (u 0x038 8 % 65536 ≠ 0) ++
  bad 0x040 (u 0x040 4 % 64 ≠ 0 || 2 ^ 20 < u 0x040 4) ++
  (List.range 8).flatMap (fun i => bad (0x048 + 8 * i + 1) (8 ≤ u (0x048 + 8 * i + 1) 1)) ++
  bad 0x088 (u 0x088 8 % 64 ≠ 0 || 2 ^ 55 ≤ u 0x088 8) ++
  bad 0x090 (host && u 0x090 8 ≠ 0) ++
  zeroBytes.flatMap (fun z => (List.range z.2).flatMap (fun k => bad (z.1 + k) (r.getD (z.1 + k) 0 ≠ 0)))

/-- The fault at the lowest offset (R230). -/
def lowestFault (fs : List Nat) : Option Nat := if fs = [] then none else some (minOf fs)

/-! ### The grid of a launch -/

/-- A grid that runs, or, with a refusal, one that has nothing to run. -/
def Grid.refuse (g : Grid) (offset : Option Nat) : Grid :=
  match offset with
  | none => g
  | some o => { g with status := some (1, BitVec.ofNat 64 o), nextTeam := g.nwg }

/-- A clean grid for a record. -/
def Grid.ofRecord (r : List Byte) : Grid := { Grid.blank with lrec := r, st := .running }

/-! ### LAUNCH (R382, R383) -/

/-- The record read by LAUNCH, as a load of the group: through its caches, and in ORDERED mode under its own take buffer
(R53, R142, R382). -/
def State.readRecord (s : State) (i : Nat) (x : Target) : List Byte × State :=
  let v := s.viaTo i 0 x
  let (bs, s1) := (List.range 8).foldl (fun (a : List Byte × State) k =>
    let (d, t) := a.2.readMem i v (x.addr + 32 * k) 32
    (a.1 ++ leBytes 32 d, t)) ([], s)
  if (s.gridOf i).ordered then
    (bs.mapIdx (fun k b => (takeByte (s.grp i).take false 0 (x.off + k)).getD b), s1.noteRead i false x.addr 256)
  else (bs, s1)

/-- A child launched in a round before `q` that still counts in round `q`: it has a group to start or in life, or its
last group retired at an LC above 64 × q (R383). -/
def State.countsAt (s : State) (q k : Nat) : Bool :=
  let g := s.grd k
  let gs := s.groupIds.filter (fun i => (s.grp i).grid == k)
  g.birth ≤ q && (g.nextTeam * g.team < g.nwg && g.status = none ||
    gs.any (fun i => (s.grp i).st ≠ .retired || 64 * q < (s.grp i).lc))

/-- Pending children of the queue-launched grid of group `i`, as a LAUNCH counts them (R383). -/
def State.pendingChildren (s : State) (i : Nat) : Nat :=
  let root := (s.gridOf i).root
  let kids := (List.range s.grids.length).filter (fun k => (s.grd k).root == root && (s.grd k).parent ≠ none)
  let g := s.grp i
  if (s.gridOf i).ordered then
    (kids.filter (s.countsAt g.round)).length + (if g.launched.2 = g.round then g.launched.1 else 0)
  else (kids.filter (fun k => (s.grd k).st ≠ .done)).length

/-- The status of a LAUNCH of a record (R382). -/
def State.launchStatus (s : State) (i : Nat) (r : List Byte) : Nat :=
  let gr := s.gridOf i
  if 8 ≤ gr.depth then 1
  else if 65536 ≤ s.pendingChildren i then 2
  else if (r.getD 0x02B 0).getLsbD 0 != gr.ordered then 3
  else if leAt r 0x088 8 % 64 ≠ 0 || 2 ^ 55 ≤ leAt r 0x088 8 then 4
  else 0

/-- PKEY of a child, never zero (R228). -/
def childPkey (key : List Nat) : Dword := if Config.childId key = 0 then 1 else Config.childId key

/-- The child grid of the n-th LAUNCH of group `i` (R106, R131, R227, R228). The spec does not say whether DIEMASK and PINMODE
of the queue's LAUNCH bind the children: here a child inherits the dies and the pinning of its parent (R226; log 122). -/
def State.childGrid (s : State) (i : Nat) (r : List Byte) : Grid :=
  let gr := s.gridOf i
  let key := s.key i ++ [(s.grp i).nlaunch]
  let id := childPkey key
  let rec' := r.take 0x090 ++ leBytes 8 id.toNat ++ r.drop 0x098
  ({ Grid.ofRecord rec' with
    fn := gr.fn, queue := gr.queue, seq := id.toNat, image := gr.image, dies := gr.dies, pin := gr.pin,
    parent := some (s.grp i).grid, key := key, root := gr.root, depth := gr.depth + 1, table := gr.table,
    asid := gr.asid, tenant := gr.tenant, sup := gr.sup, code := s.mem, birth := (s.grp i).round + 1,
    nextTeam := 0 } : Grid).refuse (lowestFault (recordFaults r false gr.sup))

/-- Answers a LAUNCH: the status in gs, the count of issues, and the child when it is accepted. -/
def State.answerLaunch (s : State) (i : Nat) (gs : Nat) (r : List Byte) : State :=
  let st := s.launchStatus i r
  let s1 := if st = 0 then { s with grids := s.grids ++ [s.childGrid i r] } else s
  s1.modGrp i (fun g =>
    { g.wg' gs (BitVec.ofNat 32 st) with
      nlaunch := g.nlaunch + 1
      launched := if st ≠ 0 then g.launched
        else if g.launched.2 = g.round then (g.launched.1 + 1, g.round) else (1, g.round) })

/-- LAUNCH. -/
def execLaunch (x : BitVec 7) (g : BitVec 5) (s : State) : Host.Outcome State Fault Refusal :=
  s.issue ({ xr := [(x.toNat, 2)], gr := [(g.toNat, 1)], pfx := pfxNone s.pfx } : Form).fullGroup (fun s =>
    s.needFull (fun s =>
      let i := s.cur
      let t := s.me.lowestAlive
      let p := s.me.rx64 t x.toNat
      if ptrSpace p ≠ 0 then .stop s (.trap (addressTrap t p))
      else if ptrRank p ≠ 0 then .stop s (.trap (stepTrap codeAddress t 3 p))
      else if ptrOffset p % 256 ≠ 0 then .stop s (.trap { Trap.plain codeMisalign t with info := p })
      else
        match s.reachMemory i t .load p with
        | (s1, .error y) => .stop s1 y
        | (s1, .ok y) =>
          let s2 := if (s1.gridOf i).ordered then s1 else s1.drain i Flight.writes
          if s2.loadHeld i (s2.viaTo i 0 y) y.addr 256 then .stop s2 (.wait t) else
          match s2.poisonAt false y.addr 256 with
          | some e => .stop s2 (.trap (eccTrap t e))
          | none =>
            let (r, s3) := s2.readRecord i y
            .done (s3.answerLaunch i g.toNat r)))

end Sys2Proof.Machine
end

