-- ==== Sys2Proof/Machine/System.lean ====
section
/-!
DEFINITION. System registers, software traps, EMIT, MIGR, HALTCTX, RFT, CYCRD (R213, R214, R376 to R381, R384 to R387,
R393, R397), and the XT words (R266 to R269).
-/
namespace Sys2Proof.Machine

/-! ### System registers (R213, R214) -/

/-- The handler column of R213 applies: handler or supervisor privilege. -/
def Group.trusted (g : Group) : Bool := g.priv ≠ 0

/-- The address that PC and PCH read: of the SRD, or the saved PC of the thread in the handler (R213, R391). -/
def State.pcRegister (s : State) (t : Nat) : Dword :=
  if s.me.priv = 1 then s.me.savedPc.get t else BitVec.ofNat 64 s.wordPc

/-- The value of a system register for a thread; none for an index not in the table. -/
def State.sysRead (s : State) (i : Nat) (t : Nat) : Option Word :=
  let g := s.me
  let gr := s.gridOf s.cur
  let w := (s.wgOf s.cur).id
  let n := fun (v : Nat) => some (BitVec.ofNat 32 v)
  match i with
  | 0x000 => n t
  | 0x001 => n g.gix
  | 0x002 => n (w % gr.gx)
  | 0x003 => n (w / gr.gx % gr.gy)
  | 0x004 => n (w / (gr.gx * gr.gy))
  | 0x005 => n (s.trank s.cur)
  | 0x006 => n (w % gr.lcores)
  | 0x007 => n (w % gr.team)
  | 0x008 => n gr.ngrp
  | 0x009 => n gr.gx
  | 0x00A => n gr.gy
  | 0x00B => n gr.gz
  | 0x010 => n g.lc
  | 0x011 => n (g.lc / 2 ^ 32)
  | 0x020 => some (s.gsr s.cur)
  | 0x021 => some gr.fpcr
  | 0x022 => some (g.fx.setWidth 32)
  | 0x030 => some ((s.pcRegister t).extractLsb' 0 32)
  | 0x031 => some (g.spb.get t)
  | 0x032 => some (g.rsd.get t)
  | 0x033 => some ((s.pcRegister t).extractLsb' 32 23 |>.setWidth 32)
  | 0x040 => some (g.trapRec.extractLsb' 0 32)
  | 0x041 => some (g.trapRec.extractLsb' 32 32)
  | 0x042 => some (g.trapRec.extractLsb' 64 32)
  | 0x043 => some (g.trapRec.extractLsb' 96 32)
  | _ => none

/-- TRAPREC0 to TRAPREC3, which the user column of R213 marks with a dash. -/
def trapRegister (i : Nat) : Bool := 0x040 ≤ i && i ≤ 0x043

/-- The registers that SWR may write at a privilege (R213). -/
def sysWritable (trusted : Bool) (i : Nat) : Bool := i == 0x020 || i == 0x031 || (i == 0x022 && trusted)

/-- SWR is ILLEGAL: an index not in the table, or a register that is RO at the present privilege. -/
def State.swrIllegal (s : State) (i : Nat) : Bool :=
  s.sysRead i 0 = none || (!sysWritable s.me.trusted i && !(trapRegister i && !s.me.trusted))

/-- The writable fields of GSR (R214). -/
def Group.writeGsr (g : Group) (v : Word) : Group :=
  { g with
    clr := v.extractLsb' 10 3
    jf := g.jf && !v.getLsbD 27
    rix := if g.trusted then v.extractLsb' 0 5 else g.rix }

/-- SWR of a register that may be written, by the threads of the path. -/
def Group.sysWrite (g : Group) (i x : Nat) : Group :=
  let v := g.rx g.lowest x
  if i = 0x020 then g.writeGsr v
  else if i = 0x022 then { g with fx := v.extractLsb' 0 7 }
  else g.path.foldl (fun r t => { r with spb := r.spb.set t (r.rx t x) }) g

/-- SRD. -/
def execSrd (x : BitVec 7) (i : BitVec 10) (s : State) : Host.Outcome State Fault Refusal :=
  s.issue { xr := [(x.toNat, 1)], pfx := pfxNone s.pfx, bad := s.sysRead i.toNat 0 == none } (fun s =>
    if trapRegister i.toNat && !s.me.trusted then .stop s (.trap (privTrap s.me.lowest 1 0))
    else s.alu (fun t g => g.wx t x.toNat ((s.sysRead i.toNat t).getD 0)))

/-- SWR. -/
def execSwr (x : BitVec 7) (i : BitVec 10) (s : State) : Host.Outcome State Fault Refusal :=
  s.issue { xr := [(x.toNat, 1)], pfx := pfxNone s.pfx, bad := s.swrIllegal i.toNat } (fun s =>
    if trapRegister i.toNat then .stop s (.trap (privTrap s.me.lowest 1 0))
    else s.once (fun g => g.sysWrite i.toNat x.toNat))

/-! ### Software traps and events (R377, R378) -/

/-- The form of TRAP and BKPT: the trap follows the completed instruction. -/
def softForm (s : State) (code : BitVec 8) (n : BitVec 10) : Form :=
  { pfx := pfxNone s.pfx, after := some { Trap.plain code 0 with detail := n.setWidth 16 } }

/-- TRAP. -/
def execTrap (n : BitVec 10) (s : State) : Host.Outcome State Fault Refusal :=
  s.issue (softForm s codeSoftware n) .done
/-- BKPT. -/
def execBkpt (n : BitVec 10) (s : State) : Host.Outcome State Fault Refusal :=
  s.issue (softForm s codeBreakpoint n) .done

/-- EMIT. -/
def execEmit (x : BitVec 7) (n : BitVec 10) (s : State) : Host.Outcome State Fault Refusal :=
  s.issue { xr := [(x.toNat, 1)], pfx := pfxNone s.pfx } (fun s =>
    .done (s.tapGroup s.cur 0x60 (n.setWidth 32) (s.me.rx s.me.lowest x.toNat)))

/-! ### MIGR (R379 to R381) -/

/-- The group leaves for a die, unless it runs there already. -/
def Group.depart (g : Group) (die : Nat) : Group :=
  if g.core / 144 = die then g else { g with st := .migrating, target := die }

/-- Groups on their way to a die. -/
def State.landingsAt (s : State) (die : Nat) : List SlotUse :=
  (s.groups.filter (fun g => g.st == .migrating && g.target == die)).map (fun g => ⟨g.core, (s.grd g.grid).tenant, g.landing⟩)

/-- The landing slot of a die that group `i` finds (R189, R190; log 102). -/
def State.landingSlot (s : State) (i die : Nat) : Option Bool := s.groupSlot i 1 die Config.landingSlots (s.landingsAt die)

/-- A request of group `i` for a landing slot of a die is refused. -/
def State.landingRefused (s : State) (i die : Nat) : Bool := (s.landingSlot i die).isNone

/-- MIGR. -/
def execMigr (x : BitVec 7) (s : State) : Host.Outcome State Fault Refusal :=
  s.issue { ({ xr := [(x.toNat, 2)], pfx := pfxNone s.pfx } : Form).fullGroup with closes := true } (fun s =>
    s.needFull (fun s =>
      let i := s.cur
      let t := s.me.lowestAlive
      let p := s.me.rx64 t x.toNat
      if ptrSpace p ≠ 0 && ptrSpace p ≠ 2 && ptrSpace p ≠ 3 then .stop s (.trap (addressTrap t p))
      else
        match s.spaceStep i p 0 1 with
        | some k => .stop s (.trap (stepTrap codeAddress t k p))
        | none =>
          match s.reachMemory i t .load p with
          | (s1, .error y) => .stop s1 y
          | (s1, .ok y) =>
            let die := homeDie y.addr
            let s2 := if (s1.gridOf i).ordered then s1 else s1.fenceFree i 0xFF 2
            if s1.me.core / 144 ≠ die && s1.landingRefused i die then .stop (s1.refuseFirst i 1 die) (.wait t)
            else
              .done ((s2.drain i (fun f => f.kind ≠ 1)).modMe
                (fun g => { g with
                  windows := [], ticket := none, nack := none, landing := s1.landingSlot i die == some true }.depart die))))

/-! ### HALTCTX (R384, R385, R397) -/

/-- A live group with a smaller key that has not finished round `h`, or a waiting team whose groups will be live in that
round with smaller keys: their HALTCTX would take effect first (R129, R397). -/
def State.smallerIssuer (s : State) (i h : Nat) : Bool :=
  let root := (s.gridOf i).root
  (s.ctxGroups root).any (fun k => keyLt (s.key k) (s.key i) && !(s.grp k).past h) ||
    (List.range s.grids.length).any (fun k => (s.grd k).root == root && (s.grd k).st != .done &&
      (s.waitingTeams k).any (fun t => keyLt (s.teamKey k t) (s.key i) && (s.teamClock k t).any (fun c => c / 64 ≤ h)))

/-- HALTCTX in ORDERED mode: the one with the smallest key takes effect (R385, R397). -/
def State.haltOrdered (s : State) (gs : Nat) : Walk :=
  let i := s.cur
  match (s.rootOf i).halt with
  | some (_, k) => .done (if k = i then s.modMe (fun g => g.wg' gs 0) else s)
  | none =>
    if s.smallerIssuer i s.me.round then .stop s (.wait s.me.lowest)
    else
      .done ((s.modGrid (s.gridOf i).root (fun r => { r with halt := some (s.me.round, i) })).modMe
        (fun g => g.wg' gs 0))

/-- HALTCTX in FREE mode: every other group halts; the issuer waits for the copies (R384). -/
def State.haltFree (s : State) (cancel : Bool) (gs : Nat) : State :=
  let i := s.cur
  let root := (s.gridOf i).root
  let open_ := s.openCopies root
  let landed := (s.copiesIn root (fun x => x == 1)).length
  let s1 : State := { s with groups := s.groups.mapIdx (fun k (g : Group) =>
    if k != i && (s.grd g.grid).root == root then g.stopWalk.halt else g) }
  let s2 := s1.closeContext root
  let s3 := if cancel then s2.cancelCopies open_ else s2
  s3.modMe (fun g => { g with haltWait := some (gs, landed, if cancel then open_.length else 0) })

/-- HALTCTX. -/
def execHaltctx (c : BitVec 1) (g : BitVec 5) (s : State) : Host.Outcome State Fault Refusal :=
  s.issue { gr := [(g.toNat, 1)], pfx := pfxNone s.pfx } (fun s =>
    if !s.me.trusted then .stop s (.trap (privTrap s.me.lowest 1 0))
    else
      let s1 := s.modMe (fun r => { r with halter := true })
      if (s1.gridOf s1.cur).ordered then s1.haltOrdered g.toNat
      else .stop (s1.haltFree (c == 1) g.toNat) (.wait s1.me.lowest))

/-! ### RFT (R386, R393) -/

/-- The group goes on after its handler: the interrupted path, or another when no thread of it is left. -/
def State.returnFromTrap (s : State) : State :=
  let s1 := s.modMe Group.leaveHandler
  if s1.me.path = [] then (s1.modMe (fun g => { g with walkFrom := none, walk := .none })).selectPath s1.cur [] 0
  else s1

/-- RFT. -/
def execRft (s : State) : Host.Outcome State Fault Refusal :=
  .next (s.runWith { pfx := pfxNone s.pfx, weight := 0, control := true, bad := s.me.halter && s.me.priv == 1 }
    (fun s => if s.me.priv = 1 then .done s else .stop s (.trap (privTrap s.me.lowest 1 0))) State.returnFromTrap)

/-! ### CYCRD (R135, R139, R387) -/

/-- A die's counter runs free: it moves on by a free number of cycles from 1 to 2^32 before each reading (log 6). -/
def State.readCycles (s : State) (die : Nat) : Dword × State :=
  let (v, s1) := s.free
  let d := s1.dies.getD die ⟨false, 0, [], 0, 0⟩
  let c := d.cyc + 1 + (v.extractLsb' 0 32).setWidth 64
  (c, { s1 with dies := s1.dies.set die { d with cyc := c } })

/-- CYCRD. -/
def execCycrd (x : BitVec 7) (s : State) : Host.Outcome State Fault Refusal :=
  s.issue { xr := [(x.toNat, 2)], pfx := pfxNone s.pfx } (fun s =>
    let gr := s.gridOf s.cur
    if gr.ordered && !gr.timeread then .stop s (.trap (Trap.plain codeTimeread s.me.lowest))
    else
      let (v, s1) := (s.external s.cur).readCycles (s.me.core / 144)
      .done (s1.modMe (fun g => g.path.foldl (fun g t => g.wx64 t x.toNat v) g)))

/-! ### XT words (R266, R269) -/

/-- An XT word waits for the word behind it: nothing else changes, and the pair is one issue (R269). -/
def State.latchPrefix (s : State) (i : Instr) : State := { s with pfx := encode i }

/-- XT.IMM. -/
def execXtImm (p : BitVec 24) (s : State) : Host.Outcome State Fault Refusal := .next (s.latchPrefix (.xtImm p))
/-- XT.OPD. -/
def execXtOpd (l : BitVec 4) (c : BitVec 7) (s : State) : Host.Outcome State Fault Refusal :=
  .next (s.latchPrefix (.xtOpd l c))
/-- XT.MEM. -/
def execXtMem (e : BitVec 1) (k : BitVec 3) (t p : BitVec 2) (s : State) : Host.Outcome State Fault Refusal :=
  .next (s.latchPrefix (.xtMem e k t p))

end Sys2Proof.Machine
end

