-- ==== Sys2Proof/Machine/Matrix.lean ====
section
/-!
DEFINITION. The matrix instructions (R355 to R374): their checks in the order of R357, tokens, and acceptance by the MXU.
-/
namespace Sys2Proof.Machine

/-! ### Checks (R357) -/

/-- The form of a matrix instruction on a tile: full group, ILLEGAL for a tile the workgroup does not have. -/
def matForm (s : State) (c : BitVec 3) (gs : List (BitVec 5)) : Form :=
  ({ gr := gs.map (fun r => (r.toNat, 1)), pfx := pfxNone s.pfx,
     bad := (s.gridOf s.cur).accs ≤ c.toNat } : Form).fullGroup

/-- TOKEN (R388). -/
def tokenTrap (t tile : Nat) : Trap := { Trap.plain codeToken t with detail := BitVec.ofNat 16 tile }

/-- Full group, then the token: it must meet `p`, and no follower group may touch a tile (R359). -/
def State.withToken (s : State) (tile : Nat) (p : Token → Bool) (k : State → Walk) : Walk :=
  s.needFull (fun s =>
    if s.follower s.cur || !p ((s.tokens s.cur).getD tile (.mxu 0)) then
      .stop s (.trap (tokenTrap s.me.lowestAlive tile))
    else k s)

/-- The token is at the MXU for a group. -/
def Token.usedBy (gix : Nat) (t : Token) : Bool := t == .mxu gix
/-- A group holds the token. -/
def Token.heldBy (gix : Nat) (t : Token) : Bool := t == .held gix
/-- The token is at the MXU, or held by the group itself. -/
def Token.free' (gix : Nat) : Token → Bool
  | .mxu _ => true
  | .held k => k == gix

/-- A range of scratchpad that an instruction names: the handle as written, the handle at which it starts, its bytes and
its alignment. -/
structure MatRange where
  /-- As written. -/
  handle : Word
  /-- Where the bytes start. -/
  start : Word
  /-- Bytes. -/
  size : Nat
  /-- Alignment. -/
  align : Nat
  deriving DecidableEq, Repr

/-- ADDRESS for every range, then MISALIGN (R25, R27, R365). -/
def State.rangeTrap (s : State) (rs : List MatRange) : Option Trap :=
  let i := s.cur
  let t := s.me.lowestAlive
  match rs.findSome? (fun r => (s.checkHandle i t r.start r.size 1).map (fun e => { e with info := r.handle.setWidth 64 })) with
  | some e => some e
  | none => rs.findSome? (fun r =>
      if handleOff r.start % r.align ≠ 0 then some (stepTrap codeMisalign t 5 (r.handle.setWidth 64)) else none)

/-- Every byte of a range is in the group's take buffer (R142). -/
def State.rangeCovered (s : State) (r : MatRange) : Bool :=
  (s.gridOf s.cur).ordered && (List.range r.size).all (fun k =>
    (takeByte s.me.take true (handleRank r.start) (handleOff r.start + k)).isSome)

/-- A poisoned granule that reading a range meets (R406). -/
def State.rangePoison (s : State) (r : MatRange) : Option (Nat × Nat) :=
  if s.rangeCovered r then none else s.poisonAt true (s.handleKey s.cur r.start) r.size

/-- The ranges are checked, the group's own stores to those that are read are performed, and poison is met. -/
def State.withRanges (s : State) (read : Bool) (rs : List MatRange) (k : State → Walk) : Walk :=
  match s.rangeTrap rs with
  | some t => .stop s (.trap t)
  | none =>
    if 4 ≤ s.mxuDepth (s.homeCore s.cur) then .stop s (.wait s.me.lowestAlive)
    else if read then
      let s1 := rs.foldl (fun s r => s.settleRange s.cur r.start r.size) s
      match rs.findSome? s1.rangePoison with
      | some e => .stop s1 (.trap (eccTrap s1.me.lowestAlive e))
      | none => k s1
    else k s

/-- The bytes of a range as the group's load at this point reads them (R369). -/
def State.rangeBytes (s : State) (r : MatRange) : List Byte := s.handleBytes s.cur r.start r.size

/-! ### Acceptance (R368, R369, R371) -/

/-- The MXU accepts an instruction. -/
def State.accept (s : State) (o : MxuOp) : State := { s with mxu := s.mxu ++ [o] }

/-- STA and DRAIN in ORDERED mode write at the place of their issue in the contribution (R371): the tile's earlier work
is done first. In FREE mode they queue. -/
def State.acceptWrite (s : State) (o : MxuOp) : State :=
  if (s.gridOf s.cur).ordered then (s.drainMxu o.core).performMxu o else s.accept o

/-- An MXU instruction of the group in issue. -/
def State.mxuOp (s : State) (kind tile : Nat) : MxuOp :=
  ⟨s.homeCore s.cur, s.cur, kind, tile, false, 0, 0, 0, 0, [], [], s.me.clr, s.ir⟩

/-! ### MMA and MMA2 (R362 to R367) -/

/-- The range of an operand, `n` times its size. -/
def operandRange (v : Dword) (k n : Nat) (h : Word) : MatRange :=
  ⟨h, operandHandle v k h, n * operandBytes v k, operandAlign v⟩

/-- FORMAT of the two operand slots, A first (R247). -/
def State.operandTrap (s : State) (sa sb : Nat) : Option Trap :=
  let gr := s.gridOf s.cur
  let va := gr.fmt sa
  let vb := gr.fmt sb
  if slotBad 0 va (slotType vb) then some (slotTrap s.me.lowestAlive sa 0 va)
  else if slotBad 1 vb (slotType va) then some (slotTrap s.me.lowestAlive sb 1 vb)
  else none

/-- MMA on one half, or MMA2 on two. -/
def State.mma (s : State) (halves : Nat) (c sa sb : BitVec 3) (a b : BitVec 5) (z : BitVec 1) :
    Host.Outcome State Fault Refusal :=
  let form := matForm s c [a, b]
  s.issue { form with weight := 4, bad := form.bad || (halves == 2 && !(s.gridOf s.cur).twoshot) } (fun s =>
    s.withToken c.toNat (Token.usedBy s.me.gix) (fun s =>
      match s.operandTrap sa.toNat sb.toNat with
      | some t => .stop s (.trap t)
      | none =>
        let gr := s.gridOf s.cur
        let va := gr.fmt sa.toNat
        let vb := gr.fmt sb.toNat
        let k := mmaK (slotType va) (slotType vb)
        let ra := operandRange va k 1 (s.me.rg a.toNat)
        let rb := operandRange vb k halves (s.me.rg b.toNat)
        s.withRanges true [ra, rb] (fun s =>
          let n := operandBytes vb k
          let bytes := s.rangeBytes rb
          .done (s.accept { s.mxuOp (halves - 1) c.toNat with
            zero := z == 1, sa := sa.toNat, sb := sb.toNat, ha := ra.handle, hb := rb.handle, a := s.rangeBytes ra,
            b := (List.range halves).map (fun h => (bytes.drop (n * h)).take n) }))))

/-- MMA. -/
def execMma (c sa sb : BitVec 3) (a b : BitVec 5) (z : BitVec 1) (s : State) : Host.Outcome State Fault Refusal :=
  s.mma 1 c sa sb a b z
/-- MMA2. -/
def execMma2 (c sa sb : BitVec 3) (a b : BitVec 5) (z : BitVec 1) (s : State) : Host.Outcome State Fault Refusal :=
  s.mma 2 c sa sb a b z

/-! ### Tokens (R359 to R361) -/

/-- Sets the token of a tile of a workgroup. -/
def State.setToken (s : State) (w tile : Nat) (t : Token) : State :=
  s.modWg w (fun x => { x with tokens := x.tokens.set tile t })

/-- ACQA. -/
def execAcqa (c : BitVec 3) (s : State) : Host.Outcome State Fault Refusal :=
  s.issue (matForm s c []) (fun s =>
    let gix := s.me.gix
    s.withToken c.toNat (Token.free' gix) (fun s =>
      let t := (s.tokens s.cur).getD c.toNat (.mxu 0)
      if t.heldBy gix then .done s
      else if (s.gridOf s.cur).ordered then
        let op := if t.usedBy gix then OrdOp.acqa c.toNat else OrdOp.acqaLate c.toNat
        .done (s.modMe (fun g => { g with ops := g.ops ++ [op] }))
      else .done ((s.drainMxu (s.homeCore s.cur)).setToken s.me.wg c.toNat (.held gix))))

/-- RELA. -/
def execRela (c : BitVec 3) (s : State) : Host.Outcome State Fault Refusal :=
  s.issue (matForm s c []) (fun s =>
    let gix := s.me.gix
    s.withToken c.toNat (Token.heldBy gix) (fun s =>
      .done (s.operate (.rela c.toNat) (fun s => s.setToken s.me.wg c.toNat (.mxu gix)))))

/-! ### LDA, STA, DRAIN, ZACC (R370, R372) -/

/-- Halves of a tile. -/
def State.halves (s : State) : Nat := if (s.gridOf s.cur).twoshot then 2 else 1

/-- LDA or STA: the token, the slot, the range, then `k`. -/
def State.tileMove (s : State) (read : Bool) (c sl : BitVec 3) (a : BitVec 5) (k : State → MatRange → State) :
    Host.Outcome State Fault Refusal :=
  s.issue (matForm s c [a]) (fun s =>
    s.withToken c.toNat (Token.usedBy s.me.gix) (fun s =>
      let v := (s.gridOf s.cur).fmt sl.toNat
      if slotBad 4 v 0 then .stop s (.trap (slotTrap s.me.lowestAlive sl.toNat 4 v))
      else
        let h := s.me.rg a.toNat
        let r : MatRange := ⟨h, h, 16384 * s.halves, 16⟩
        s.withRanges read [r] (fun s => .done (k s r))))

/-- LDA. -/
def execLda (c sl : BitVec 3) (a : BitVec 5) (s : State) : Host.Outcome State Fault Refusal :=
  s.tileMove true c sl a (fun s r =>
    s.accept { s.mxuOp 2 c.toNat with sa := sl.toNat, ha := r.handle, a := s.rangeBytes r })

/-- STA. -/
def execSta (c sl : BitVec 3) (a : BitVec 5) (s : State) : Host.Outcome State Fault Refusal :=
  s.tileMove false c sl a (fun s r => s.acceptWrite { s.mxuOp 3 c.toNat with sa := sl.toNat, ha := r.handle })

/-- FORMAT of DRAIN: the accumulator slot, then the output slot (R247, R372). -/
def State.drainTrap (s : State) (so sacc : Nat) : Option Trap :=
  let gr := s.gridOf s.cur
  let vo := gr.fmt so
  let va := gr.fmt sacc
  if slotBad 2 va 0 then some (slotTrap s.me.lowestAlive sacc 2 va)
  else if slotBad 3 vo (slotType va) then some (slotTrap s.me.lowestAlive so 3 vo)
  else none

/-- DRAIN. -/
def execDrain (c so sacc : BitVec 3) (a : BitVec 5) (s : State) : Host.Outcome State Fault Refusal :=
  s.issue (matForm s c [a]) (fun s =>
    s.withToken c.toNat (Token.usedBy s.me.gix) (fun s =>
      match s.drainTrap so.toNat sacc.toNat with
      | some t => .stop s (.trap t)
      | none =>
        let h := s.me.rg a.toNat
        let vo := (s.gridOf s.cur).fmt so.toNat
        let r : MatRange := ⟨h, h, drainBytes vo * s.halves, operandAlign vo⟩
        s.withRanges false [r] (fun s =>
          .done (s.acceptWrite { s.mxuOp 4 c.toNat with sa := so.toNat, sb := sacc.toNat, ha := h }))))

/-- ZACC. -/
def execZacc (c : BitVec 3) (s : State) : Host.Outcome State Fault Refusal :=
  s.issue (matForm s c []) (fun s =>
    s.withToken c.toNat (Token.usedBy s.me.gix) (fun s =>
      s.withRanges false [] (fun s => .done (s.accept (s.mxuOp 5 c.toNat)))))

/-! ### ACCRD and ACCWR (R373) -/

/-- ACCRD and ACCWR: the token, the index, then `k` with the first element. -/
def State.tileAccess (s : State) (c : BitVec 3) (x : BitVec 6) (a : BitVec 5) (k : State → Nat → State) :
    Host.Outcome State Fault Refusal :=
  s.issue { matForm s c [a] with xr := [(x.toNat, 1)] } (fun s =>
    s.withToken c.toNat (Token.heldBy s.me.gix) (fun s =>
      let v := s.me.rg a.toNat
      if 128 * s.halves ≤ v.toNat then .stop s (.trap (addressTrap s.me.lowestAlive (v.setWidth 64)))
      else .done (k (s.drainMxu (s.homeCore s.cur)) (32 * v.toNat))))

/-- ACCRD. -/
def execAccrd (c : BitVec 3) (x : BitVec 6) (a : BitVec 5) (s : State) : Host.Outcome State Fault Refusal :=
  s.tileAccess c x a (fun s e => s.modMe (fun g =>
    g.path.foldl (fun g t => g.wx t x.toNat (s.tiles.get (elementKey g.wg c.toNat (e + t)))) g))

/-- ACCWR. -/
def execAccwr (c : BitVec 3) (x : BitVec 6) (a : BitVec 5) (s : State) : Host.Outcome State Fault Refusal :=
  s.tileAccess c x a (fun s e =>
    let put := fun (m : Sparse 32) (t : Nat) => m.set (elementKey s.me.wg c.toNat (e + t)) (s.me.rx t x.toNat)
    { s with tiles := s.me.path.foldl put s.tiles })

end Sys2Proof.Machine
end

