-- ==== Sys2Proof/Machine/Ordered.lean ====
section
/-!
DEFINITION. Events of ordering domains: the application of rounds (R120 to R125), waking and DEADLOCK (R127, R128, R394),
external writes (R133), the end of an ORDERED copy's reads (R126), and the delivery of pending traps (R390).
-/
namespace Sys2Proof.Machine

/-- An event that is not possible in a state does not happen. -/
def State.when (s : State) (p : Bool) (k : State → State) : Host.Outcome State Fault Refusal :=
  .next (if p then k s else s)

/-! ### Traps that wait for a boundary (R390, R396) -/

/-- The group issues, or would issue, at this moment. -/
def Group.issuing (g : Group) : Bool := g.st == .running || g.st == .handler

/-- A trap is due: the group is at an instruction boundary and not in its handler, what it has in flight may be performed,
and the bytes of its abandoned copies are settled (R178). -/
def State.trapDue (s : State) (i : Nat) : Bool :=
  let g := s.grp i
  g.pend ≠ [] && g.st == .running && g.priv ≠ 1 && g.walkFrom.isNone && g.closing.isNone && g.hostReq.isNone &&
    (s.gridOf i).st == .running && s.flightsOk i && s.copies.all (fun c => c.group != i || !s.unsettled c)

/-- TRAP_DELIVERY. -/
def execTrapDelivery (g : Nat) (s : State) : Host.Outcome State Fault Refusal :=
  s.when (s.trapDue g) (fun s =>
    match (s.grp g).pend with
    | [] => s
    | t :: r => (s.modGrp g (fun x => { x with pend := r })).deliver g t)

/-! ### One contribution (R120, R125) -/

/-- The bytes of a take entry as cells. -/
def TakeEntry.cells (e : TakeEntry) : List (Nat × Byte) :=
  ((List.range 64).filter (fun k => e.mask.getLsbD k)).map (fun k => (64 * e.place + k, e.data.extractLsb' (8 * k) 8))

/-- The buffered bytes: of aliased bytes the entry with the higher virtual address is last (R116). -/
def State.applyTake (s : State) (i : Nat) (es : List TakeEntry) : State :=
  (es.mergeSort (fun a b => a.line ≤ b.line)).foldl (fun s e =>
    s.performHome i { s.viaOf i e.policy e.uc false with dom := some (s.gridOf i).root } e.scratch e.cells) s

/-- The landing of an ORDERED copy (R174); the answer of the outside to its writes is a free value. -/
def State.applyLanding (s : State) (k : Nat) : State :=
  match s.copies[k]? with
  | none => s
  | some c =>
    match c.data with
    | some vs =>
      if c.st ≠ 0 then s
      else
        let (v, s1) := s.free
        s1.landCopy k c vs [] (if ptrSpace (Desc.ofBits c.desc).dst = 4 then v.extractLsb' 0 8 else 0)
    | none => s

/-- A poisoned place that an ordered operation reads at its cue. -/
def State.opError (s : State) (i : Nat) (op : OrdOp) : Option (Nat × Nat) :=
  match op with
  | .atom r => s.poisonAt r.scratch r.addr r.size
  | .bexp h _ => s.poisonAt true (s.handleKey i h) 16
  | .barv h _ => s.poisonAt true (s.handleKey i h) 16
  | .rels h => s.poisonAt true (s.handleKey i h) 32
  | _ => none

/-- An ordered operation that meets an error: SRC 3, the place stays poisoned, and what an atomic returns is free (R406; log
116). -/
def State.failOp (s : State) (i : Nat) (op : OrdOp) (e : Nat × Nat) : State :=
  let s1 := s.lateError i e
  match op with
  | .atom r =>
    let (v, s2) := s1.free
    s2.modGrp i (fun g => g.setOld r v)
  | _ => s1

/-- One ordered operation of group `i` at its cue. -/
def State.applyOp (s : State) (i : Nat) (op : OrdOp) : State :=
  match s.opError i op with
  | some e => s.failOp i op e
  | none =>
  match op with
  | .atom r => s.performAtom i r
  | .binit h n tovr => s.setObj i h 16 (Barrier.init n tovr).toNat
  | .bexp h b => s.barrierOp i 0 h b
  | .barv h b => s.barrierOp i 1 h b
  | .rinit h base cfg => s.setObj i h 32 (Ring.init base cfg).toNat
  | .rels h => s.ringRels i h
  | .land k => s.applyLanding k
  | .bytes key bs => s.performStore i (s.viaOf i 0 false false) true (cellsOf key bs)
  | .rela t => s.setToken (s.grp i).wg t (.mxu (s.grp i).gix)
  | .acqa t => s.setToken (s.grp i).wg t (.held (s.grp i).gix)
  | .acqaLate _ => s

/-- A deferred ACQA at the end of the round (R361). -/
def State.applyLate (s : State) (i tile : Nat) : State :=
  match (s.wgOf i).tokens.getD tile (.mxu 0) with
  | .mxu _ => s.setToken (s.grp i).wg tile (.held (s.grp i).gix)
  | .held k =>
    if k = (s.grp i).gix then s
    else s.modGrp i (fun g => { g with pend := g.pend ++ [{ tokenTrap g.lowestAlive tile with src := 2 }] })

/-- Applies a contribution. -/
def State.applyContribution (s : State) (c : Contribution) : State :=
  c.ops.foldl (fun s o => s.applyOp c.group o) (s.applyTake c.group c.take)

/-- The deferred ACQAs of a contribution. -/
def State.applyDeferred (s : State) (c : Contribution) : State :=
  c.ops.foldl (fun s o => match o with
    | .acqaLate t => s.applyLate c.group t
    | _ => s) s

/-! ### Waking (R127) -/

/-- The awaited condition of a sleeper holds after the rounds applied so far. -/
def State.awaited (s : State) (i : Nat) (sl : Sleep) : Bool :=
  match sl.kind with
  | .mwait _ => (s.grp i).armed.any (·.fired)
  | .cede => false
  | .bwait _ h p => (Barrier.ofNat (s.peek true (s.handleKey i h) 16)).phase != p
  | .awaitf _ h n empty =>
    let r := Ring.ofNat (s.peek true (s.handleKey i h) 32)
    if empty then r.mayFill n else r.hasFilled n

/-- The wake round of a sleeper of a domain with `applied` rounds, when its condition has come about: the first round
after the one it closed (log 22). -/
def State.ordWake (s : State) (applied : Nat) (i : Nat) : State :=
  let g := s.grp i
  match g.st, g.sleep with
  | .sleeping, some sl =>
    let watch := match sl.kind with
      | .mwait _ => true
      | _ => g.round ≤ applied
    if watch && s.awaited i sl then s.modGrp i (fun g => { g with wake := earlier g.wake (max applied g.round) }) else s
  | _, _ => s

/-- Wake rounds of all sleepers of a domain. -/
def State.ordWakes (s : State) (dom : Nat) : State :=
  (s.ctxGroups dom).foldl (fun s i => s.ordWake (s.grd dom).applied i) s

/-- The sleeper's wake round has come, and lies within the effective round of a QUIESCE (R232). -/
def State.wakeDue (s : State) (i : Nat) : Bool :=
  let g := s.grp i
  (s.gridOf i).ordered && g.st == .sleeping && (s.gridOf i).st == .running &&
    (match g.wake with
     | some w => w ≤ (s.rootOf i).applied && (s.quiescing (s.gridOf i).root).all (fun q => w ≤ q.1)
     | none => false)

/-- What the instruction on which a group slept returns when it wakes in round `w` (R127, R183, R340, R350 to R352). -/
def State.wakeResult (s : State) (i w : Nat) (sl : Sleep) : State :=
  match sl.kind with
  | .cede => s
  | .mwait gd => s.modGrp i (fun g =>
      (g.unfire w).wg' gd (if g.armed.any (·.fired) then 0 else 1))
  | .bwait gc h _ =>
    let b := Barrier.ofNat (s.peek true (s.handleKey i h) 16)
    if b.valid then s.phaseDone i gc h b else s.pendTrap i (objTrap codeRing (s.grp i).lowestAlive 1 0 h)
  | .awaitf gc h n _ =>
    let r := Ring.ofNat (s.peek true (s.handleKey i h) 32)
    match r.refuses with
    | some k => s.pendTrap i (objTrap codeRing (s.grp i).lowestAlive k n h)
    | none => s.modGrp i (fun g => g.wg' gc (r.slotHandle (handleRank h) n))

/-- A group wakes at round `w`, with its CUEWAIT record (R127, R411). -/
def State.wakeGroup (s : State) (i w : Nat) : State :=
  match (s.grp i).sleep with
  | none => s
  | some sl =>
    let (v, s1) := s.tapFree
    let s2 := s1.wakeResult i w sl
    (s2.modGrp i (fun g => { g with st := g.resumed, sleep := none, wake := none, lc := 64 * w })).tapGroup i 0x01
      (BitVec.ofNat 32 (w - (s.grp i).round)) (v.extractLsb' 0 32)

/-- GROUP_WAKE. -/
def execGroupWake (g : Nat) (s : State) : Host.Outcome State Fault Refusal :=
  s.when (s.wakeDue g) (fun s => s.wakeGroup g ((s.grp g).wake.getD 0))

/-! ### The application of a round (R121, R122) -/

/-- Contributions of a round in key order. -/
def State.roundContribs (s : State) (dom r : Nat) : List Contribution :=
  ((s.grd dom).contribs.filter (fun c => c.round == r)).mergeSort (fun a b => !keyLt (s.key b.group) (s.key a.group))

/-- Lines that others have written after the domain's present round had read them stand for it as they did before; the bytes
that the others wrote are set aside (R133, R142). -/
def State.underRound (s : State) (dom : Nat) : State × List (Nat × Byte) :=
  let old := (s.grd dom).old
  let places := old.flatMap (fun e => ((List.range 64).filter (fun k => e.2.2.getLsbD k)).map (fun k => 64 * e.1 + k))
  ({ s with mem := places.foldl (fun m a => m.set a ((oldByte old a).getD 0)) s.mem }, places.map (fun a => (a, s.mem.get a)))

/-- The bytes set aside land behind the round, which has been applied (R133). -/
def State.overRound (s : State) (dom : Nat) (late : List (Nat × Byte)) : State :=
  if late = [] then s
  else
    let s1 := (s.poke false late).fireLate dom (linesOf late)
    if s1.slots = [] then s1 else (linesOf late).foldl (fun s l => s.tapLanding dom l) s1

/-- Lines of device memory that a contribution writes. -/
def State.contribLines (s : State) (c : Contribution) : List Nat :=
  (c.take.filter (fun e => !e.scratch)).map (·.place) ++
    c.ops.flatMap (fun o => match o with
      | .atom r => if r.scratch then [] else [r.addr / 64]
      | .land k => match s.copies[k]? with
        | some x => s.copyLines x
        | none => []
      | _ => [])

/-- Lines of device memory that the next round of a domain writes. -/
def State.roundLines (s : State) (dom : Nat) : List Nat :=
  (s.roundContribs dom (s.grd dom).applied).flatMap s.contribLines

/-- The domains that hold back the next round of a domain: loads of their present rounds have read a line that it writes
(R133). -/
def State.roundHolders (s : State) (dom : Nat) : List Nat :=
  let lines := s.roundLines dom
  (List.range s.grids.length).filter (fun k => k != dom && lines.any (s.grd k).holds)

/-- Those, those that hold them back, and so on. -/
def State.heldThrough (s : State) (dom : Nat) : List Nat :=
  (List.range s.grids.length).foldl (fun l _ => (l ++ l.flatMap s.roundHolders).eraseDups) (s.roundHolders dom)

/-- The next round of a domain may be applied beside the others: no domain holds it back; or domains hold each other back in a
circle, each with a round that all its groups have closed, and it is the first of them. To the others its writes then land
after their present rounds (R133, R142; log 16). -/
def State.roundClear (s : State) (dom : Nat) : Bool :=
  let ks := s.heldThrough dom
  ks = [] || (ks.contains dom && ks.all (fun k => dom ≤ k && s.roundReady k && s.roundHolders k ≠ []))

/-- Something of the domain waits for the next round to be applied. -/
def State.roundWanted (s : State) (dom : Nat) : Bool :=
  let d := s.grd dom
  let r := d.applied
  d.contribs ≠ [] || d.ending ≠ [] ||
    (s.ctxGroups dom).any (fun i =>
      let g := s.grp i
      match g.st with
      | .retired => false
      | .sleeping => g.wake.any (fun w => r < w)
      | _ => r < g.round) ||
    (List.range s.grids.length).any (fun k => (s.grd k).root == dom && (s.grd k).st != .done &&
      (s.waitingTeams k).any (fun t => (s.teamClock k t).any (fun c => r < c / 64))) ||
    d.halt.any (fun h => r ≤ h.1 + 2)

/-- The smallest trap that ends a context: by round, then key (R395). -/
def State.firstEnding (s : State) : List Ending → Option Ending
  | [] => none
  | e :: r =>
    match s.firstEnding r with
    | none => some e
    | some f => if e.round < f.round || (e.round == f.round && keyLt (s.key e.group) (s.key f.group)) then some e else some f

/-- The trap that ends the context fell in the round to be applied next. -/
def State.endingDue (s : State) (dom : Nat) : Option Ending :=
  (s.firstEnding (s.grd dom).ending).filter (fun e => e.round ≤ (s.grd dom).applied)

/-- The next round of a domain may be applied, or its context ends in it; rounds that all groups have closed are applied
while the context is saved, too (R399). -/
def State.roundDue (s : State) (dom : Nat) : Bool :=
  let d := s.grd dom
  d.ordered && d.parent.isNone && d.status.isNone && s.roundReady dom && s.roundWanted dom && s.roundClear dom &&
    (d.st == .running || (d.st == .saved && (s.endingDue dom).isNone)) && !(s.ctxGroups dom).any s.wakeDue

/-- Writes that no armed set looks back to any more are forgotten. -/
def State.pruneWrites (s : State) (dom : Nat) : State :=
  let ms := (s.ctxGroups dom).filterMap (fun i => if (s.grp i).armed = [] then none else some (s.grp i).monRound)
  s.modGrid dom (fun d => { d with wrote := if ms = [] then [] else d.wrote.filter (fun w => ms.any (fun m => m < w.1)) })

/-- HALTCTX has run its course once round h + 2 is applied: the groups that still sleep halt asleep, no workgroup starts
any more (R385). -/
def State.haltSleepers (s : State) (dom : Nat) : State :=
  match (s.grd dom).halt with
  | none => s
  | some (h, i) =>
    if (s.grd dom).applied = h + 3 then
      ({ s with groups := s.groups.mapIdx (fun k (g : Group) =>
          if k != i && (s.grd g.grid).root == dom && g.st == GroupState.sleeping then g.stopWalk.halt else g) } : State).closeContext dom
    else s

/-- Applies the next round of a domain, or, when a trap of that round ends the context, ends it: of the traps of the
round, which every group has left, that with the smallest key (R121, R395). The copies of the lines that are left then
reflect the round (R61), and what others wrote to lines that the round had read lands behind it (R133). -/
def State.applyRound (s : State) (dom : Nat) : State :=
  match s.endingDue dom with
  | some e => s.endContext dom e
  | none =>
    let r := (s.grd dom).applied
    let cs := s.roundContribs dom r
    let (s0, late) := s.underRound dom
    let s1 := cs.foldl (fun s c => s.applyContribution c) s0
    let s2 := cs.foldl (fun s c => s.applyDeferred c) s1
    let s3 := s2.modGrid dom (fun d =>
      { d with applied := r + 1, reads := [], old := [], contribs := d.contribs.filter (fun c => c.round != r) })
    (((((s3.advanceLines dom (r + 1)).overRound dom late)).pruneWrites dom).ordWakes dom).haltSleepers dom

/-! ### DEADLOCK (R128, R394) -/

/-- Sleeping groups of a domain. -/
def State.sleepers (s : State) (dom : Nat) : List Nat := (s.ctxGroups dom).filter (fun i => (s.grp i).st == .sleeping)

/-- Every live group of the domain sleeps, its round closed, with nothing pending that could wake it. -/
def State.allAsleep (s : State) (dom : Nat) : Bool :=
  let d := s.grd dom
  d.contribs = [] && d.ending = [] && d.halt.all (fun h => h.1 + 2 < d.applied) && s.sleepers dom ≠ [] &&
    (s.ctxGroups dom).all (fun i =>
      let g := s.grp i
      g.st == .retired || (g.st == .sleeping && g.wake.isNone && g.closing.isNone)) &&
    (List.range s.grids.length).all (fun k => (s.grd k).root != dom || (s.grd k).st == .done ||
      (s.waitingTeams k).all (fun t => (s.teamClock k t).isNone))

/-- DEADLOCK is due. -/
def State.deadlocked (s : State) (dom : Nat) : Bool :=
  let d := s.grd dom
  d.ordered && d.parent.isNone && d.st == .running && d.status.isNone && !d.hostwake && s.allAsleep dom

/-- The sleep of group `i` ends with a trap at the instruction on which it slept, in round `r` (R394). -/
def Group.rewind (g : Group) (r : Nat) : Group :=
  match g.sleep with
  | none => g
  | some sl =>
    let back := fun (g : Group) (t : Nat) => if inMask g.exited t then g else g.wpc t sl.pc
    { ((List.range 32).filter (fun t => inMask sl.mask t)).foldl back g with
      st := g.resumed, sleep := none, wake := none, lc := 64 * r, sel := sl.pc }

/-- Raises DEADLOCK: D is the highest round that a group has closed, and the trap falls in round D + 1. -/
def State.raiseDeadlock (s : State) (dom : Nat) : State :=
  let i := s.smallest (s.sleepers dom)
  let r := max (s.grd dom).closed (s.grd dom).applied
  let s1 := s.modGrp i (fun g => g.rewind r)
  s1.takeTrap i { Trap.plain codeDeadlock (s1.grp i).lowestAlive with info := BitVec.ofNat 64 (r - 1), whole := true }

/-- DEADLOCK. -/
def execDeadlock (dom : Nat) (s : State) : Host.Outcome State Fault Refusal :=
  s.when (s.deadlocked dom) (fun s => s.raiseDeadlock dom)

/-! ### External writes (R62, R133, R134, R163) -/

/-- A write of at most one line by another agent is performed at its home slice, in a way of the tenant that owns the frame
(R53, R72; log 118); monitors of every mode see it. -/
def State.landExternal (s : State) (w : ExtWrite) : State :=
  let cells := cellsOf w.addr w.data
  ((((s.keepOld none cells).homeStore (s.frameVia w.addr) cells).poke false cells).fire none false (linesOf cells)).tellDomains
    none (linesOf cells)

/-- A write of lines may land before what waits of `older`: no domain has read one of them in its present round (R133),
no older write to them waits, and of the host's posted writes no older one at all (R163). -/
def State.mayLand (s : State) (older : List ExtWrite) (host : Bool) (lines : List Nat) : Bool :=
  s.linesOk noDomain lines && older.all (fun x => !lines.contains (x.addr / 64) && !(x.host && host))

/-- The write may land now. -/
def State.externalDue (s : State) (i : Nat) : Bool :=
  match s.ext[i]? with
  | none => false
  | some w => s.mayLand (s.ext.take i) w.host [w.addr / 64]

/-- EXTERNAL_WRITE_LAND. -/
def execExternalWriteLand (i : Nat) (s : State) : Host.Outcome State Fault Refusal :=
  s.when (s.externalDue i) (fun s =>
    match s.ext[i]? with
    | none => s
    | some w => ({ s with ext := s.ext.eraseIdx i } : State).landExternal w)

/-- Cuts a write into lines: at most `fuel` of them. -/
def cutLines (host : Bool) : Nat → Nat → List Byte → List ExtWrite
  | 0, _, _ => []
  | fuel + 1, addr, data =>
    if data = [] then []
    else
      let n := 64 - addr % 64
      ⟨addr, data.take n, host⟩ :: cutLines host fuel (addr + n) (data.drop n)

/-- The lines of a write of another agent. -/
def extLines (host : Bool) (addr : Nat) (data : List Byte) : List ExtWrite :=
  cutLines host (data.length / 64 + 2) addr data

/-- Every line of some bytes may be written now. -/
def State.writeOpen (s : State) (host : Bool) (addr n : Nat) : Bool := s.mayLand s.ext host (linesFrom addr n)

/-- A write of another agent: performed at once where it may land, else it waits (R133, R163). -/
def State.writeExternal (s : State) (host : Bool) (addr : Nat) (data : List Byte) : State :=
  if s.writeOpen host addr data.length then (extLines host addr data).foldl (fun s w => s.landExternal w) s
  else { s with ext := s.ext ++ extLines host addr data }

/-- HOST_BAR_WRITE; `addr` is the device-physical address behind the BAR (log 23). -/
def execHostBarWrite (addr : Nat) (data : List Byte) (s : State) : Host.Outcome State Fault Refusal :=
  s.when (addr + data.length ≤ 2 ^ 47) (fun s => s.writeExternal true addr data)

/-! ### The reads of an ORDERED copy end (R126) -/

/-- The copy's source is still to be read. -/
def State.sourceDue (s : State) (i : Nat) : Bool :=
  match s.copies[i]? with
  | none => false
  | some c => c.st == 0 && c.data.isNone && (s.gridOf c.group).ordered && (s.gridOf c.group).st == .running

/-- COPY_SOURCE_READ_DONE: the issuing group may close its round, and closes it when it waits to. -/
def execCopySourceReadDone (i : Nat) (s : State) : Host.Outcome State Fault Refusal :=
  s.when (s.sourceDue i) (fun s =>
    match s.copies[i]? with
    | none => s
    | some c => (s.readSource i).tryClose c.group)

end Sys2Proof.Machine
end

