-- ==== Sys2Proof/Machine/Distribute.lean ====
section
/-!
DEFINITION. The distributor: placement and the start of workgroups (R195, R197, R215 to R217, R225 to R227).
-/
namespace Sys2Proof.Machine

/-! ### Resources of a core (R5, R6, R195, R215) -/

/-- Cluster of a core. -/
def clusterOf (core : Nat) : Nat := core / 24

/-- A hard function owns its clusters; a time-sliced one runs on the pool (R436). -/
def State.ownsCluster (s : State) (f c : Nat) : Bool :=
  if s.fnSliced f then
    !(List.range 32).any (fun k => s.fnEnabled k && !s.fnSliced k && s.mapBit (partBase k + 0x008) c)
  else s.mapBit (partBase f + 0x008) c

/-- Live groups whose registers a core holds. -/
def State.coreGroups (s : State) (core : Nat) : List Nat :=
  s.groupIds.filter (fun i => (s.grp i).core == core && (s.gridOf i).st != .saved && (s.gridOf i).st != .done &&
    !(s.wgOf i).retired)

/-- Workgroups of a core: those of running contexts. -/
def State.coreWgs (s : State) (core : Nat) : List Nat :=
  (List.range s.wgs.length).filter (fun w =>
    let x := s.wgp w
    let g := s.grd x.grid
    (x.core == core || (g.twoshot && x.core + 1 == core)) && g.st != .saved && g.st != .done)

/-- A team holds its scratchpads until its last workgroup retires (R28, R195). -/
def State.teamHeld (s : State) (w : Nat) : Bool :=
  let x := s.wgp w
  (List.range (s.grd x.grid).team).any (fun k => !(s.wgp (x.team + k)).retired)

/-- Register slots and registers per thread that the groups of a lane hold. -/
def State.laneUse (s : State) (gs : List Nat) (lane : Nat) : List Nat × Nat :=
  let mine := gs.filter (fun i => (s.grp i).lane == lane)
  (mine.map (fun i => (s.grp i).gslot), (mine.map (fun i => (s.gridOf i).nregs)).sum)

/-- The free register slots of a core for groups with `r` registers per thread: of each of its 16 lanes, of 256 registers
and 8 slots, as many as both leave (R5, R6, R199; log 24). -/
def State.freeSlots (s : State) (core r : Nat) : List (Nat × Nat) :=
  let gs := s.coreGroups core
  (List.range 16).flatMap (fun lane =>
    let u := s.laneUse gs lane
    (((List.range 8).filter (fun k => !u.1.contains k)).take ((256 - u.2) / r)).map (fun k => (lane, k)))

/-- A core has slots for `n` more groups with `r` registers per thread. -/
def State.roomFor (s : State) (core n r : Nat) : Bool := n ≤ (s.freeSlots core r).length

/-- Scratchpad bytes of a core that teams hold. -/
def State.padsHeld (s : State) (core : Nat) : Nat :=
  (((s.coreWgs core).filter s.teamHeld).map (fun w => (s.grd (s.wgp w).grid).scratchBytes)).sum

/-- Accumulator tiles of a core that workgroups hold. -/
def State.tilesHeld (s : State) (core : Nat) : Nat :=
  (((s.coreWgs core).filter (fun w => !(s.wgp w).retired)).map (fun w => (s.grd (s.wgp w).grid).accs)).sum

/-- Take quota of a core that groups hold, in KiB. -/
def State.takeHeld (s : State) (core : Nat) : Nat :=
  (((s.coreGroups core).filter (fun i => (s.gridOf i).ordered)).map (fun i => (s.gridOf i).takeQuota)).sum

/-- A core has room for the scratchpad of one more workgroup of a grid. -/
def State.padFits (s : State) (gd core : Nat) : Bool := s.padsHeld core + (s.grd gd).scratchBytes ≤ 393216

/-- A core has room for its half of one more workgroup of a grid. The take buffers of a core may hold 2 MiB, with what
its overflow area takes (R66; log 24). -/
def State.coreFits (s : State) (gd core : Nat) : Bool :=
  let g := s.grd gd
  let n := g.groupsPerCore
  s.roomFor core n g.nregs && s.padFits gd core && s.tilesHeld core + g.accs ≤ 8 &&
    (!g.ordered || s.takeHeld core + n * g.takeQuota ≤ 2048)

/-- A core holds no more than it has (R5, R195). -/
def State.coreHolds (s : State) (core : Nat) : Bool :=
  s.padsHeld core ≤ 393216 && s.tilesHeld core ≤ 8 && s.takeHeld core ≤ 2048

/-! ### Placement (R225, R226) -/

/-- The leader core of member `k`: the k-th digit of the placement in base 1,152 (log 24). -/
def placed (core k : Nat) : Nat := core / 1152 ^ k % 1152

/-- Every core of a team's placement, pairs counted twice. -/
def teamPlaces (two : Bool) (team core : Nat) : List Nat :=
  (List.range team).flatMap (fun k => if two then [placed core k, placed core k + 1] else [placed core k])

/-- Dies on which a team may run. -/
def Grid.diesOf (g : Grid) (team : Nat) : List Nat :=
  if g.pin then [g.dies.getD (team % g.dies.length) 8] else g.dies

/-- Resident workgroups of a logical core. -/
def State.residents (s : State) (gd lc : Nat) : List Nat :=
  (List.range s.wgs.length).filter (fun w =>
    (s.wgp w).grid == gd && !(s.wgp w).retired && (s.wgp w).id % (s.grd gd).lcores == lc)

/-- A logical core with a resident workgroup stays on its physical core (R225). -/
def State.boundTo (s : State) (gd w core : Nat) : Bool :=
  (s.residents gd (w % (s.grd gd).lcores)).all (fun x => (s.wgp x).core == core)

/-- The placement is one that R215, R225 and R226 allow. -/
def State.placementOk (s : State) (gd team core : Nat) : Bool :=
  let g := s.grd gd
  let cs := teamPlaces g.twoshot g.team core
  let c0 := placed core 0
  cs.all (fun c => clusterOf c == clusterOf c0) && cs.eraseDups.length == cs.length &&
    (!g.twoshot || (List.range g.team).all (fun k => placed core k % 2 == 0)) &&
    (g.diesOf team).contains (c0 / 144) && s.ownsCluster g.fn (clusterOf c0) && cs.all (s.coreFits gd) &&
    (List.range g.team).all (fun k => s.boundTo gd (team * g.team + k) (placed core k))

/-! ### Slots (R129, R194) -/

/-- The slot that a workgroup takes: fixed in ORDERED mode, a free one in FREE mode, of which the model takes the lowest
(R39, R194; log 100). -/
def State.slotFor (s : State) (gd w : Nat) : Option Nat :=
  let g := s.grd gd
  if g.ordered then some (w / g.lcores % g.slots)
  else (List.range g.slots).find? (fun k => (s.residents gd (w % g.lcores)).all (fun x => (s.wgp x).slot != k))

/-- The birth clock of a team whose slots are free (R112, R129 to R131). -/
def State.birthClock (s : State) (gd team : Nat) : Option Nat :=
  let g := s.grd gd
  if g.ordered then s.teamClock gd team
  else if (List.range g.team).all (fun k => (s.slotFor gd (team * g.team + k)).isSome) then some 0 else none

/-! ### The start (R197, R216) -/

/-- A group at the start of its workgroup. -/
def State.newGroup (s : State) (gd wg gix core lc : Nat) (at_ : Nat × Nat) : Group :=
  let g := s.grd gd
  { Group.blank with
    grid := gd, wg := wg, gix := gix, st := .running, priv := if g.sup then 2 else 0, lc := lc, exited := 0,
    pc := (List.range 32).foldl (fun m t => m.set t (BitVec.ofNat 64 g.entry)) [],
    spb := (List.range 32).foldl (fun m t => m.set t (BitVec.ofNat 32 g.priv)) [],
    sel := g.entry, core := if g.twoshot && g.groupsPerCore ≤ gix then core + 1 else core,
    lane := at_.1, gslot := at_.2 }

/-- Starts workgroup `w` of a grid as member `k` of the team whose records begin at index `first`. -/
def State.startWg (s : State) (gd first w k core lc : Nat) : State :=
  let g := s.grd gd
  let wg : Workgroup :=
    { grid := gd, id := w, slot := (s.slotFor gd w).getD 0, team := first, core := placed core k,
      tokens := List.replicate 8 (.mxu 0), retired := false, lastLc := lc, cancelled := [], qfences := [] }
  let places := (s.freeSlots (placed core k) g.nregs).take g.groupsPerCore ++
    (if g.twoshot then s.freeSlots (placed core k + 1) g.nregs else [])
  let gs := (List.range g.ngrp).map (fun gix => s.newGroup gd (first + k) gix (placed core k) lc (places.getD gix (0, 0)))
  { s with wgs := s.wgs ++ [wg], groups := s.groups ++ gs }

/-- Every team below `nextTeam` has started. -/
def State.advanceOffer (s : State) (gd : Nat) : State :=
  let started := s.startedTeams gd
  let from_ := (s.grd gd).nextTeam
  let next := ((List.range (started.length + 1)).map (fun k => from_ + k)).find? (fun t => !started.contains t)
  s.modGrid gd (fun g => { g with nextTeam := next.getD from_ })

/-- Starts a team. -/
def State.startTeam (s : State) (gd team core lc : Nat) : State :=
  let first := s.wgs.length
  let n := (s.grd gd).team
  ((List.range n).foldl (fun s k => s.startWg gd first (team * n + k) k core lc) s).advanceOffer gd

/-- A function may run: a hard one at all times, a time-sliced one in its slice (R443). -/
def State.holdsSlice (s : State) (f : Nat) : Bool := !s.fnSliced f || s.slice == f

/-- A team waits for nothing but a place: its grid runs, its slots are free, and no halt or stop has passed its birth
round. -/
def State.teamReady (s : State) (gd team : Nat) : Bool :=
  let g := s.grd gd
  let root := s.grd g.root
  g.st == .running && g.status.isNone && root.st == .running && s.holdsSlice g.fn &&
    (match s.birthClock gd team with
     | none => false
     | some c => root.halt.all (fun h => !g.ordered || c / 64 ≤ h.1 + 2))

/-- A core has room for a member of a team, or a pair of cores for its two halves. -/
def State.memberFits (s : State) (gd c : Nat) : Bool :=
  if (s.grd gd).twoshot then c % 2 == 0 && s.coreFits gd c && s.coreFits gd (c + 1) else s.coreFits gd c

/-- Some cluster has cores for a team. -/
def State.hasPlace (s : State) (gd team : Nat) : Bool :=
  let g := s.grd gd
  let bound := (List.range g.team).filter (fun k => s.residents gd ((team * g.team + k) % g.lcores) != [])
  (List.range 48).any (fun k => (g.diesOf team).contains (k / 6) && s.ownsCluster g.fn k &&
    (let cores := ((List.range 24).map (fun c => 24 * k + c)).filter (s.memberFits gd)
     let homes := bound.map (fun m => cores.find? (s.boundTo gd (team * g.team + m)))
     homes.all (·.isSome) && homes.eraseDups.length == homes.length && g.team ≤ cores.length))

/-- Every child of the same parent grid with a smaller identity has had its first workgroup offered: it has started, or
it would not take the offer (R227). -/
def State.eldersOffered (s : State) (gd : Nat) : Bool :=
  let g := s.grd gd
  (List.range s.grids.length).all (fun k =>
    let x := s.grd k
    g.parent.isNone || x.parent != g.parent || !keyLt x.key g.key || 0 < x.nextTeam ||
      !(s.teamReady k 0 && s.hasPlace k 0))

/-- A team may be offered a place. -/
def State.teamDue (s : State) (gd team : Nat) : Bool := s.teamReady gd team && s.eldersOffered gd

/-- A team whose offer would be taken. -/
def State.takesOffer (s : State) (gd team : Nat) : Bool := s.teamDue gd team && s.hasPlace gd team

/-- No team with a lower identifier of the grid, and none of a grid of a higher level, would take the offer before it
(R217, R224). -/
def State.offeredFirst (s : State) (gd team : Nat) : Bool :=
  (s.waitingTeams gd).all (fun t => team ≤ t || !s.takesOffer gd t) &&
    (List.range s.grids.length).all (fun k =>
      s.queuePrio (s.grd (s.grd k).root).queue ≤ s.queuePrio (s.grd (s.grd gd).root).queue ||
        (s.waitingTeams k).all (fun t => !s.takesOffer k t))

/-- A team may start: it is due, its place is free, and it is its turn. -/
def State.startDue (s : State) (gd team core : Nat) : Bool :=
  (s.waitingTeams gd).contains team && s.teamDue gd team && s.placementOk gd team core && s.offeredFirst gd team

/-- WORKGROUP_START. -/
def execWorkgroupStart (gd team core : Nat) (s : State) : Host.Outcome State Fault Refusal :=
  s.when (s.startDue gd team core) (fun s => s.startTeam gd team core ((s.birthClock gd team).getD 0))

end Sys2Proof.Machine
end

