-- ==== Sys2Proof/Machine/Arrive.lean ====
section
/-!
DEFINITION. Events that end what a group or a unit has under way: timeouts (R340, R344), responses and performed accesses
(R45, R53, R73, R400), copies (R173, R178), MXU work (R368), MIGR (R379 to R381), HALTCTX in FREE mode (R384), the
barrier network (R186), refused requests (R189, R190), and errors of the memories (R82, R406, R407).
-/
namespace Sys2Proof.Machine

/-! ### Sleeps of FREE mode (R340, R344) -/

/-- A FREE group sleeps with a timeout under way. -/
def State.timing (s : State) (i : Nat) : Bool :=
  !(s.gridOf i).ordered && (s.gridOf i).st == .running && (s.grp i).st == .sleeping && (s.grp i).wake.isSome

/-- It sleeps in MWAIT. -/
def Group.inMwait (g : Group) : Bool :=
  match g.sleep with
  | some ⟨.mwait _, _, _⟩ => true
  | _ => false

/-- The end of a sleep: TIMEOUT for MWAIT, with every FIRED bit cleared. -/
def Group.expire (g : Group) : Group :=
  let g1 := { g with st := g.resumed, sleep := none, wake := none }
  match g.sleep with
  | some ⟨.mwait gd, _, _⟩ =>
    ({ g1 with armed := g1.armed.map (fun (l : ArmedLine) => { l with fired := false }) } : Group).wg' gd 1
  | _ => g1

/-- MWAIT_TIMEOUT. -/
def execMwaitTimeout (g : Nat) (s : State) : Host.Outcome State Fault Refusal :=
  s.when (s.timing g && (s.grp g).inMwait) (fun s => s.modGrp g Group.expire)

/-- CEDE_EXPIRY. -/
def execCedeExpiry (g : Nat) (s : State) : Host.Outcome State Fault Refusal :=
  s.when (s.timing g && !(s.grp g).inMwait) (fun s => s.modGrp g Group.expire)

/-! ### Completions from outside (R45) -/

/-- DETAIL of an access that the host or a peer refuses: the completion status, step 0 and reason 0 of R388. -/
def completionTrap (r : HostReq) (status : BitVec 8) : Trap :=
  { Trap.plain codeAddress r.thread with detail := status ++ 0#4 ++ 10#4, info := r.ptr }

/-- A host or peer access of group `i` is complete: its thread is done, and the walk goes on at the next. A load of host
memory returns what it holds at the bus address, which the model takes untranslated, one memory for every function; the
data of a peer's response is the event's (R43, R45; logs 50, 104). The response to a load sent under an older generation
is dropped (R400). A refused access of a context that is saved meets its error again after the restore (R402). -/
def State.completeHost (s : State) (i : Nat) (r : HostReq) (status : BitVec 8) (data : List Byte) : State :=
  let s1 := s.modGrp i (fun g => { g with hostReq := none })
  let o := ptrOffset r.ptr
  if !r.store && r.gen ≠ (s.grp i).gen then s
  else if status ≠ 0 && (s.gridOf i).st = .saved then (if r.store then s1 else s)
  else if status ≠ 0 then
    if (s.grp i).st = .retired then s1 else s1.stopAt i false (.trap (completionTrap r status))
  else
    let s2 : State := if r.store && !toPeer o then
        { s1 with host := writeBytes s1.host o (leBytes r.size r.data.toNat) } else s1
    if (s.grp i).st = .retired then s2
    else
      let v := if toPeer o then leAt data 0 r.size else readBytes s1.host o r.size
      s2.modGrp i (fun g =>
        let g1 := if r.store then g else g.setLoaded r.uni r.thread r.reg r.size r.sx v
        { g1 with walkFrom := some (r.thread + 1) })

/-- HOST_COMPLETION. -/
def execHostCompletion (g : Nat) (status : BitVec 8) (data : List Byte) (s : State) : Host.Outcome State Fault Refusal :=
  s.when (s.grp g).hostReq.isSome (fun s =>
    match (s.grp g).hostReq with
    | none => s
    | some r => s.completeHost g r status data)

/-! ### Accesses in flight (R53, R73, R154, R400) -/

/-- Access `k` of group `i` may be performed now: it is of the kind, no older one of the group meets its unit, and neither
the line it writes nor that of a store ahead of a load is held back by a domain (R58, R133). -/
def State.flightDue (s : State) (i k kind : Nat) : Bool :=
  match (s.grp i).flight[k]? with
  | none => false
  | some f => f.kind == kind && (f.scratch || if kind = 0 then !s.loadHeld i f.via f.addr f.n else s.linesOk noDomain [f.addr / 64]) &&
      ((s.grp i).flight.take k).all (fun x => !x.meets f.scratch f.addr f.n)

/-- Store `k` is performed, with the pieces that go with it (R53). -/
def State.storeNow (s : State) (i k : Nat) (f : Flight) : State :=
  let fs := s.pieceSet (s.grp i).flight f
  (s.modGrp i (fun g => { g with flight :=
    if fs.length = 1 then g.flight.eraseIdx k else g.flight.filter (fun x => !f.sameStore x) })).performPieces i f fs

/-- Performs access `k`; the response to a load sent under an older generation is dropped, and the load stays to be sent
again (R400). -/
def State.flightNow (s : State) (i k : Nat) : State :=
  match (s.grp i).flight[k]? with
  | none => s
  | some f =>
    if f.kind = 0 && f.gen ≠ (s.grp i).gen then s
    else if f.kind = 1 then s.storeNow i k f
    else (s.modGrp i (fun g => { g with flight := g.flight.eraseIdx k })).performFlight i f [f]

/-- LOAD_RESPONSE. -/
def execLoadResponse (g k : Nat) (s : State) : Host.Outcome State Fault Refusal :=
  s.when (s.flightDue g k 0) (fun s => s.flightNow g k)
/-- STORE_PERFORM. -/
def execStorePerform (g k : Nat) (s : State) : Host.Outcome State Fault Refusal :=
  s.when (s.flightDue g k 1) (fun s => s.flightNow g k)
/-- ATOMIC_PERFORM. -/
def execAtomicPerform (g k : Nat) (s : State) : Host.Outcome State Fault Refusal :=
  s.when (s.flightDue g k 2) (fun s => s.flightNow g k)

/-! ### Copies of FREE mode (R173, R178, R384) -/

/-- The copy may be performed now, after the stores of its group that precede it (R133, R164, R173). -/
def State.copyDue (s : State) (i : Nat) (c : Copy) : Bool :=
  !(s.gridOf c.group).ordered && (s.gridOf c.group).st == .running && (c.st == 0 || c.st == 5) && !s.copyBlocked i c &&
    s.linesOk noDomain (s.copyLines c) && s.flightsOk c.group

/-- The destination bytes of a cancelled or abandoned copy may be settled now (R133, R178, R384). -/
def State.cancelDue (s : State) (c : Copy) : Bool :=
  s.unsettled c && (s.gridOf c.group).st == .running && s.linesOk noDomain (s.copyLines c)

/-- COPY_PERFORM: a copy reads and writes whole, in one step between those of other agents (R173; log 105); a ring copy
whose slots are filled lands in them (R181). -/
def execCopyPerform (i : Nat) (status : BitVec 8) (s : State) : Host.Outcome State Fault Refusal :=
  .next (match s.copies[i]? with
    | none => s
    | some c =>
      if s.copyDue i c then (if c.st = 5 then s.landSlots i c else s.performCopy i c status)
      else if s.cancelDue c then s.settleCancelled i c
      else s)

/-! ### MXU work (R368) -/

/-- The oldest accepted instruction of an MXU finishes. -/
def State.finishMxu (s : State) (core : Nat) : State :=
  match s.mxu.find? (fun o => o.core == core) with
  | none => s
  | some o => ({ s with mxu := s.mxu.erase o } : State).performMxu o

/-- MXU_COMPLETE. -/
def execMxuComplete (core : Nat) (s : State) : Host.Outcome State Fault Refusal :=
  s.when (s.mxu.any (fun o => o.core == core && (s.gridOf o.group).st != .saved)) (fun s => s.finishMxu core)

/-! ### MIGR (R379 to R381) -/

/-- A core of the target die that the group's function owns and that can take its registers; of the home core's die, the
home core alone (R380). -/
def State.landable (s : State) (i core : Nat) : Bool :=
  let home := s.ownCore i
  core < 1152 && core / 144 == (s.grp i).target && (home / 144 != (s.grp i).target || core == home) &&
    s.ownsCluster (s.gridOf i).fn (clusterOf core) && s.roomFor core 1 (s.gridOf i).nregs

/-- The migrating group, its round closed (R119, R177), may arrive at a core: at its present one when that lies on the
target die or when no core can take it; else at one that can (R380; log 112). -/
def State.arrivalOk (s : State) (i core : Nat) : Bool :=
  let g := s.grp i
  g.st == .migrating && g.closing.isNone && (s.gridOf i).st == .running &&
    (if g.core / 144 = g.target then core == g.core
     else s.landable i core || (core == g.core && !(List.range 1152).any (s.landable i)))

/-- Arrival: on another core the group takes a free slot of a lane (R199) and runs again, in FREE mode behind an acquire at
device scope, with the monitor entries of its core (R343, R381). -/
def State.arrive (s : State) (i core : Nat) : State :=
  let at_ := if core = (s.grp i).core then ((s.grp i).lane, (s.grp i).gslot)
    else (s.freeSlots core (s.gridOf i).nregs).headD (0, 0)
  let s1 := s.modGrp i (fun g => { g with core := core, lane := at_.1, gslot := at_.2, st := g.resumed })
  if (s1.gridOf i).ordered then s1 else (s1.acquire i 2).retakeMonitors i

/-- MIGR_ARRIVAL. -/
def execMigrArrival (g core : Nat) (s : State) : Host.Outcome State Fault Refusal :=
  s.when (s.arrivalOk g core) (fun s => s.arrive g core)

/-! ### HALTCTX in FREE mode (R384) -/

/-- Every copy of the context has landed, or been cancelled or abandoned with its bytes settled. -/
def State.haltSettled (s : State) (i : Nat) : Bool :=
  let root := (s.gridOf i).root
  (s.grp i).haltWait.isSome && (s.gridOf i).st == .running && s.openCopies root == [] &&
    s.copies.all (fun c => (s.gridOf c.group).root != root || !s.unsettled c)

/-- A count saturated to 16 bits. -/
def sat16 (n : Nat) : BitVec 16 := BitVec.ofNat 16 (min n 65535)

/-- The HALTCTX of group `i` completes and writes gs: copies drained above copies cancelled. -/
def State.completeHalt (s : State) (i : Nat) : State :=
  match (s.grp i).haltWait with
  | none => s
  | some (gs, before, cancelled) =>
    let landed := (s.copiesIn (s.gridOf i).root (fun x => x == 1)).length - before
    let s1 := s.modGrp i (fun g => { g.wg' gs (sat16 landed ++ sat16 cancelled) with haltWait := none })
    let s2 : State := { s1 with cur := i, at' := (s1.grp i).sel, pfx := none }
    s2.complete {} s2.me.path

/-- HALTCTX_COMPLETE. -/
def execHaltctxComplete (g : Nat) (s : State) : Host.Outcome State Fault Refusal :=
  s.when (s.haltSettled g) (fun s => s.completeHalt g)

/-! ### The barrier network (R186) -/

/-- Message `i` may be applied: it is the oldest of its group to its barrier. -/
def State.messageDue (s : State) (i : Nat) : Bool :=
  match s.barNet[i]? with
  | none => false
  | some m => (s.gridOf m.group).st != .saved &&
      (s.barNet.take i).all (fun x => x.group != m.group || x.handle != m.handle)

/-- BARRIER_NETWORK_ARRIVAL. -/
def execBarrierNetworkArrival (i : Nat) (s : State) : Host.Outcome State Fault Refusal :=
  s.when (s.messageDue i) (fun s =>
    match s.barNet[i]? with
    | none => s
    | some m => ({ s with barNet := s.barNet.eraseIdx i } : State).barrierOp m.group m.kind m.handle m.bytes)

/-! ### Refused requests (R189, R190) -/

/-- The request of group `i` waits to be tried again. -/
def State.nackDue (s : State) (i : Nat) : Bool :=
  (s.grp i).nack.any (fun n => !n.granted) && (s.grp i).st != .retired && (s.gridOf i).st == .running

/-- Copies of group `i` whose credits wait to be tried again. -/
def State.creditsDue (s : State) (i : Nat) : List Nat :=
  if (s.gridOf i).st = .running then
    (List.range s.copies.length).filter (fun k => s.copies[k]?.any (fun c => c.group == i && c.st == 6))
  else []

/-- The request would be refused again. -/
def State.stillRefused (s : State) (i : Nat) (n : Nack) : Bool :=
  match n.unit with
  | 0 => if n.again then (s.armedAnew i).isNone else (s.monitorSlot i (s.monitorsUsed n.inst)).isNone
  | 1 => s.landingRefused i n.inst
  | 2 => (s.atomSlot i n.inst).isNone
  | _ => (s.netSlot i n.inst).isNone

/-- The request is accepted: the instruction makes it again as it goes on, and a group that has come to a core has its armed
set. -/
def State.granted (s : State) (i : Nat) (n : Nack) : State :=
  s.modGrp i (fun g =>
    if n.again then { g with nack := none, ticket := none, armed := (s.armedAnew i).getD g.armed }
    else { g with nack := some { n with granted := true } })

/-- Tries the request again. -/
def State.retryRequest (s : State) (i : Nat) : State :=
  match (s.grp i).nack with
  | none => s
  | some n => if s.stillRefused i n then s.nacked i { n with count := n.count + 1 } else s.granted i n

/-- Tries again what group `i` and its streamer have been refused. -/
def State.retry (s : State) (i : Nat) : State :=
  (s.creditsDue i).foldl (fun s k => s.retryCredits k) (if s.nackDue i then s.retryRequest i else s)

/-- Something of group `i` waits to be tried again. -/
def State.retryDue (s : State) (i : Nat) : Bool := s.nackDue i || s.creditsDue i ≠ []

/-- It would be accepted now. -/
def State.retryOpen (s : State) (i : Nat) : Bool :=
  (s.nackDue i && (s.grp i).nack.any (fun n => !s.stillRefused i n)) ||
    (s.creditsDue i).any (fun k => s.copies[k]?.any (fun c => c.credits.any (fun x => (s.creditSlot i x.handle x.ticket).isSome)))

/-- NACK_RETRY. -/
def execNackRetry (g : Nat) (s : State) : Host.Outcome State Fault Refusal :=
  s.when (s.retryDue g) (fun s => s.retry g)

/-! ### Errors of the memories (R82, R406, R407) -/

/-- The group that an error names: bits [62:47] of its location (log 26). -/
def errorGroup (loc : Dword) : Nat := (loc.extractLsb' 47 16).toNat
/-- The place of an error: a device-physical address or a scratchpad key. -/
def errorPlace (loc : Dword) : Nat := (loc.extractLsb' 0 47).toNat
/-- The error was not consumed by an instruction. -/
def errorLoose (unit : BitVec 4) (loc : Dword) : Bool := loc.getLsbD 63 || unit == 3 || unit == 4

/-- The structure is a store of data: scratchpad, L2, attic, cellar. -/
def storeUnit (unit : BitVec 4) : Bool := unit == 2 || (5 ≤ unit.toNat && unit.toNat ≤ 7)

/-- Where an error was detected: the die, and the number that its record gives as CORE (R409, R410). An error of an L1
names its core in bits [62:47], one of an RDC its die (log 26); a tile stays on the home core (R380). -/
def State.errorSource (s : State) (unit : BitVec 4) (loc : Dword) : Nat × Nat :=
  let place := errorPlace loc
  let at_ := fun (core : Nat) => (core / 144, core % 144)
  match unit.toNat with
  | 2 => at_ ((s.wgp (place / 2 ^ 20)).core + place / 2 ^ 19 % 2)
  | 5 => (homeDie place, sliceOf place)
  | 6 => (homeDie place, 0)
  | 7 => (homeDie place, channelOf place)
  | 8 => at_ (errorGroup loc)
  | 9 => (errorGroup loc % 8, rdcSlice (place / 32))
  | 4 => at_ (s.ownCore (errorGroup loc))
  | _ => at_ (s.grp (errorGroup loc)).core

/-- Function and tenant that own the place of an error, if any do (R407, R412). -/
def State.errorOwner (s : State) (unit : BitVec 4) (loc : Dword) : Option (Nat × BitVec 6) :=
  let place := errorPlace loc
  let of := fun (gr : Grid) => (gr.fn, gr.tenant)
  let frame := (s.frames.find? (fun f => f.held && f.frame == place / 65536)).map (fun f => (f.fn, f.tenant))
  match unit.toNat with
  | 2 => some (of (s.grd (s.wgp (place / 2 ^ 20)).grid))
  | 8 => ((s.l1.find? (fun x => x.owner == errorGroup loc && x.sector == place / 32)).map (fun x => (0, x.tenant))).or frame
  | 9 => ((s.rdc.find? (fun x => x.owner == errorGroup loc && x.sector == place / 32)).map (fun x => (0, x.tenant))).or frame
  | 5 | 6 | 7 => if loc.getLsbD 63 then some (of (s.gridOf (errorGroup loc))) else frame
  | _ => some (of (s.gridOf (errorGroup loc)))

/-- The tenant field of an event that belongs to no tenant (R410). -/
def noTenant : BitVec 6 := 0x3F

/-- The ECC record of an error (R411): a line number, or the location within the structure. -/
def State.tapError (s : State) (unit : BitVec 4) (loc : Dword) (hard : Bool) : State :=
  let at_ := s.errorSource unit loc
  let tenant := ((s.errorOwner unit loc).map (·.2)).getD noTenant
  let place := if 5 ≤ unit.toNat then errorPlace loc / 64 else errorPlace loc
  s.tapDie at_.1 0x32 at_.2 tenant (BitVec.ofBool hard ++ 0#27 ++ unit) (BitVec.ofNat 32 place)

/-- The granule of a place is poisoned. -/
def State.poisonPlace (s : State) (unit : BitVec 4) (place : Nat) : State :=
  let g := granule unit.toNat place
  { s with poison := s.poison ++
      ((List.range (g.2 / 8)).map (fun k => (unit.toNat, g.1 / 8 + k))).filter (fun e => !s.poison.contains e) }

/-- The context of a group is being saved, and what is saved is read (R402). -/
def State.saving (s : State) (i : Nat) : Bool :=
  (s.gridOf i).st == .saved && s.saves.any (fun j => j.queue == (s.gridOf i).queue)

/-- An error in the registers, the take store or the tiles that a SAVE reads: the SAVE ends with it (R402). -/
def State.spoilSave (s : State) (q : Nat) : State :=
  { s with saves := s.saves.map (fun (j : SaveJob) => if j.queue == q then { j with bad := true } else j) }

/-- Delivers an error: a register-file error at the reading thread, an error that nothing consumed with SRC 3 at the
next boundary; else its place is poisoned and the reader traps (R406). -/
def State.deliverError (s : State) (unit : BitVec 4) (loc : Dword) : State :=
  let i := errorGroup loc
  let g := s.grp i
  let t := { Trap.plain codeEcc (g.walkFrom.getD g.lowest) with
    detail := unit.setWidth 16, info := BitVec.ofNat 64 (errorPlace loc) }
  if (unit = 1 || unit = 3 || unit = 4) && s.saving i then s.spoilSave (s.gridOf i).queue
  else if unit = 1 then (if g.issuing && (s.gridOf i).st = .running then s.deliver i t else s)
  else if errorLoose unit loc then
    match s.errorReceiver i with
    | none => if i < s.groups.length then s.modGrid (s.gridOf i).root (fun r => { r with mcheck := true }) else s
    | some k => s.modGrp k (fun g => { g with pend := g.pend ++ [{ t with thread := g.lowestAlive, src := 3 }] })
  else s.poisonPlace unit (errorPlace loc)

/-- MACHINE_CHECK: it is reported through AER of the function that owns the place, else of the physical one (R407). -/
def execMachineCheck (unit : BitVec 4) (loc : Dword) (s : State) : Host.Outcome State Fault Refusal :=
  s.when (1 ≤ unit.toNat && unit.toNat ≤ 7) (fun s =>
    let s1 := (s.tapError unit loc true).deliverError unit loc
    { s1 with aer := s1.aer ++ [(((s.errorOwner unit loc).map (·.1)).getD 0, errorPlace loc)] })

/-- A parity error of an L1 (structure 8, its core in bits [62:47]) or of an RDC (9, its die) drops the line (R82). -/
def State.dropFaulty (s : State) (unit : BitVec 4) (loc : Dword) : State :=
  let line := errorPlace loc / 64
  let keep := fun (x : Sector) => x.owner != errorGroup loc || x.sector / 2 != line
  if unit = 8 then { s with l1 := s.l1.filter keep }
  else if unit = 9 then { s with rdc := s.rdc.filter keep }
  else s

/-- CORRECTABLE_ERROR. -/
def execCorrectableError (unit : BitVec 4) (loc : Dword) (s : State) : Host.Outcome State Fault Refusal :=
  s.when (1 ≤ unit.toNat && unit.toNat ≤ 9) (fun s => (s.tapError unit loc false).dropFaulty unit loc)

end Sys2Proof.Machine
end

