-- ==== Sys2Proof/Machine/Control.lean ====
section
/-!
DEFINITION. Branches, calls, returns, rejoin masks, EXIT, YIELD and NOP (R200 to R206, R298 to R306), and the word
that is no instruction (R270).
-/
namespace Sys2Proof.Machine

/-! ### Moving threads -/

/-- A branch whose threads split adds those not taken to its mask (R203). -/
def Group.splitMask (g : Group) (j : BitVec 4) : Group :=
  if j = 15 || g.walk.taken = 0 || g.walk.kept = 0 then g else g.wj j.toNat (g.rj j.toNat ||| g.walk.kept)

/-- The form of a branch. -/
def ctlForm (s : State) : Form := { pfx := pfxNone s.pfx, control := true }

/-- The target of a J-format word (R260, R298). -/
def State.jumpTarget (s : State) (d : BitVec 18) : Int := (s.at' : Int) + 4 * d.toInt

/-- A target outside the address space. -/
def badTarget (t : Int) : Bool := t < 0 || 2 ^ 55 ≤ t

/-! ### The return stack (R206) -/

/-- RSD of a thread. -/
def Group.depth (g : Group) (t : Nat) : Nat := (g.rsd.get t).toNat
/-- Entry `d` of a thread's return stack, when on chip. -/
def Group.entry (g : Group) (t d : Nat) : Dword := g.rst.get (4 * t + (d - 1) % 4)
/-- Writes an entry. -/
def Group.setEntry (g : Group) (t d : Nat) (v : Dword) : Group := { g with rst := g.rst.set (4 * t + (d - 1) % 4) v }
/-- Sets RSD. -/
def Group.setDepth (g : Group) (t d : Nat) : Group := { g with rsd := g.rsd.set t (BitVec.ofNat 32 d) }

/-- Private offset of the entry that a push to depth `d` spills, or a pop from it refills. -/
def Group.spillOff (g : Group) (t d : Nat) : Int := ((g.spb.get t).toNat : Int) - 8 * ((d : Int) - 4)

/-- STACK (R388): RSD, SPB and the offset. -/
def stackTrap (g : Group) (t : Nat) (off : Int) : Trap :=
  { Trap.plain codeStack t with
    detail := BitVec.ofNat 16 (g.depth t), aux := g.spb.get t, info := BitVec.ofInt 64 off }

/-- The spill area does not hold the offset. -/
def badSpill (g : Group) (priv t d : Nat) : Bool :=
  g.spillOff t d < 0 || (g.spb.get t).toNat % 8 ≠ 0 || priv < (g.spb.get t).toNat

/-- A pointer to private space. -/
def privatePtr (off : Nat) : Dword := 2#4 ++ 0#5 ++ BitVec.ofNat 55 off

/-- An 8-byte private load of the walk: `k` receives the value (R34, R280). -/
def State.privateLoad (s : State) (t off : Nat) (k : State → Dword → Walk) : Walk :=
  match s.check s.cur t .load (privatePtr off) 0 8 false with
  | (s1, .error y) => .stop s1 y
  | (s1, .ok x) =>
    match if s1.covered x 8 then none else s1.poisonAt false x.addr 8 with
    | some e => .stop s1 (.trap (eccTrap t e))
    | none =>
      if (s1.gridOf s1.cur).ordered then
        let (v, s2) := s1.ordLoad ⟨t, privatePtr off, 0, 8, false, false, false, 0, 0, 0, 0⟩ x
        k s2 (BitVec.ofNat 64 v)
      else if s1.loadHeld s1.cur (s1.viaTo s1.cur 0 x) x.addr 8 then .stop s1 (.wait t)
      else
        let s2 := s1.orderUnits x 8
        let (v, s3) := s2.readMem s2.cur (s2.viaTo s2.cur 0 x) x.addr 8
        k s3 (BitVec.ofNat 64 v)

/-- push: every check, with the spill, before any change of the thread. -/
def State.push (s : State) (t : Nat) (ra : Nat) : Walk :=
  let g := s.me
  let d := g.depth t + 1
  let done := fun (s : State) => Walk.done (s.modMe (fun g => (g.setEntry t d (BitVec.ofNat 64 ra)).setDepth t d))
  if 65535 < d then .stop s (.trap (stackTrap g t 0))
  else if d ≤ 4 then done s
  else if badSpill g (s.gridOf s.cur).priv t d then .stop s (.trap (stackTrap g t (g.spillOff t d)))
  else
    (s.storeAt ⟨t, privatePtr (g.spillOff t d).toNat, 0, 8, false, false, false, 0, 0, g.clr,
      (g.entry t (d - 4)).setWidth 128⟩).bind done

/-- pop, after the checks of RET. -/
def State.pop (s : State) (t : Nat) : Walk :=
  let g := s.me
  let d := g.depth t
  let next := ((g.entry t d).extractLsb' 0 55).toNat
  if d ≤ 4 then .done (s.modMe (fun g => (g.setDepth t (d - 1)).take' t next))
  else if badSpill g (s.gridOf s.cur).priv t d then .stop s (.trap (stackTrap g t (g.spillOff t d)))
  else
    s.privateLoad t (g.spillOff t d).toNat (fun s v =>
      .done (s.modMe (fun g => ((g.setEntry t (d - 4) v).setDepth t (d - 1)).take' t next)))

/-- The lines that the spills of a call enter in the take buffer (R117, R306). -/
def State.spillLines (s : State) (ts : List Nat) : List (Bool × Nat × Nat) :=
  ts.filterMap (fun t =>
    let d := s.me.depth t + 1
    if d ≤ 4 || 65535 < d || badSpill s.me (s.gridOf s.cur).priv t d then none
    else s.storeLine t (privatePtr (s.me.spillOff t d).toNat) 0 8 false)

/-- Applies the take quota to a call that spills: one without a spill stores nothing (R117, R206). -/
def State.withSpills (s : State) (ts : List Nat) (k : State → Walk) : Walk :=
  let lines := s.spillLines ts
  if lines = [] then k s else s.withQuota lines k

/-! ### Branches and calls (R298 to R301) -/

/-- BRA. -/
def execBra (g j : BitVec 4) (d : BitVec 18) (s : State) : Host.Outcome State Fault Refusal :=
  s.issue (ctlForm s) (fun s =>
    let target := s.jumpTarget d
    match if badTarget target then (s.allGuarded g).head? else none with
    | some t => .stop s (.trap (addressTrap t (BitVec.ofInt 64 target)))
    | none =>
      (s.modMe (fun x =>
        s.walkers.foldl (fun r t => if r.guard t g then r.take' t target.toNat else r.keep t (s.at' + 4)) x)).endWalk.bind
        (fun s => .done (s.modMe (fun r => r.splitMask j))))

/-- CALL. -/
def execCall (g j : BitVec 4) (d : BitVec 18) (s : State) : Host.Outcome State Fault Refusal :=
  s.issue (ctlForm s) (fun s =>
    let target := s.jumpTarget d
    match if badTarget target then (s.allGuarded g).head? else none with
    | some t => .stop s (.trap (addressTrap t (BitVec.ofInt 64 target)))
    | none =>
      s.withSpills (s.allGuarded g) (fun s =>
        (s.walk s.walkers (fun t s =>
          if s.me.guard t g then
            (s.push t (s.at' + 4)).bind (fun s => .done (s.modMe (fun r => r.take' t target.toNat)))
          else .done (s.modMe (fun r => r.keep t (s.at' + 4))))).bind
          (fun s => .done (s.modMe (fun r => r.splitMask j)))))

/-- The checks of an indirect target (R257, R300). -/
def targetTrap (t : Nat) (v : Dword) : Option Trap :=
  if v.extractLsb' 55 9 ≠ 0 then some (addressTrap t v)
  else if v.extractLsb' 0 2 ≠ 0 then some { Trap.plain codeMisalign t with info := v }
  else none

/-- The form of CALLI and BRI. -/
def indForm (s : State) (a : BitVec 7) : Form := { ctlForm s with xr := [(a.toNat, 2)] }

/-- CALLI. -/
def execCalli (a : BitVec 7) (s : State) : Host.Outcome State Fault Refusal :=
  s.issue (indForm s a) (fun s =>
    s.withSpills s.allWalkers (fun s => s.walk s.walkers (fun t s =>
      let v := s.me.rx64 t a.toNat
      match targetTrap t v with
      | some tr => .stop s (.trap tr)
      | none => (s.push t (s.at' + 4)).bind (fun s => .done (s.modMe (fun r => r.take' t v.toNat))))))

/-- BRI. -/
def execBri (a : BitVec 7) (s : State) : Host.Outcome State Fault Refusal :=
  s.issue (indForm s a) (fun s => s.walk s.walkers (fun t s =>
    let v := s.me.rx64 t a.toNat
    match targetTrap t v with
    | some tr => .stop s (.trap tr)
    | none => .done (s.modMe (fun r => r.take' t v.toNat))))

/-- RET. -/
def execRet (s : State) : Host.Outcome State Fault Refusal :=
  s.issue (ctlForm s) (fun s => s.walk s.walkers (fun t s =>
    let g := s.me
    if g.depth t = 0 then .stop s (.trap (stackTrap g t 0))
    else
      match targetTrap t (g.entry t (g.depth t)) with
      | some tr => .stop s (.trap tr)
      | none => s.pop t))

/-! ### Rejoin masks (R204, R302) -/

/-- JOIN. -/
def execJoin (j : BitVec 4) (s : State) : Host.Outcome State Fault Refusal :=
  s.issue (ctlForm s) (fun s =>
    let g := s.me
    let p := s.at'
    let m := g.path
    let go := fun (ts : List Nat) (g : Group) =>
      ts.foldl (fun g t => g.wpc t (p + 4)) { g with parked := g.parked &&& ~~~(maskOf ts) }
    if j = 15 then .done (s.modMe (go m))
    else
      let waiting := g.alive.filter (fun t => inMask g.parked t && g.pcOf t == p)
      let need := g.alive.filter (fun t => inMask (g.rj j.toNat) t)
      if need.all (fun t => m.contains t || waiting.contains t) then
        .done (s.modMe (fun g => (go (m ++ waiting) g).wj j.toNat 0))
      else .done (s.modMe (fun g => { g with parked := g.parked ||| maskOf m })))

/-- The form of JMRK, JCLR, JSAV and JRST: j15 is ILLEGAL. -/
def maskForm (s : State) (j : BitVec 4) (xr : List (Nat × Nat)) : Form :=
  { pfx := pfxNone s.pfx, bad := j == 15, xr := xr }

/-- JMRK. -/
def execJmrk (j : BitVec 4) (s : State) : Host.Outcome State Fault Refusal :=
  s.issue (maskForm s j []) (fun s => s.once (fun g => g.wj j.toNat (g.rj j.toNat ||| maskOf g.path)))
/-- JCLR. -/
def execJclr (j : BitVec 4) (s : State) : Host.Outcome State Fault Refusal :=
  s.issue (maskForm s j []) (fun s => s.once (fun g => g.wj j.toNat 0))
/-- JSAV. -/
def execJsav (j : BitVec 4) (x : BitVec 7) (s : State) : Host.Outcome State Fault Refusal :=
  s.issue (maskForm s j [(x.toNat, 1)]) (fun s => s.alu (fun t g => g.wx t x.toNat (g.rj j.toNat)))
/-- JRST. -/
def execJrst (j : BitVec 4) (x : BitVec 7) (s : State) : Host.Outcome State Fault Refusal :=
  s.issue (maskForm s j [(x.toNat, 1)]) (fun s => s.once (fun g => g.wj j.toNat (g.rx g.lowest x.toNat)))

/-! ### EXIT, YIELD, NOP (R303, R304) -/

/-- EXIT. -/
def execExit (s : State) : Host.Outcome State Fault Refusal :=
  s.issue { ctlForm s with closes := true } (fun s =>
    (s.modMe (fun g => { g with exited := g.exited ||| maskOf s.walkers })).endWalk)
/-- YIELD. -/
def execYield (s : State) : Host.Outcome State Fault Refusal := s.issue { pfx := pfxNone s.pfx } .done
/-- NOP. -/
def execNop (s : State) : Host.Outcome State Fault Refusal := s.issue { pfx := pfxNone s.pfx } .done
/-- ILL: the word raises ILLEGAL (R270, R272). -/
def execIll (s : State) : Host.Outcome State Fault Refusal := s.issue { bad := true } .done

end Sys2Proof.Machine
end

