-- ==== Sys2Proof/Machine/Exchange.lean ====
section
/-!
DEFINITION. Exchange instructions (R319 to R324): the snapshot, the members, and one meaning per instruction.
-/
namespace Sys2Proof.Machine

/-! ### Snapshot and members -/

/-- The snapshot: a of every thread, and its d (R319). -/
def Group.snapshot (g : Group) (d a : Nat) : Sparse 32 :=
  (List.range 32).foldl (fun m t => (m.set t (g.rx t a)).set (32 + t) (g.rx t d)) []

/-- Snapshot a of a thread. -/
def Group.snapA (g : Group) (t : Nat) : Word := g.snap.get t
/-- Snapshot d of a thread. -/
def Group.snapD (g : Group) (t : Nat) : Word := g.snap.get (32 + t)

/-- The member mask of a gm field: code 0 is the issuing path (R320). -/
def Group.members (g : Group) (gm : BitVec 5) : Word := if gm = 0 then maskOf g.path else g.rg gm.toNat

/-- Members in ascending order. -/
def memberList (m : Word) : List Nat := (List.range 32).filter (fun t => inMask m t)

/-- Members that have not exited. -/
def Group.liveMembers (g : Group) (m : Word) : List Nat := (memberList m).filter (fun t => !inMask g.exited t)

/-- A member has exited: the identity takes its place and XM is set (R320). -/
def Group.noteExited (g : Group) (m : Word) : Group := if m &&& g.exited = 0 then g else g.orFx fxXM

/-- The form of an exchange instruction: a fault before its walk leaves it to be performed whole (R321). -/
def xchForm (s : State) (d a : BitVec 7) (gr : BitVec 5) : Form :=
  { formA1 s d a 1 1 with gr := [(gr.toNat, 1)], whole := true }

/-- Takes the snapshot, unless the walk resumes behind a thread with a saved one (R321). -/
def State.takeSnap (s : State) (d a : BitVec 7) : State :=
  if s.allWalkers = s.me.path then s.modMe (fun g => { g with snap := g.snapshot d.toNat a.toNat }) else s

/-- An exchange with a member mask: the check of R320, then a value for each thread of the walk. `op` answers it from
the group and the members, `fx` the flags of the whole instruction. -/
def State.exchange (s : State) (d a : BitVec 7) (gm : BitVec 5) (fx : Group → Word → Word → Fx)
    (op : Group → Word → Nat → Word → Word) : Host.Outcome State Fault Refusal :=
  s.issue (xchForm s d a gm) (fun s =>
    let m := s.me.members gm
    match s.me.path.find? (fun t => !inMask m t) with
    | some t =>
      .stop s (.trap { Trap.plain codeMember t with
        detail := BitVec.ofNat 16 gm.toNat, aux := maskOf s.me.path, info := m.setWidth 64 })
    | none =>
      let s1 := s.takeSnap d a
      let fpcr := (s1.gridOf s1.cur).fpcr
      let g0 := s1.me
      (s1.modMe (fun g =>
        (((s1.walkers).foldl (fun g t => g.wx t d.toNat (op g0 m t fpcr)) g).noteExited m).orFx (fx g0 m fpcr))).endWalk)

/-- No flag but XM. -/
def noFx (_ : Group) (_ _ : Word) : Fx := 0

/-! ### Moving values (R322) -/

/-- The value that a thread receives from `src`, a thread number or nothing. -/
def Group.receive (g : Group) (m : Word) (t : Nat) (src : Option Nat) : Word :=
  match src with
  | some k => if !inMask m k then g.snapA t else if inMask g.exited k then 0 else g.snapA k
  | none => g.snapA t

/-- δ(t). -/
def Group.delta (g : Group) (t : Nat) : Nat := ((g.snapD t).extractLsb' 0 5).toNat

/-- A thread number in 0 to 31. -/
def threadOf (k : Int) : Option Nat := if 0 ≤ k && k < 32 then some k.toNat else none

/-- SHFL. -/
def execShfl (d a : BitVec 7) (g : BitVec 5) (s : State) : Host.Outcome State Fault Refusal :=
  s.exchange d a g noFx (fun x m t _ => x.receive m t (some (x.delta t)))
/-- SHFLUP. -/
def execShflup (d a : BitVec 7) (g : BitVec 5) (s : State) : Host.Outcome State Fault Refusal :=
  s.exchange d a g noFx (fun x m t _ => x.receive m t (threadOf ((t : Int) - x.delta t)))
/-- SHFLDN. -/
def execShfldn (d a : BitVec 7) (g : BitVec 5) (s : State) : Host.Outcome State Fault Refusal :=
  s.exchange d a g noFx (fun x m t _ => x.receive m t (threadOf ((t : Int) + x.delta t)))
/-- SHFLX. -/
def execShflx (d a : BitVec 7) (g : BitVec 5) (s : State) : Host.Outcome State Fault Refusal :=
  s.exchange d a g noFx (fun x m t _ => x.receive m t (some (t ^^^ x.delta t)))
/-- BCST: no member mask; the register names the source thread. -/
def execBcst (d a : BitVec 7) (g : BitVec 5) (s : State) : Host.Outcome State Fault Refusal :=
  s.issue (xchForm s d a g) (fun s =>
    let s1 := s.takeSnap d a
    let k := ((s1.me.rg g.toNat).extractLsb' 0 5).toNat
    let gone := inMask s1.me.exited k
    let v := if gone then 0 else s1.me.snapA k
    (s1.modMe (fun x =>
      (s1.walkers.foldl (fun x t => x.wx t d.toNat v) x).orFx (if gone then fxXM else 0))).endWalk)
/-- PREV. -/
def execPrev (d a : BitVec 7) (g : BitVec 5) (s : State) : Host.Outcome State Fault Refusal :=
  s.exchange d a g noFx (fun x m t _ =>
    match ((memberList m).filter (· < t)).getLast? with
    | some k => if inMask x.exited k then 0 else x.snapA k
    | none => 0)

/-! ### Scans and reductions (R323) -/

/-- The combination of members' values under an integer operation. -/
def Group.fold (g : Group) (op : Word → Word → Word) (ident : Word) (ts : List Nat) : Word :=
  ts.foldl (fun r t => op r (g.snapA t)) ident

/-- The FP32 sum of members' values in ascending order, each step rounded once. -/
def Group.foldFadd (g : Group) (fpcr : Word) (ts : List Nat) : Rounded :=
  match ts with
  | [] => ⟨0, 0⟩
  | t :: r =>
    r.foldl (fun acc k =>
      let o := finish fpcr .f32 ((decodeFp .f32 acc.code).add (fpcrRm fpcr) (decodeFtzi fpcr .f32 (g.snapA k).toNat))
      ⟨o.code, acc.fx ||| o.fx⟩) (roundVec fpcr .f32 (decodeFtzi fpcr .f32 (g.snapA t).toNat))

/-- SCAN of an integer operation. -/
def State.scan (s : State) (op : Word → Word → Word) (ident : Word) (d a : BitVec 7) (g : BitVec 5) :
    Host.Outcome State Fault Refusal :=
  s.exchange d a g noFx (fun x m t _ => x.fold op ident ((x.liveMembers m).filter (· ≤ t)))

/-- RED of an integer operation. -/
def State.reduceAll (s : State) (op : Word → Word → Word) (ident : Word) (d a : BitVec 7) (g : BitVec 5) :
    Host.Outcome State Fault Refusal :=
  s.exchange d a g noFx (fun x m _ _ => x.fold op ident (x.liveMembers m))

/-- SCAN.ADD. -/
def execScanAdd (d a : BitVec 7) (g : BitVec 5) (s : State) : Host.Outcome State Fault Refusal :=
  s.scan (· + ·) 0 d a g
/-- SCAN.MIN. -/
def execScanMin (d a : BitVec 7) (g : BitVec 5) (s : State) : Host.Outcome State Fault Refusal :=
  s.scan intMin 0x7FFFFFFF d a g
/-- SCAN.MAX. -/
def execScanMax (d a : BitVec 7) (g : BitVec 5) (s : State) : Host.Outcome State Fault Refusal :=
  s.scan intMax 0x80000000 d a g
/-- SCAN.MINZ. -/
def execScanMinz (d a : BitVec 7) (g : BitVec 5) (s : State) : Host.Outcome State Fault Refusal :=
  s.scan intMinz 0xFFFFFFFF d a g
/-- SCAN.MAXZ. -/
def execScanMaxz (d a : BitVec 7) (g : BitVec 5) (s : State) : Host.Outcome State Fault Refusal :=
  s.scan intMaxz 0 d a g
/-- SCAN.AND. -/
def execScanAnd (d a : BitVec 7) (g : BitVec 5) (s : State) : Host.Outcome State Fault Refusal :=
  s.scan (· &&& ·) 0xFFFFFFFF d a g
/-- SCAN.OR. -/
def execScanOr (d a : BitVec 7) (g : BitVec 5) (s : State) : Host.Outcome State Fault Refusal :=
  s.scan (· ||| ·) 0 d a g
/-- SCAN.FADD: the steps of all members raise their flags, whatever the active threads (log 19). -/
def execScanFadd (d a : BitVec 7) (g : BitVec 5) (s : State) : Host.Outcome State Fault Refusal :=
  s.exchange d a g
    (fun x m c => (x.foldFadd c (x.liveMembers m)).fx)
    (fun x m t c => BitVec.ofNat 32 (x.foldFadd c ((x.liveMembers m).filter (· ≤ t))).code)
/-- RED.ADD. -/
def execRedAdd (d a : BitVec 7) (g : BitVec 5) (s : State) : Host.Outcome State Fault Refusal :=
  s.reduceAll (· + ·) 0 d a g
/-- RED.MIN. -/
def execRedMin (d a : BitVec 7) (g : BitVec 5) (s : State) : Host.Outcome State Fault Refusal :=
  s.reduceAll intMin 0x7FFFFFFF d a g
/-- RED.MAX. -/
def execRedMax (d a : BitVec 7) (g : BitVec 5) (s : State) : Host.Outcome State Fault Refusal :=
  s.reduceAll intMax 0x80000000 d a g
/-- RED.MINZ. -/
def execRedMinz (d a : BitVec 7) (g : BitVec 5) (s : State) : Host.Outcome State Fault Refusal :=
  s.reduceAll intMinz 0xFFFFFFFF d a g
/-- RED.MAXZ. -/
def execRedMaxz (d a : BitVec 7) (g : BitVec 5) (s : State) : Host.Outcome State Fault Refusal :=
  s.reduceAll intMaxz 0 d a g
/-- RED.AND. -/
def execRedAnd (d a : BitVec 7) (g : BitVec 5) (s : State) : Host.Outcome State Fault Refusal :=
  s.reduceAll (· &&& ·) 0xFFFFFFFF d a g
/-- RED.OR. -/
def execRedOr (d a : BitVec 7) (g : BitVec 5) (s : State) : Host.Outcome State Fault Refusal :=
  s.reduceAll (· ||| ·) 0 d a g
/-- RED.FADD. -/
def execRedFadd (d a : BitVec 7) (g : BitVec 5) (s : State) : Host.Outcome State Fault Refusal :=
  s.exchange d a g (fun x m c => (x.foldFadd c (x.liveMembers m)).fx)
    (fun x m _ c => BitVec.ofNat 32 (x.foldFadd c (x.liveMembers m)).code)

/-! ### Votes and matches (R324) -/

/-- A member's condition. -/
def Group.votes (g : Group) (t : Nat) : Bool := g.snapA t ≠ 0

/-- A vote as a word. -/
def voteWord (b : Bool) : Word := if b then 1 else 0

/-- VOTE.ANY. -/
def execVoteAny (d a : BitVec 7) (g : BitVec 5) (s : State) : Host.Outcome State Fault Refusal :=
  s.exchange d a g noFx (fun x m _ _ => voteWord ((x.liveMembers m).any x.votes))
/-- VOTE.ALL. -/
def execVoteAll (d a : BitVec 7) (g : BitVec 5) (s : State) : Host.Outcome State Fault Refusal :=
  s.exchange d a g noFx (fun x m _ _ => voteWord ((x.liveMembers m).all x.votes))
/-- VOTE.UNI. -/
def execVoteUni (d a : BitVec 7) (g : BitVec 5) (s : State) : Host.Outcome State Fault Refusal :=
  s.exchange d a g noFx (fun x m _ _ => voteWord
    (match x.liveMembers m with
     | [] => true
     | t :: r => r.all (fun k => x.snapA k == x.snapA t)))
/-- BALLOT. -/
def execBallot (d a : BitVec 7) (g : BitVec 5) (s : State) : Host.Outcome State Fault Refusal :=
  s.exchange d a g noFx (fun x m _ _ => maskOf ((x.liveMembers m).filter x.votes))
/-- MATCH. -/
def execMatchEq (d a : BitVec 7) (g : BitVec 5) (s : State) : Host.Outcome State Fault Refusal :=
  s.exchange d a g noFx (fun x m t _ => maskOf ((x.liveMembers m).filter (fun k => x.snapA k == x.snapA t)))

end Sys2Proof.Machine
end

