-- ==== Sys2Proof/Machine/Sfu.lean ====
section
/-!
DEFINITION. The special functions (R252 to R254): the exact mathematical value, rounded once to nearest even.

RCP is an exact quotient. RSQ and SQRT use an integer square root with a sticky bit. The others are enclosed
between two numbers with 512 bits after the point; when both round alike, as they do for every operand known,
that is the value. DEDUCED: the enclosure decides the rounding (log 12).
-/
namespace Sys2Proof.Machine

/-- Integer square root by bits: `r` grows while its square stays within `n`. -/
def isqrtBits (n : Nat) : Nat → Nat → Nat
  | 0, r => r
  | b + 1, r =>
    let t := r + 2 ^ b
    isqrtBits n b (if t * t ≤ n then t else r)

/-- The integer square root. -/
def isqrt (n : Nat) : Nat := isqrtBits n (n.log2 / 2 + 1) 0

/-- A magnitude with 256 bits after the point and a sticky half bit below them: the square root of `n / d`. -/
def sqrtMag (n d : Nat) : FVal :=
  let t := n * 2 ^ 512 / d
  let k := isqrt t
  let exact := k * k = t && n * 2 ^ 512 % d = 0
  .fin false (2 * k + (if exact then 0 else 1)) (2 ^ 257)

/-- Bits after the point of the enclosures. -/
def sfuBits : Nat := 512

/-- One in fixed point. -/
def sfuOne : Nat := 2 ^ sfuBits

/-- The error allowed on either side of an enclosure, in units of the last place. -/
def sfuError : Nat := 2 ^ 64

/-- `Σ t / (zz ^ k * (2 k + 1))`: the series of atanh, or with alternating signs of atan, in fixed point. -/
def atanSeries (alt : Bool) (zz : Nat) : Nat → Nat → Nat → Int → Int
  | 0, _, _, acc => acc
  | fuel + 1, k, t, acc =>
    let term : Int := (t / (2 * k + 1) : Nat)
    atanSeries alt zz fuel (k + 1) (t / zz) (if alt && k % 2 = 1 then acc - term else acc + term)

/-- The natural logarithm of 2 in fixed point: `2 * atanh (1 / 3)`. -/
def ln2Fixed : Nat := (2 * atanSeries false 9 170 0 (sfuOne / 3) 0).toNat

/-- π in fixed point, by Machin's formula. -/
def piFixed : Nat :=
  (16 * atanSeries true 25 120 0 (sfuOne / 5) 0 - 4 * atanSeries true (239 * 239) 40 0 (sfuOne / 239) 0).toNat

/-- `Σ y ^ k / k!` in fixed point, for `0 ≤ y ≤ 1`, its sign alternating when `alt`. -/
def expSeries (alt : Bool) (y : Nat) : Nat → Nat → Nat → Int → Int
  | 0, _, _, acc => acc
  | fuel + 1, k, t, acc =>
    expSeries alt y fuel (k + 1) (t * y / sfuOne / (k + 1)) (if alt && k % 2 = 1 then acc - t else acc + t)

/-- The sine series of `y ≤ 2` in fixed point. -/
def sinSeries (yy : Nat) : Nat → Nat → Nat → Int → Int
  | 0, _, _, acc => acc
  | fuel + 1, k, t, acc =>
    sinSeries yy fuel (k + 1) (t * yy / sfuOne / ((2 * k + 2) * (2 * k + 3)))
      (if k % 2 = 1 then acc - t else acc + t)

/-- The series of atanh at `z ≤ 1 / 3` in fixed point. -/
def atanhSeries (zz : Nat) : Nat → Nat → Nat → Nat → Nat
  | 0, _, _, acc => acc
  | fuel + 1, k, t, acc => atanhSeries zz fuel (k + 1) (t * zz / sfuOne) (acc + t / (2 * k + 1))

/-- `y` squared `k` times in fixed point. -/
def squareTimes : Nat → Nat → Nat
  | 0, y => y
  | k + 1, y => squareTimes k (y * y / sfuOne)

/-- A result that the exact value does not equal: rounded from both ends of its enclosure `(v ± error) * 2 ^ e`. -/
def roundEnclosed (fpcr : Word) (tag : Nat) (arg : Word) (neg : Bool) (v : Nat) (e : Int) : Rounded :=
  let at_ (m : Nat) : Rounded := roundFp .f32 .rne (fpcrFtzo fpcr) false (scaled neg m (e - sfuBits))
  let lo := at_ (v - sfuError)
  let hi := at_ (v + sfuError)
  if lo.code = hi.code && (lo.fx ||| fxNX) = (hi.fx ||| fxNX) then ⟨lo.code, lo.fx ||| fxNX⟩
  else ⟨(Config.sfuUndecided tag arg).toNat, fxNX⟩

/-- The quiet result of an invalid operation. -/
def invalidF32 : Rounded := ⟨Fmt.f32.canon, fxNV⟩

/-- Rounding to nearest even of an exactly known value (R252, R253). -/
def roundExact (fpcr : Word) (v : FVal) : Rounded := roundFp .f32 .rne (fpcrFtzo fpcr) false v

/-- RCP (R252, R254). -/
def sfuRcp (fpcr a : Word) : Rounded :=
  match decodeFtzi fpcr .f32 a.toNat with
  | .nan => ⟨Fmt.f32.canon, 0⟩
  | .inf s => ⟨Fmt.f32.signBit s, 0⟩
  | .fin s n d =>
    if n = 0 then ⟨Fmt.f32.signBit s + Fmt.f32.infCode, fxDZ⟩
    else roundExact fpcr (.fin s d n)

/-- RSQ (R252, R254). -/
def sfuRsq (fpcr a : Word) : Rounded :=
  match decodeFtzi fpcr .f32 a.toNat with
  | .nan => ⟨Fmt.f32.canon, 0⟩
  | .inf s => if s then invalidF32 else ⟨0, 0⟩
  | .fin s n d =>
    if n = 0 then ⟨Fmt.f32.signBit s + Fmt.f32.infCode, fxDZ⟩
    else if s then invalidF32
    else roundExact fpcr (sqrtMag d n)

/-- SQRT (R252, R254). -/
def sfuSqrt (fpcr a : Word) : Rounded :=
  match decodeFtzi fpcr .f32 a.toNat with
  | .nan => ⟨Fmt.f32.canon, 0⟩
  | .inf s => if s then invalidF32 else ⟨Fmt.f32.infCode, 0⟩
  | .fin s n d =>
    if n = 0 then ⟨Fmt.f32.signBit s, 0⟩
    else if s then invalidF32
    else roundExact fpcr (sqrtMag n d)

/-- EXP2 (R252 to R254). -/
def sfuExp2 (fpcr a : Word) : Rounded :=
  match decodeFtzi fpcr .f32 a.toNat with
  | .nan => ⟨Fmt.f32.canon, 0⟩
  | .inf s => if s then ⟨0, 0⟩ else ⟨Fmt.f32.infCode, 0⟩
  | .fin s n d =>
    if !s && 128 ≤ n / d then overflowTo .f32 .rne false false
    else if s && 200 ≤ n / d then roundExact fpcr (scaled false 1 (-200))
    else
      -- x = k + r / d with 0 ≤ r < d
      let x : Int := if s then -(n : Int) else n
      let k := x.fdiv d
      let r := (x - k * d).toNat
      if r = 0 then roundExact fpcr (scaled false 1 k)
      else
        let y := r * ln2Fixed / d
        roundEnclosed fpcr 3 a false (expSeries false y 130 0 sfuOne 0).toNat k

/-- LOG2 (R252 to R254). -/
def sfuLog2 (fpcr a : Word) : Rounded :=
  match decodeFtzi fpcr .f32 a.toNat with
  | .nan => ⟨Fmt.f32.canon, 0⟩
  | .inf s => if s then invalidF32 else ⟨Fmt.f32.infCode, 0⟩
  | .fin s n d =>
    if n = 0 then ⟨Fmt.f32.signBit true + Fmt.f32.infCode, fxDZ⟩
    else if s then invalidF32
    else
      let e := ilog n d
      -- x = 2 ^ e * p / q with 1 ≤ p / q < 2
      let p := if 0 ≤ e then n else n * 2 ^ (-e).toNat
      let q := if 0 ≤ e then d * 2 ^ e.toNat else d
      if p = q then roundExact fpcr (ofInt e)
      else
        let z := (p - q) * sfuOne / (p + q)
        let l := 2 * atanhSeries (z * z / sfuOne) 170 0 z 0 * sfuOne / ln2Fixed
        let v : Int := e * sfuOne + l
        roundEnclosed fpcr 4 a (v < 0) v.natAbs 0

/-- `sin (π * r / d)` for `0 < r / d < 2`, not a multiple of one half, rounded. -/
def sinPiFrac (fpcr : Word) (tag : Nat) (a : Word) (neg : Bool) (r d : Nat) : Rounded :=
  let second := d < r
  let r1 := if second then r - d else r
  let r2 := if d < 2 * r1 then d - r1 else r1
  let y := r2 * piFixed / d
  roundEnclosed fpcr tag a (neg != second) (sinSeries (y * y / sfuOne) 90 0 y 0).toNat 0

/-- SINPI (R252 to R254). -/
def sfuSinpi (fpcr a : Word) : Rounded :=
  match decodeFtzi fpcr .f32 a.toNat with
  | .nan => ⟨Fmt.f32.canon, 0⟩
  | .inf _ => invalidF32
  | .fin s n d =>
    if n % d = 0 then ⟨Fmt.f32.signBit s, 0⟩
    else
      let r := n % (2 * d)
      if 2 * r % d = 0 then roundExact fpcr (.fin (s != (d < r)) 1 1)
      else sinPiFrac fpcr 5 a s r d

/-- COSPI (R252 to R254): `cos (π x) = sin (π (|x| + 1/2))`. -/
def sfuCospi (fpcr a : Word) : Rounded :=
  match decodeFtzi fpcr .f32 a.toNat with
  | .nan => ⟨Fmt.f32.canon, 0⟩
  | .inf _ => invalidF32
  | .fin _ n d =>
    let d2 := 2 * d
    let r := (2 * n + d) % (2 * d2)
    if r % d2 = 0 then ⟨0, 0⟩
    else if 2 * r % d2 = 0 then roundExact fpcr (.fin (d2 < r) 1 1)
    else sinPiFrac fpcr 6 a false r d2

/-- TANH (R252 to R254): `(1 - y) / (1 + y)` with `y = exp (-2 |x|)`; beyond 32 the value lies within the error of 1. -/
def sfuTanh (fpcr a : Word) : Rounded :=
  match decodeFtzi fpcr .f32 a.toNat with
  | .nan => ⟨Fmt.f32.canon, 0⟩
  | .inf s => roundExact fpcr (.fin s 1 1)
  | .fin s n d =>
    if n = 0 then ⟨Fmt.f32.signBit s, 0⟩
    else if 32 ≤ n / d then roundEnclosed fpcr 7 a s (sfuOne - 2 ^ 460) 0
    else
      let y := squareTimes 7 (expSeries true (n * sfuOne / (64 * d)) 110 0 sfuOne 0).toNat
      roundEnclosed fpcr 7 a s ((sfuOne - y) * sfuOne / (sfuOne + y)) 0

end Sys2Proof.Machine
end

