-- ==== Sys2Proof/Machine/FloatOps.lean ====
section
/-!
DEFINITION. Floating-point arithmetic, compares, special functions and conversions (R310 to R318): the functions on
codes, and one meaning per instruction.
-/
namespace Sys2Proof.Machine

/-! ### Functions on codes -/

/-- Order of values with −0 below +0 (R311). -/
def FVal.below (a b : FVal) : Bool := a.lt b || (!b.lt a && a.sign && !b.sign)

/-- FMIN and FMAX on codes (R311). -/
def fpMinMax (fpcr : Word) (f : Fmt) (mx : Bool) (a b : Nat) : Rounded :=
  let u := decodeFtzi fpcr f a
  let v := decodeFtzi fpcr f b
  let r := if u.isNan then v else if v.isNan then u
    else if mx then (if u.below v then v else u) else (if v.below u then v else u)
  roundVec fpcr f r

/-- A value with another sign. -/
def FVal.withSign (v : FVal) (neg : Bool) : FVal :=
  match v with
  | .nan => .nan
  | .inf _ => .inf neg
  | .fin _ n d => .fin neg n d

/-- FABS (R312). -/
def fpAbs (fpcr a : Word) : Rounded := roundVec fpcr .f32 ((decodeFtzi fpcr .f32 a.toNat).withSign false)
/-- FNEG (R312). -/
def fpNeg (fpcr a : Word) : Rounded := roundVec fpcr .f32 (decodeFtzi fpcr .f32 a.toNat).neg
/-- FCPYS (R312). -/
def fpCpys (fpcr a b : Word) : Rounded :=
  roundVec fpcr .f32 ((decodeFtzi fpcr .f32 a.toNat).withSign
    (b.getLsbD 31 && !(decodeFp .f32 b.toNat).isNan))
/-- FRND in a direction; no flag (R313). -/
def fpRnd (rm : Rm) (fpcr a : Word) : Rounded :=
  match decodeFtzi fpcr .f32 a.toNat with
  | .fin s n d => ⟨(roundFp .f32 .rne false false (.fin s (roundNat rm s n d).1 1)).code, 0⟩
  | v => ⟨(roundFp .f32 .rne false false v).code, 0⟩

/-- A packed operation: element 0 and element 1, their flags OR-ed (R234, R314). -/
def packed (op : Nat → Nat → Rounded) (a b : Word) : Rounded :=
  let lo := op (a.extractLsb' 0 16).toNat (b.extractLsb' 0 16).toNat
  let hi := op (a.extractLsb' 16 16).toNat (b.extractLsb' 16 16).toNat
  ⟨hi.code * 2 ^ 16 + lo.code, lo.fx ||| hi.fx⟩

/-- HFMA2 (R315). -/
def packedFma (fpcr : Word) (f : Fmt) (a b c : Word) : Rounded :=
  let el := fun (k : Nat) (x : Word) => (x.extractLsb' k 16).toNat
  let lo := fpFma fpcr f false false (el 0 a) (el 0 b) (el 0 c)
  let hi := fpFma fpcr f false false (el 16 a) (el 16 b) (el 16 c)
  ⟨hi.code * 2 ^ 16 + lo.code, lo.fx ||| hi.fx⟩

/-- The condition of FCMP on two registers: type 0 F32, 1 F16 × 2, 2 BF16 × 2 (R316). -/
def fpCond (fpcr : Word) (ty cc : Nat) (a b : Word) : Bool :=
  let one := fun (f : Fmt) (x y : Nat) => floatCond cc (decodeFtzi fpcr f x) (decodeFtzi fpcr f y)
  if ty = 0 then one .f32 a.toNat b.toNat
  else
    let f : Fmt := if ty = 1 then .f16 else .bf16
    one f (a.extractLsb' 0 16).toNat (b.extractLsb' 0 16).toNat &&
      one f (a.extractLsb' 16 16).toNat (b.extractLsb' 16 16).toNat

/-- CVT between floating formats; a 16-bit source is element 0 (R318). -/
def fpCvt (src dst : Fmt) (fpcr a : Word) : Rounded :=
  roundVec fpcr dst (decodeFtzi fpcr src (a.toNat % 2 ^ src.width))
/-- CVT to an integer range (R318). -/
def fpCvtInt (lo hi : Int) (fpcr a : Word) : Rounded :=
  let r := fpToInt (fpcrRm fpcr) lo hi (decodeFtzi fpcr .f32 a.toNat)
  ⟨(r.1 % 2 ^ 32).toNat, r.2⟩

/-! ### Shapes -/

/-- Writes a result and its flags. -/
def Group.wfp (g : Group) (t d : Nat) (r : Rounded) : Group := (g.wx t d (BitVec.ofNat 32 r.code)).orFx r.fx

/-- Each active thread: a rounded result of two sources. -/
def State.fpu2 (s : State) (op : Word → Word → Word → Rounded) (d a b : BitVec 7) : Host.Outcome State Fault Refusal :=
  s.issue (formA s d a b 1 1 1) (fun s =>
    let fpcr := (s.gridOf s.cur).fpcr
    s.alu (fun t g => g.wfp t d.toNat (op fpcr (g.rx t a.toNat) (g.rx t b.toNat))))

/-- Each active thread: a rounded result of one source. -/
def State.fpu1 (s : State) (op : Word → Word → Rounded) (d a : BitVec 7) : Host.Outcome State Fault Refusal :=
  s.issue (formA1 s d a 1 1) (fun s =>
    let fpcr := (s.gridOf s.cur).fpcr
    s.alu (fun t g => g.wfp t d.toNat (op fpcr (g.rx t a.toNat))))

/-- Each active thread: a rounded result of two sources and an addend. -/
def State.fpu3 (s : State) (op : Word → Word → Word → Word → Rounded) (d a b : BitVec 7) :
    Host.Outcome State Fault Refusal :=
  s.issue (formAddend s d a b 1) (fun s =>
    let fpcr := (s.gridOf s.cur).fpcr
    s.alu (fun t g => g.wfp t d.toNat (op fpcr (g.rx t a.toNat) (g.rx t b.toNat) (g.rx t (pfxAddend s.pfx d)))))

/-- A function of two codes as one of words. -/
def onWords (op : Word → Fmt → Nat → Nat → Rounded) (fpcr a b : Word) : Rounded := op fpcr .f32 a.toNat b.toNat

/-- A packed function of words. -/
def onPairs (op : Word → Fmt → Nat → Nat → Rounded) (f : Fmt) (fpcr a b : Word) : Rounded := packed (op fpcr f) a b

/-! ### FALU (R310 to R313) -/

/-- FADD. -/
def execFadd (d a b : BitVec 7) (s : State) : Host.Outcome State Fault Refusal := s.fpu2 (onWords fpAdd) d a b
/-- FSUB. -/
def execFsub (d a b : BitVec 7) (s : State) : Host.Outcome State Fault Refusal := s.fpu2 (onWords fpSub) d a b
/-- FMUL. -/
def execFmul (d a b : BitVec 7) (s : State) : Host.Outcome State Fault Refusal := s.fpu2 (onWords fpMul) d a b
/-- FMIN. -/
def execFmin (d a b : BitVec 7) (s : State) : Host.Outcome State Fault Refusal :=
  s.fpu2 (onWords (fun c f => fpMinMax c f false)) d a b
/-- FMAX. -/
def execFmax (d a b : BitVec 7) (s : State) : Host.Outcome State Fault Refusal :=
  s.fpu2 (onWords (fun c f => fpMinMax c f true)) d a b
/-- FABS. -/
def execFabs (d a : BitVec 7) (s : State) : Host.Outcome State Fault Refusal := s.fpu1 fpAbs d a
/-- FNEG. -/
def execFneg (d a : BitVec 7) (s : State) : Host.Outcome State Fault Refusal := s.fpu1 fpNeg d a
/-- FCPYS. -/
def execFcpys (d a b : BitVec 7) (s : State) : Host.Outcome State Fault Refusal := s.fpu2 fpCpys d a b
/-- FRND.N. -/
def execFrndN (d a : BitVec 7) (s : State) : Host.Outcome State Fault Refusal := s.fpu1 (fpRnd .rne) d a
/-- FRND.Z. -/
def execFrndZ (d a : BitVec 7) (s : State) : Host.Outcome State Fault Refusal := s.fpu1 (fpRnd .rtz) d a
/-- FRND.P. -/
def execFrndP (d a : BitVec 7) (s : State) : Host.Outcome State Fault Refusal := s.fpu1 (fpRnd .rup) d a
/-- FRND.M. -/
def execFrndM (d a : BitVec 7) (s : State) : Host.Outcome State Fault Refusal := s.fpu1 (fpRnd .rdn) d a

/-! ### HALU (R314) -/

/-- HADD2.F16. -/
def execHadd2F16 (d a b : BitVec 7) (s : State) : Host.Outcome State Fault Refusal := s.fpu2 (onPairs fpAdd .f16) d a b
/-- HSUB2.F16. -/
def execHsub2F16 (d a b : BitVec 7) (s : State) : Host.Outcome State Fault Refusal := s.fpu2 (onPairs fpSub .f16) d a b
/-- HMUL2.F16. -/
def execHmul2F16 (d a b : BitVec 7) (s : State) : Host.Outcome State Fault Refusal := s.fpu2 (onPairs fpMul .f16) d a b
/-- HMIN2.F16. -/
def execHmin2F16 (d a b : BitVec 7) (s : State) : Host.Outcome State Fault Refusal :=
  s.fpu2 (onPairs (fun c f => fpMinMax c f false) .f16) d a b
/-- HMAX2.F16. -/
def execHmax2F16 (d a b : BitVec 7) (s : State) : Host.Outcome State Fault Refusal :=
  s.fpu2 (onPairs (fun c f => fpMinMax c f true) .f16) d a b
/-- HADD2.BF16. -/
def execHadd2Bf16 (d a b : BitVec 7) (s : State) : Host.Outcome State Fault Refusal := s.fpu2 (onPairs fpAdd .bf16) d a b
/-- HSUB2.BF16. -/
def execHsub2Bf16 (d a b : BitVec 7) (s : State) : Host.Outcome State Fault Refusal := s.fpu2 (onPairs fpSub .bf16) d a b
/-- HMUL2.BF16. -/
def execHmul2Bf16 (d a b : BitVec 7) (s : State) : Host.Outcome State Fault Refusal := s.fpu2 (onPairs fpMul .bf16) d a b
/-- HMIN2.BF16. -/
def execHmin2Bf16 (d a b : BitVec 7) (s : State) : Host.Outcome State Fault Refusal :=
  s.fpu2 (onPairs (fun c f => fpMinMax c f false) .bf16) d a b
/-- HMAX2.BF16. -/
def execHmax2Bf16 (d a b : BitVec 7) (s : State) : Host.Outcome State Fault Refusal :=
  s.fpu2 (onPairs (fun c f => fpMinMax c f true) .bf16) d a b

/-! ### Fused multiply-add (R315) -/

/-- FFMA. -/
def execFfma (d a b : BitVec 7) (s : State) : Host.Outcome State Fault Refusal :=
  s.fpu3 (fun c x y z => fpFma c .f32 false false x.toNat y.toNat z.toNat) d a b
/-- FFMS. -/
def execFfms (d a b : BitVec 7) (s : State) : Host.Outcome State Fault Refusal :=
  s.fpu3 (fun c x y z => fpFma c .f32 false true x.toNat y.toNat z.toNat) d a b
/-- FNMA. -/
def execFnma (d a b : BitVec 7) (s : State) : Host.Outcome State Fault Refusal :=
  s.fpu3 (fun c x y z => fpFma c .f32 true false x.toNat y.toNat z.toNat) d a b
/-- HFMA2.F16. -/
def execHfma2F16 (d a b : BitVec 7) (s : State) : Host.Outcome State Fault Refusal :=
  s.fpu3 (fun c => packedFma c .f16) d a b
/-- HFMA2.BF16. -/
def execHfma2Bf16 (d a b : BitVec 7) (s : State) : Host.Outcome State Fault Refusal :=
  s.fpu3 (fun c => packedFma c .bf16) d a b

/-! ### FCMP (R316) -/

/-- FCMP. -/
def execFcmp (p : BitVec 3) (m : BitVec 2) (a b : BitVec 7) (c : BitVec 4) (t : BitVec 3) (s : State) :
    Host.Outcome State Fault Refusal :=
  s.issue { xr := [(a.toNat, 1), (b.toNat, 1)], pfx := pfxNone s.pfx, bad := p == 7 } (fun s =>
    let fpcr := (s.gridOf s.cur).fpcr
    s.alu (fun k g => g.wp k p.toNat (combine m (g.rp k p.toNat)
      (fpCond fpcr t.toNat c.toNat (g.rx k a.toNat) (g.rx k b.toNat)))))

/-! ### Special functions (R317) -/

/-- RCP. -/
def execRcp (d a : BitVec 7) (s : State) : Host.Outcome State Fault Refusal := s.fpu1 sfuRcp d a
/-- RSQ. -/
def execRsq (d a : BitVec 7) (s : State) : Host.Outcome State Fault Refusal := s.fpu1 sfuRsq d a
/-- SQRT. -/
def execSqrt (d a : BitVec 7) (s : State) : Host.Outcome State Fault Refusal := s.fpu1 sfuSqrt d a
/-- EXP2. -/
def execExp2 (d a : BitVec 7) (s : State) : Host.Outcome State Fault Refusal := s.fpu1 sfuExp2 d a
/-- LOG2. -/
def execLog2 (d a : BitVec 7) (s : State) : Host.Outcome State Fault Refusal := s.fpu1 sfuLog2 d a
/-- SINPI. -/
def execSinpi (d a : BitVec 7) (s : State) : Host.Outcome State Fault Refusal := s.fpu1 sfuSinpi d a
/-- COSPI. -/
def execCospi (d a : BitVec 7) (s : State) : Host.Outcome State Fault Refusal := s.fpu1 sfuCospi d a
/-- TANH. -/
def execTanh (d a : BitVec 7) (s : State) : Host.Outcome State Fault Refusal := s.fpu1 sfuTanh d a

/-! ### Conversions (R318) -/

/-- CVT.F32.F16. -/
def execCvtF32F16 (d a : BitVec 7) (s : State) : Host.Outcome State Fault Refusal := s.fpu1 (fpCvt .f16 .f32) d a
/-- CVT.F16.F32. -/
def execCvtF16F32 (d a : BitVec 7) (s : State) : Host.Outcome State Fault Refusal := s.fpu1 (fpCvt .f32 .f16) d a
/-- CVT.F32.BF16. -/
def execCvtF32Bf16 (d a : BitVec 7) (s : State) : Host.Outcome State Fault Refusal := s.fpu1 (fpCvt .bf16 .f32) d a
/-- CVT.BF16.F32. -/
def execCvtBf16F32 (d a : BitVec 7) (s : State) : Host.Outcome State Fault Refusal := s.fpu1 (fpCvt .f32 .bf16) d a
/-- CVT.S32.F32. -/
def execCvtS32F32 (d a : BitVec 7) (s : State) : Host.Outcome State Fault Refusal :=
  s.fpu1 (fpCvtInt (-2 ^ 31) (2 ^ 31 - 1)) d a
/-- CVT.Z32.F32. -/
def execCvtZ32F32 (d a : BitVec 7) (s : State) : Host.Outcome State Fault Refusal :=
  s.fpu1 (fpCvtInt 0 (2 ^ 32 - 1)) d a
/-- CVT.F32.S32. -/
def execCvtF32S32 (d a : BitVec 7) (s : State) : Host.Outcome State Fault Refusal :=
  s.fpu1 (fun c x => roundVec c .f32 (ofInt x.toInt)) d a
/-- CVT.F32.Z32. -/
def execCvtF32Z32 (d a : BitVec 7) (s : State) : Host.Outcome State Fault Refusal :=
  s.fpu1 (fun c x => roundVec c .f32 (ofInt x.toNat)) d a
/-- PACK2. -/
def execPack2 (d a b : BitVec 7) (s : State) : Host.Outcome State Fault Refusal :=
  s.alu2 (fun x y => y.extractLsb' 0 16 ++ x.extractLsb' 0 16) d a b

end Sys2Proof.Machine
end

