-- ==== Sys2Proof/Machine/Frames.lean ====
section
/-!
DEFINITION. System software's side of translation: TINV (R92), the fault ring and FREPLY (R94 to R96), the frame
allocator (R97 to R100), and tier migration (R101 to R103).
-/
namespace Sys2Proof.Machine

/-! ### TINV (R92, R96) -/

/-- Drops the translations of function `f` that meet a condition, and sets TINVST.BUSY. Lines of read-only-shared pages,
whose frames may have changed, leave every L1 and RDC (R62). -/
def State.invalidate (s : State) (f : Nat) (p : TlbEntry → Bool) : State :=
  let keep := fun (x : Sector) => !x.ros || x.tenant != s.fnTenant f
  ({ s with
    tlb := s.tlb.filter (fun t => t.fn != f || !p t)
    l1 := s.l1.filter keep
    rdc := s.rdc.filter keep } : State).setReg (transBase f + 0x20) 1

/-- TINV_PAGE: with the page, everything that a huge leaf over it may have given. -/
def execTinvPage (f : Nat) (va : BitVec 55) (s : State) : Host.Outcome State Fault Refusal :=
  s.when (f < 32) (fun s => s.invalidate f (fun t => t.page / 8192 == va.toNat / 2 ^ 29))
/-- TINV_ASID. -/
def execTinvAsid (f : Nat) (asid : BitVec 12) (s : State) : Host.Outcome State Fault Refusal :=
  s.when (f < 32) (fun s => s.invalidate f (fun t => t.asid == asid))
/-- TINV_FUNCTION. -/
def execTinvFunction (f : Nat) (s : State) : Host.Outcome State Fault Refusal :=
  s.when (f < 32) (fun s => s.invalidate f (fun _ => true))

/-- A buffered line reaches a place of device memory. -/
def TakeEntry.reaches (e : TakeEntry) (p : Nat → Bool) : Bool := !e.scratch && p (64 * e.place)

/-- An ordered operation reaches a place of device memory. -/
def OrdOp.reaches (o : OrdOp) (p : Nat → Bool) : Bool :=
  match o with
  | .atom r => !r.scratch && p r.addr
  | _ => false

/-- Accesses translated before are still to be performed, or rounds that hold them to be published, at places `p` of
device memory, by grids `own` (R92). Loads that are to be sent again are translated anew (R400). -/
def State.inUse (s : State) (own : Grid → Bool) (p : Nat → Bool) : Bool :=
  s.groups.any (fun g =>
    let gr := s.grd g.grid
    own gr && (g.flight.any (fun f => !f.scratch && (f.writes || !g.stale f) && p f.addr) ||
      g.take.any (·.reaches p) || g.ops.any (·.reaches p))) ||
  s.grids.any (fun gr => own gr && gr.contribs.any (fun c => c.take.any (·.reaches p) || c.ops.any (·.reaches p))) ||
  s.copies.any (fun c => own (s.gridOf c.group) && c.st == 0 && c.data.isSome && c.dest.any p)

/-- No access of the function that was translated before is still to be performed or applied (R92). -/
def State.settled (s : State) (f : Nat) : Bool := !s.inUse (fun g => g.fn == f) (fun _ => true)

/-- TINV_COMPLETE. -/
def execTinvComplete (f : Nat) (s : State) : Host.Outcome State Fault Refusal :=
  s.when (f < 32 && s.settled f) (fun s => s.setReg (transBase f + 0x20) 0)

/-! ### The fault ring (R94 to R96) -/

/-- Records that the ring of a function holds: a size field above 8 stands in the register and counts as 8 (log 106). -/
def State.ringSize (s : State) (f : Nat) : Nat := 2 ^ (min 8 ((s.reg (transBase f + 0x30)).extractLsb' 8 4).toNat + 4)

/-- Records written and not yet read; FRHEAD and FRTAIL count on without end (log 27). -/
def State.ringUsed (s : State) (f : Nat) : Nat :=
  (s.reg (transBase f + 0x38) - s.reg (transBase f + 0x34)).toNat

/-- A write by hardware to a guest-physical address of a VF, or a device-physical one of the physical function: through
stage 2 alone, with the checks of its leaf, its A and D bits and the dirty log (R93, R96). -/
def State.hardwareWrite (s : State) (f gpa : Nat) (bytes : List Byte) : Except XFault State :=
  if f = 0 then .ok (s.putMem gpa bytes)
  else
    match s.stageTwo f gpa with
    | .error e => .error e
    | .ok (leaf, e, level, page) =>
      match attrReason (s.fnTenant f) kindStore e with
      | some k => .error ⟨k, 1, level⟩
      | none =>
        let s1 := s.orEntry leaf 0x80 1
        let s2 := if e.getLsbD 8 then s1 else s1.logDirty f gpa
        .ok (s2.putMem (page + gpa % 65536) bytes)

/-- The bytes of a fault record. -/
def FaultEntry.bytes (e : FaultEntry) : List Byte := (e.words ++ [0]).flatMap (fun (w : Dword) => leBytes 8 w.toNat)

/-- Changes a fault entry of a function. -/
def State.modFault (s : State) (f : Nat) (id : Word) (g : FaultEntry → FaultEntry) : State :=
  { s with faults := s.faults.map (fun (e : FaultEntry) => if e.fn = f && e.id == id then g e else e) }

/-- Takes a fault of a function off the list. -/
def State.dropFault (s : State) (f : Nat) (id : Word) : State :=
  { s with faults := s.faults.filter (fun e => e.fn != f || e.id != id) }

/-- The cached translation that a fault met: its page is walked anew (R94). -/
def FaultEntry.met (e : FaultEntry) (t : TlbEntry) : Bool :=
  t.fn == e.fn && t.page == (e.words.getD 0 0).toNat / 65536 && t.asid == (e.words.getD 1 0).extractLsb' 46 12

/-- The group that waits on a fault goes on, at the thread of RIX with a new walk. -/
def State.retryGroup (s : State) (e : FaultEntry) (i : Nat) : State :=
  s.modGrp i (fun g => if g.st = .parked && g.faultId = some e.id then { g with st := g.resumed, faultId := none } else g)

/-- The group that waits on a fault takes its trap. -/
def State.failGroup (s : State) (e : FaultEntry) (i : Nat) (t : Trap) : State :=
  if (s.grp i).st = .parked && (s.grp i).faultId = some e.id then
    let s1 := s.modGrp i (fun g => { g with st := g.resumed, faultId := none })
    if (s.grp i).resending then s1.deliverResent i t else s1.deliver i t
  else s

/-- The copy that waits on a fault reads again. -/
def State.retryCopy (s : State) (k : Nat) : State :=
  match s.copies[k]? with
  | none => s
  | some c =>
    if c.st ≠ 4 then s
    else
      let s1 : State := { s with copies := s.copies.set k { c with st := 0 } }
      if (s1.gridOf c.group).ordered then (s1.readSource k).tryClose c.group else s1

/-- A copy is abandoned: an ORDERED one lets its round close; the bytes of a FREE one are settled apart (R133, R178). -/
def State.abandonNow (s : State) (k : Nat) (c : Copy) (t : Trap) : State :=
  let s1 := s.abandonCopy k c t
  if (s.gridOf c.group).ordered then s1.tryClose c.group else s1

/-- The copy that waits on a fault is abandoned. -/
def State.failCopy (s : State) (k : Nat) (t : Trap) : State :=
  match s.copies[k]? with
  | none => s
  | some c => if c.st ≠ 4 then s else s.abandonNow k c t

/-- The context of the group of a fault is saved: a reply waits for its restore (R211). -/
def State.faultSaved (s : State) (e : FaultEntry) : Bool := e.group.any (fun i => (s.gridOf i).st == .saved)

/-- A fault is answered with RETRY: a new walk, and the group or the copy goes on. -/
def State.retryFault (s : State) (e : FaultEntry) : State :=
  let s1 : State := { s.dropFault e.fn e.id with tlb := s.tlb.filter (fun t => !e.met t) }
  let s2 := match e.group with
    | some i => s1.retryGroup e i
    | none => s1
  match e.copy with
  | some k => s2.retryCopy k
  | none => s2

/-- A fault is answered with FAIL: its trap is delivered to the group; a copy is abandoned. -/
def State.failFault (s : State) (e : FaultEntry) (t : Trap) : State :=
  let s1 := s.dropFault e.fn e.id
  let s2 := match e.group with
    | some i => s1.failGroup e i t
    | none => s1
  match e.copy with
  | some k => s2.failCopy k t
  | none => s2

/-- A reply to a fault, now or at the restore of its context. -/
def State.replyFault (s : State) (e : FaultEntry) (retry : Bool) : State :=
  if s.faultSaved e then s.modFault e.fn e.id (fun x => { x with reply := some retry })
  else if retry then s.retryFault e
  else s.failFault e e.trap

/-- Replies that came while a context was saved take effect at its restore (R211). -/
def State.heldReplies (s : State) (gds : List Nat) : State :=
  (s.faults.filter (fun e => e.group.any (fun i => gds.contains (s.grp i).grid))).foldl (fun s e =>
    match e.reply with
    | some r => s.replyFault e r
    | none => s) s

/-- A ring write of a VF failed in stage 2: its fault is delivered at once, and the stage-2 fault goes to the ring of the
physical function: KIND store, no address space, core or thread, the tenant of the VF (R96; log 106). -/
def State.ringFault (s : State) (e : FaultEntry) (x : XFault) (gpa : Nat) : State :=
  let t := { e.trap with aux := if e.group.isSome then 0 else e.trap.aux }
  let s1 := if s.faultSaved e then s.modFault e.fn e.id (fun y => { y with trap := t, written := true, reply := some false })
    else s.failFault e t
  if (s1.reg (transBase 0 + 0x30)).getLsbD 0 then
    let (v, s2) := s1.free
    let id := s2.nextFault 0
    s2.addFault
      { id := id, fn := 0, words := faultWords gpa (s2.fnTenant e.fn) 0 kindStore x id 0 0 0 0 v, group := none, copy := none,
        trap := e.trap, written := false, reply := none }
  else s1

/-- A record may be written: its ring has space, and the context of its group is not saved: no store of a function follows
its SAVE (R449). -/
def State.recordDue (s : State) (i : Nat) : Bool :=
  match s.faults[i]? with
  | none => false
  | some e => !e.written && !s.faultSaved e && s.ringUsed e.fn < s.ringSize e.fn

/-- Writes a fault record at FRTAIL. -/
def State.writeRecord (s : State) (e : FaultEntry) : State :=
  let b := transBase e.fn
  let tail := s.reg (b + 0x38)
  let at' := (s.reg64 (b + 0x28)).toNat + 32 * (tail.toNat % s.ringSize e.fn)
  match s.hardwareWrite e.fn at' e.bytes with
  | .error x => s.ringFault e x at'
  | .ok s1 => (s1.setReg (b + 0x38) (tail + 1)).modFault e.fn e.id (fun e => { e with written := true })

/-- FAULT_RING_WRITE. -/
def execFaultRingWrite (i : Nat) (s : State) : Host.Outcome State Fault Refusal :=
  s.when (s.recordDue i) (fun s =>
    match s.faults[i]? with
    | none => s
    | some e => s.writeRecord e)

/-- The fault that a reply names: of the function, and written. -/
def State.repliedFault (s : State) (f : Nat) (id : Word) : Option FaultEntry :=
  s.faults.find? (fun e => e.fn == f && e.id == id && e.written && e.reply.isNone)

/-- A reply to a fault of a function. -/
def State.reply (s : State) (f : Nat) (id : Word) (retry : Bool) : State :=
  match s.repliedFault f id with
  | none => s
  | some e => s.replyFault e retry

/-- FREPLY_RETRY. -/
def execFreplyRetry (f : Nat) (id : Word) (s : State) : Host.Outcome State Fault Refusal := .next (s.reply f id true)
/-- FREPLY_FAIL. -/
def execFreplyFail (f : Nat) (id : Word) (s : State) : Host.Outcome State Fault Refusal := .next (s.reply f id false)

/-! ### The frame allocator (R97 to R100) -/

/-- FAPTE. -/
def State.fapte (s : State) : Nat := (s.reg64 0x10000).toNat
/-- The latched command. -/
def State.facmd (s : State) : Dword := s.reg64 0x10008
/-- FASTAT.BUSY. -/
def State.allocBusy (s : State) : Bool := (s.reg64 0x10010).getLsbD 63

/-- OP. -/
def faOp (c : Dword) : Nat := (c.extractLsb' 62 2).toNat
/-- DIE. -/
def faDie (c : Dword) : Nat := (c.extractLsb' 59 3).toNat
/-- TPREF. -/
def faPref (c : Dword) : Nat := (c.extractLsb' 57 2).toNat
/-- TENANT. -/
def faTenant (c : Dword) : BitVec 6 := c.extractLsb' 51 6
/-- ASID. -/
def faAsid (c : Dword) : BitVec 12 := c.extractLsb' 39 12

/-- Frames of a tier that the allocator hands out (R100). -/
def tierFrames (cellar : Bool) : Nat := if cellar then 2359296 else 45056
/-- First frame of a tier of a die, as a device-physical address divided by 65,536. -/
def tierBase (die : Nat) (cellar : Bool) : Nat := die * 2 ^ 28 + if cellar then 2 ^ 27 else 0

/-- Held frames of a tier of a die. -/
def State.heldIn (s : State) (die : Nat) (cellar : Bool) : List Nat :=
  (s.frames.filter (fun f => f.held && tierBase die cellar ≤ f.frame && f.frame < tierBase die cellar + tierFrames cellar)).map
    (fun f => f.frame - tierBase die cellar)

/-- The function whose quota an allocation counts against: the enabled one of the tenant. -/
def State.tenantFn (s : State) (t : BitVec 6) : Option Nat :=
  (List.range 32).find? (fun f => s.fnEnabled f && s.fnTenant f == t)

/-- A function owns a cellar channel of a die; a time-sliced one owns the pool's (R79, R488). -/
def State.ownsChannel (s : State) (f die c : Nat) : Bool :=
  let bit := fun (k : Nat) => s.mapBit (partBase k + 0x010) (24 * die + c)
  if s.fnSliced f then !(List.range 32).any (fun k => s.isHard k && bit k) else bit f

/-- The cellar channels of a die that a function owns. -/
def State.channels (s : State) (f die : Nat) : List Nat := (List.range 24).filter (s.ownsChannel f die)

/-- A run of frames lies in a tier of a die, in the cellar in a channel of the function, starts as its length asks, and is
free (R79, R100). -/
def State.runFree (s : State) (f die : Nat) (cellar : Bool) (frame n : Nat) : Bool :=
  let b := tierBase die cellar
  b ≤ frame && frame + n ≤ b + tierFrames cellar && (frame - b) % n == 0 &&
    (!cellar || s.ownsChannel f die (channelOf (65536 * frame))) &&
    s.frames.all (fun x => !x.held || x.frame < frame || frame + n ≤ x.frame)

/-- Some run of `n` frames of a tier is free for a function: fewer of its runs are touched than there are. -/
def State.anyFree (s : State) (f die : Nat) (cellar : Bool) (n : Nat) : Bool :=
  let held := s.heldIn die cellar
  if cellar then
    let cs := s.channels f die
    ((held.filter (fun x => cs.contains (x / 98304))).map (fun x => x / n)).eraseDups.length < cs.length * (98304 / n)
  else ((held.map (fun x => x / n)).filter (fun r => r < tierFrames false / n)).eraseDups.length < tierFrames false / n

/-- FQUOTA word of a function for a die and tier (R437). -/
def quotaReg (f die : Nat) (cellar : Bool) : Nat := partBase f + 0x080 + 16 * die + if cellar then 8 else 0

/-- The quota leaves room for `n` more frames. -/
def State.quotaRoom (s : State) (t : BitVec 6) (die : Nat) (cellar : Bool) (n : Nat) : Bool :=
  match s.tenantFn t with
  | none => false
  | some f =>
    (s.reg (quotaReg f die cellar + 4)).toNat + n ≤ (s.reg (quotaReg f die cellar)).toNat

/-- Adds to USED. -/
def State.addUsed (s : State) (f die : Nat) (cellar : Bool) (n : Int) : State :=
  let r := quotaReg f die cellar + 4
  s.setReg r (BitVec.ofInt 32 ((s.reg r).toNat + n))

/-- Ends the command with a status; an allocation also names its frame. -/
def State.endAlloc (s : State) (status : Nat) (frame : Option Nat) : State :=
  let old := s.reg64 0x10010
  let fr : Dword := match frame with
    | none => old &&& 0xFFFFFFFF0000
    | some k => BitVec.ofNat 64 (k * 65536)
  s.setReg64 0x10010 (fr ||| (BitVec.ofNat 64 status <<< 60))

/-- Tiers that a TPREF tries, in order. -/
def prefTiers (p : Nat) : List Bool := if p = 0 then [false] else if p = 1 then [true] else [false, true]

/-- Why an allocation of `n` frames fails, in the order of the steps of R98 (log 28); the tier otherwise. With TPREF 2 a
want of quota in the attic, as one of frames, sends it to the cellar (log 28). No frame is free for a tenant that no enabled
function has: the spec names no status for it (log 28). -/
def State.allocTier (s : State) (c : Dword) (n : Nat) : Except Nat Bool :=
  if faPref c = 3 then .error 4
  else if pteP (readPte s.tables s.fapte) then .error 3
  else
    let free := fun (t : Bool) => (s.tenantFn (faTenant c)).any (fun f => s.anyFree f (faDie c) t n)
    match (prefTiers (faPref c)).find? (fun t => free t && s.quotaRoom (faTenant c) (faDie c) t n) with
    | some t => .ok t
    | none => .error (if (prefTiers (faPref c)).any free then 1 else 2)

/-- The leaf that an allocation writes. -/
def allocLeaf (c : Dword) (frame : Nat) : Dword :=
  faTenant c ++ c.extractLsb' 38 1 ++ 0#9 ++ BitVec.ofNat 32 frame ++ 0#6 ++ 1#1 ++ 0#2 ++ c.extractLsb' 37 1 ++
    c.extractLsb' 36 1 ++ c.extractLsb' 35 1 ++ c.extractLsb' 34 1 ++ c.extractLsb' 33 1 ++ 0#1 ++ 1#1

/-- Armed lines in a frame. -/
def State.armedIn (s : State) (frame : Nat) : List Nat :=
  ((s.groups.flatMap (·.armed)).filter (fun l => !l.scratch && l.place / 1024 == frame)).map (·.place)

/-- An ordering domain takes note of frames that a frame change has zeroed (R133, R134). -/
def Grid.noteFrames (frame n : Nat) (g : Grid) : Grid :=
  if g.isDomain && !g.ext then { g with extFrames := (frame, n) :: g.extFrames } else g

/-- Zeros for the lines of a frame that domains have read in their present rounds. -/
def State.zeroCells (s : State) (frame : Nat) : List (Nat × Byte) :=
  ((s.grids.flatMap (·.reads)).filter (fun l => l / 1024 == frame)).eraseDups.flatMap (fun l => cellsOf (64 * l) (List.replicate 64 0))

/-- Zeroes a frame: memory, and what caches and poison hold of it. To an ordering domain it is an external write
(R62, R98, R133). -/
def State.zeroFrame (s0 : State) (frame : Nat) : State :=
  let s := s0.keepOld none (s0.zeroCells frame)
  let inside := fun (a : Nat) => a / 65536 == frame
  let s1 : State := { s with
    mem := s.mem.clear (frame * 65536) ((frame + 1) * 65536)
    l1 := s.l1.filter (fun x => !inside (32 * x.sector))
    rdc := s.rdc.filter (fun x => !inside (32 * x.sector))
    l2 := s.l2.filter (fun x => !inside (32 * x.sector))
    poison := s.poison.filter (fun e => poisonScratch e || !inside (8 * e.2))
    grids := s.grids.map (Grid.noteFrames frame 1) }
  let s2 := s1.fire none false (s1.armedIn frame)
  s2.tellDomains none ((List.range 1024).map (fun k => 1024 * frame + k))

/-- Takes one frame for an owner: zeroed when its last owner differs, a table frame always. -/
def State.takeFrame (s : State) (c : Dword) (fn frame : Nat) (table : Bool) : State :=
  let same := s.frames.any (fun f => f.frame == frame && f.tenant == faTenant c && f.asid == faAsid c)
  let s1 := if table || !same then s.zeroFrame frame else s
  { s1 with frames := s1.frames.filter (fun f => f.frame != frame) ++
      [⟨frame, faTenant c, faAsid c, true, fn, s.fapte, table⟩] }

/-- No domain holds some frames back, by what loads of its present round have read of them: they may change (R133). -/
def State.framesOk (s : State) (frame n : Nat) : Bool :=
  s.grids.all (fun g => g.reads.all (fun l => l / 1024 < frame || frame + n ≤ l / 1024 || !g.holds l))

/-- No older write to an entry waits, and no domain has read its line in its present round. -/
def State.entryOpen (s : State) (a : Nat) : Bool :=
  s.ext.all (fun w => w.addr / 64 != a / 64) && s.linesOk noDomain [a / 64]

/-- An allocation of `n` frames from `frame` on: hardware's choice of the run is the event's. It waits while its writes
may not land. -/
def State.allocate (s : State) (n frame : Nat) (table : Bool) (entry : Dword) : State :=
  let c := s.facmd
  match s.allocTier c n with
  | .error k => s.endAlloc k none
  | .ok t =>
    let fn := (s.tenantFn (faTenant c)).getD 0
    if !s.runFree fn (faDie c) t frame n || !s.framesOk frame n || !s.entryOpen s.fapte then s
    else
      let s1 := (List.range n).foldl (fun s k => s.takeFrame c fn (frame + k) table) s
      let s2 := s1.landExternal ⟨s.fapte, leBytes 8 entry.toNat, false⟩
      (s2.addUsed fn (faDie c) t n).endAlloc 0 (some frame)

/-- A command of an operation waits. -/
def State.allocDue (s : State) (op : Nat) : Bool := s.allocBusy && faOp s.facmd == op

/-- FACMD_BASE_FRAME. -/
def execFacmdBaseFrame (frame : Nat) (s : State) : Host.Outcome State Fault Refusal :=
  s.when (s.allocDue 0) (fun s => s.allocate 1 frame false (allocLeaf s.facmd frame))
/-- FACMD_HUGE_FRAME. -/
def execFacmdHugeFrame (frame : Nat) (s : State) : Host.Outcome State Fault Refusal :=
  s.when (s.allocDue 1) (fun s => s.allocate 8192 frame false (allocLeaf s.facmd frame))
/-- FACMD_TABLE_FRAME: a pointer entry. -/
def execFacmdTableFrame (frame : Nat) (s : State) : Host.Outcome State Fault Refusal :=
  s.when (s.allocDue 2) (fun s => s.allocate 1 frame true (BitVec.ofNat 64 (65536 * frame + 1)))

/-- A translation that rests on the entry at an address. -/
def TlbEntry.restsOn (t : TlbEntry) (a : Nat) : Bool := t.leaf == a || t.leaf2.any (fun x => x.1 == a)

/-- The frames that the allocator took for an entry, and that the entry names. -/
def State.framesOf (s : State) (a : Nat) : List Frame :=
  let e := readPte s.tables a
  let first := pteAddr e / 65536
  s.frames.filter (fun f => f.held && f.back == a && first ≤ f.frame && f.frame < first + if pteLeaf e then 8192 else 1)

/-- A release of some frames: a pointer entry's takes every translation of the owner with it, since the walk of any of them
may have gone through the table (R91, R92, R99); a leaf's takes those of its page. -/
def State.releaseDrops (s : State) (a : Nat) (fs : List Frame) (t : TlbEntry) : Bool :=
  t.restsOn a || fs.any (fun f => f.table && s.fnTenant t.fn == f.tenant)

/-- Read-only-shared lines that go with the frames (R62). -/
def rosDrops (fs : List Frame) (x : Sector) : Bool :=
  x.ros && fs.any (fun f => f.frame == x.sector / 2048 || (f.table && x.tenant == f.tenant))

/-- Nothing translated through an entry's frames is still to be performed (R92, R99). -/
def State.framesQuiet (s : State) (fs : List Frame) : Bool :=
  let inside := fun (a : Nat) => fs.any (fun f => f.frame == a / 65536)
  !s.inUse (fun _ => true) inside && s.ext.all (fun w => !inside w.addr) &&
    !s.inUse (fun g => fs.any (fun f => f.table && f.tenant == g.tenant)) (fun _ => true)

/-- Releases the frames of the entry at FAPTE: P clears, the page's translations and its read-only-shared lines go, and
once the accesses translated through it have been performed the frames are free, their owner recorded (R62, R92, R99).
A TPREF of 3 is BADCMD (R97); an entry with P = 0, or that the allocator did not write, is BADENTRY (log 28). -/
def State.release (s : State) : State :=
  let a := s.fapte
  let mine := s.framesOf a
  if faPref s.facmd = 3 then s.endAlloc 4 none
  else if !pteP (readPte s.tables a) || mine = [] then s.endAlloc 3 none
  else if !s.framesQuiet mine || !s.entryOpen a then s
  else
    let s1 := mine.foldl (fun s f =>
      s.addUsed f.fn (f.frame / 2 ^ 28) (f.frame / 2 ^ 27 % 2 == 1) (-1)) s
    let s2 : State := { s1 with
      tlb := s1.tlb.filter (fun t => !s.releaseDrops a mine t)
      l1 := s1.l1.filter (fun x => !rosDrops mine x)
      rdc := s1.rdc.filter (fun x => !rosDrops mine x)
      frames := s1.frames.map (fun (f : Frame) => if mine.contains f then { f with held := false } else f) }
    (s2.landExternal ⟨a, [s2.mem.get a &&& 0xFE], false⟩).endAlloc 0 none

/-- FACMD_RELEASE. -/
def execFacmdRelease (s : State) : Host.Outcome State Fault Refusal := s.when (s.allocDue 3) State.release

/-! ### Tier migration (R101 to R103) -/

/-- The entry's page may move to a frame: an allocator-written base page without PIN, no table; the destination free, in
the other tier of its die, in the cellar in a channel of its owner, with the same FRAME[5:0], within the attic quota. A
write of the entry that has been accepted and not landed makes the compare-and-swap fail: the move aborts (R102). -/
def State.migrationOk (s : State) (pte frame : Nat) : Option Frame :=
  match s.frames.find? (fun f => f.held && f.back == pte && !f.table) with
  | none => none
  | some f =>
    let e := readPte s.tables pte
    let die := f.frame / 2 ^ 28
    let cellar := f.frame / 2 ^ 27 % 2 = 0
    let alone := (s.framesOf pte).length = 1
    if pteP e && pteLeaf e && !e.getLsbD 2 && alone && pteAddr e = 65536 * f.frame && s.runFree f.fn die cellar frame 1 &&
        frame % 64 = f.frame % 64 && s.ext.all (fun w => w.addr / 64 != pte / 64) &&
        (cellar || (s.reg (quotaReg f.fn die false + 4)).toNat < (s.reg (quotaReg f.fn die false)).toNat) then some f
    else none

/-- A device-physical address after the move. -/
def moved (src dst a : Nat) : Nat := if a / 65536 = src then dst * 65536 + a % 65536 else a

/-- The bytes of a frame are copied. -/
def moveBytes (src dst : Nat) (m : Sparse 8) : Sparse 8 :=
  (m.filter (fun e => e.1 / 65536 == src)).foldl (fun m e => m.set (moved src dst e.1) e.2)
    (m.clear (dst * 65536) ((dst + 1) * 65536))

/-- What the source frame holds once its L2 lines name the new one: its own bytes, without the lines' writes (R72, R80). -/
def State.underLines (s : State) (src : Nat) (m : Sparse 8) : Sparse 8 :=
  (s.l2.filter (fun x => x.dirty && x.sector / 2048 == src)).foldl
    (fun m x => writeBytes m (32 * x.sector) (leBytes 32 x.frame.toNat)) m

/-- A line number after the move. -/
def movedLine (src dst l : Nat) : Nat := moved src dst (64 * l) / 64

/-- Buffered stores and operations follow the page. -/
def TakeEntry.move (src dst : Nat) (e : TakeEntry) : TakeEntry :=
  if e.scratch then e else { e with place := movedLine src dst e.place }

/-- An atomic follows the page. -/
def AtomReq.move (src dst : Nat) (r : AtomReq) : AtomReq := if r.scratch then r else { r with addr := moved src dst r.addr }

/-- An ordered operation follows the page. -/
def OrdOp.move (src dst : Nat) (o : OrdOp) : OrdOp :=
  match o with
  | .atom r => .atom (r.move src dst)
  | _ => o

/-- What a group has under way follows the page. -/
def Group.move (src dst : Nat) (g : Group) : Group :=
  { g with
    take := g.take.map (·.move src dst)
    ops := g.ops.map (·.move src dst)
    flight := g.flight.map (fun (f : Flight) =>
      if f.scratch then f else { f with addr := moved src dst f.addr, atom := f.atom.map (·.move src dst) })
    armed := g.armed.map (fun (l : ArmedLine) => if l.scratch then l else { l with place := movedLine src dst l.place }) }

/-- What a domain keeps follows the page, and so do the words that a grid fetches. -/
def Grid.move (src dst : Nat) (g : Grid) : Grid :=
  { g with
    code := moveBytes src dst g.code
    contribs := g.contribs.map (fun (c : Contribution) =>
      { c with take := c.take.map (·.move src dst), ops := c.ops.map (·.move src dst) })
    reads := g.reads.map (movedLine src dst)
    seen := g.seen.map (movedLine src dst)
    old := g.old.map (fun e => (movedLine src dst e.1, e.2))
    extLines := g.extLines.map (movedLine src dst)
    extFrames := if g.extFrames.any (fun r => r.1 ≤ src && src < r.1 + r.2) then (dst, 1) :: g.extFrames else g.extFrames
    wrote := g.wrote.map (fun w => if w.2.1 then w else (w.1, w.2.1, movedLine src dst w.2.2.1, w.2.2.2)) }

/-- A cached translation whose leaf lies in the page follows it (R103). -/
def TlbEntry.move (src dst : Nat) (t : TlbEntry) : TlbEntry :=
  { t with leaf := moved src dst t.leaf, leaf2 := t.leaf2.map (fun x => (moved src dst x.1, x.2)) }

/-- Moves a page: its bytes, its leaf, and everything that names its addresses. The L2 lines of the page stay valid
(R80), and so do, in this model, its lines in an L1 or an RDC (log 107); the source frame keeps its bytes. -/
def State.movePage (s : State) (pte frame : Nat) (f : Frame) : State :=
  let src := f.frame
  let die := src / 2 ^ 28
  let cellar := frame / 2 ^ 27 % 2 == 1
  let e := readPte s.tables pte
  let e1 : Dword := e.extractLsb' 48 16 ++ BitVec.ofNat 32 frame ++ e.extractLsb' 0 16
  let m := writeBytes (s.underLines src (moveBytes src frame s.mem)) (moved src frame pte) (leBytes 8 e1.toNat)
  let off := fun (sec : Nat) => sec / 2048 != frame
  let new := fun (sec : Nat) => moved src frame (32 * sec) / 32
  let line := fun (x : Sector) => { x with sector := new x.sector }
  let s1 : State := { s with
    mem := m
    tlb := (s.tlb.filter (fun t => !t.restsOn pte)).map (·.move src frame)
    l1 := (s.l1.filter (fun x => off x.sector)).map line
    rdc := (s.rdc.filter (fun x => off x.sector)).map line
    l2 := (s.l2.filter (fun x => off x.sector)).map (fun (x : HomeSector) => { x with sector := new x.sector })
    groups := s.groups.map (·.move src frame)
    grids := s.grids.map (·.move src frame)
    copies := s.copies.map (fun (c : Copy) => if c.st = 5 then c else
      { c with dest := c.dest.map (moved src frame), uncached := c.uncached.map (fun p => if p = src then frame else p) })
    ext := s.ext.map (fun (w : ExtWrite) => { w with addr := moved src frame w.addr })
    poison := s.poison.map (fun e => if poisonScratch e then e else (e.1, moved src frame (8 * e.2) / 8))
    frames := (s.frames.filter (fun x => x.frame != frame)).map (fun (x : Frame) =>
      { x with held := x.held && x.frame != src, back := moved src frame x.back }) ++
        [{ f with frame := frame, back := moved src frame f.back }] }
  let s2 := s1.wrote [moved src frame pte / 32]
  (s2.addUsed f.fn die cellar 1).addUsed f.fn die (!cellar) (-1)

/-- TIER_MIGRATION. -/
def execTierMigration (pte frame : Nat) (s : State) : Host.Outcome State Fault Refusal :=
  .next (match s.migrationOk pte frame with
    | none => s
    | some f => s.movePage pte frame f)

end Sys2Proof.Machine
end

