-- ==== Sys2Proof/Machine/Sha3.lean ====
section
/-!
DEFINITION. SHA3-256 (named by R136 for the reproducibility signature and by R453 for measurements) and the
CRC of the save area (R403, R405). SHA3-256 is PRESUMED: FIPS 202 is named by the spec and not repeated there (log 13).
-/
namespace Sys2Proof.Machine

/-! ### The permutation, on one vector of 1,600 bits -/

/-- A state: bit 64 × (x + 5 × y) + z is bit z of column x and row y. -/
abbrev Sponge := BitVec 1600

/-- A word of a state, its column and row taken modulo 5. -/
def Sponge.word (a : Sponge) (x y : Nat) : Dword := a.extractLsb' (64 * (x % 5 + 5 * (y % 5))) 64

/-- The state whose word at column `x` and row `y` is `f x y`. -/
def Sponge.build (f : Nat → Nat → Dword) : Sponge :=
  (List.range 25).foldr (fun i acc => (acc <<< 64) ||| (f (i % 5) (i / 5)).setWidth 1600) 0

/-- The bits of the feedback register that feeds the round constants: `n` of them from a start on. -/
def feedback : Nat → Nat → List Bool
  | 0, _ => []
  | n + 1, r => (r % 2 == 1) :: feedback n (if 128 ≤ r then (2 * r) ^^^ 0x171 else 2 * r)

/-- The constant of a round, from the seven feedback bits of it: bit j stands at place 2^j - 1. -/
def roundConst : List Bool → Nat → Dword
  | [], _ => 0
  | b :: r, j => (if b then 1#64 <<< (2 ^ j - 1) else 0) ||| roundConst r (j + 1)

/-- The turns of the words: beginning at column 1 and row 0, the t-th word of the walk turns by (t + 1)(t + 2) / 2. -/
def turns : Nat → Nat → Nat → Nat → List (Nat × Nat)
  | 0, _, _, _ => []
  | n + 1, t, x, y => (x + 5 * y, (t + 1) * (t + 2) / 2 % 64) :: turns n (t + 1) y ((2 * x + 3 * y) % 5)

/-- By how much the word at a column and row turns; the first does not. -/
def turnOfWord (x y : Nat) : Nat := ((turns 24 0 1 0).lookup (x % 5 + 5 * (y % 5))).getD 0

/-- The parity of a column. -/
def Sponge.parity (a : Sponge) (x : Nat) : Dword := (List.range 5).foldl (fun p y => p ^^^ a.word x y) 0

/-- Each word is mixed with the parities of the columns beside it. -/
def Sponge.spread (a : Sponge) : Sponge :=
  Sponge.build (fun x y => a.word x y ^^^ (a.parity (x + 4) ^^^ (a.parity (x + 1)).rotateLeft 1))

/-- Each word turns and moves: the one that comes to column x and row y stood at column x + 3 y and row x. -/
def Sponge.scatter (a : Sponge) : Sponge :=
  Sponge.build (fun x y => (a.word (x + 3 * y) x).rotateLeft (turnOfWord (x + 3 * y) x))

/-- Each row is mixed with itself. -/
def Sponge.bend (a : Sponge) : Sponge :=
  Sponge.build (fun x y => a.word x y ^^^ ((a.word (x + 1) y ^^^ 0xFFFFFFFFFFFFFFFF) &&& a.word (x + 2) y))

/-- `n` rounds, their constants taken from the feedback bits. -/
def Sponge.rounds : Nat → List Bool → Sponge → Sponge
  | 0, _, a => a
  | n + 1, bits, a =>
    Sponge.rounds n (bits.drop 7) (a.spread.scatter.bend ^^^ (roundConst (bits.take 7) 0).setWidth 1600)

/-- The permutation of 24 rounds. -/
def Sponge.permute (a : Sponge) : Sponge := a.rounds 24 (feedback 168 1)

/-! ### SHA3-256 -/

/-- Blocks of 136 bytes, `n` of them, taken up one after the other. -/
def Sponge.absorb : Nat → List Byte → Sponge → Sponge
  | 0, _, a => a
  | n + 1, b, a => Sponge.absorb n (b.drop 136) (a ^^^ BitVec.ofNat 1600 (leAt b 0 136)).permute

/-- The message with its padding: the bits 01 and then 1, zeros up to the end of a block, and a last 1. -/
def sha3Pad (m : List Byte) : List Byte :=
  let z := 135 - m.length % 136
  let tail := 6 + 2 ^ (8 * z + 7)
  m ++ leBytes (z + 1) tail

/-- SHA3-256 of a message: 32 bytes. -/
def sha3 (m : List Byte) : List Byte :=
  let p := sha3Pad m
  leBytes 32 (Sponge.absorb (p.length / 136) p 0).toNat

/-! ### The CRC of a save area (R403) -/

/-- One bit of the CRC-64 of R403: polynomial 0x42F0_E1EB_A9EA_3693, not reflected. -/
def crc64Bit (c : BitVec 64) : BitVec 64 :=
  if c.getLsbD 63 then (c <<< 1) ^^^ 0x42F0E1EBA9EA3693 else c <<< 1

/-- One byte into the CRC, its most significant bit first (R403). -/
def crc64Byte (c : BitVec 64) (b : Byte) : BitVec 64 :=
  (List.range 8).foldl (fun c _ => crc64Bit c) (c ^^^ (b.setWidth 64 <<< 56))

/-- The CRC-64 of R403 over bytes in ascending order. -/
def crc64 (bs : List Byte) : BitVec 64 := bs.foldl crc64Byte 0

end Sys2Proof.Machine
end

