-- ==== Sys2Proof/Machine/Queue.lean ====
section
/-!
DEFINITION. The queue engine (R218 to R224), packets other than TELEM, the completion of grids (R229 to R231, R136),
and QUIESCE (R232). What OP 2 of QUIESCE writes stands with the save areas.
-/
namespace Sys2Proof.Machine

/-! ### Queues (R218) -/

/-- EN. -/
def State.queueOn (s : State) (q : Nat) : Bool := (s.qctl q).getLsbD 0
/-- Packets of the ring. -/
def State.ringCount (s : State) (q : Nat) : Nat := 2 ^ (((s.qctl q).extractLsb' 4 4).toNat + 4)
/-- QSTAT.ERR. -/
def State.queueErr (s : State) (q : Nat) : Bool := (s.reg (queueBase q + 0x38)).getLsbD 1
/-- Sets ERR with a code. -/
def State.queueFail (s : State) (q code : Nat) : State :=
  s.setReg64 (queueBase q + 0x38) (BitVec.ofNat 64 (2 + 16 * code))

/-- The function of a queue: its owner, else function 0. -/
def State.queueFn (s : State) (q : Nat) : Nat := (s.queueOwner q).getD 0

/-- The address space in which the engine acts for a queue, as a grid without work. -/
def State.queueGrid (s : State) (q : Nat) : Grid :=
  let f := s.queueFn q
  { Grid.blank with
    fn := f, queue := q, table := (s.reg64 (queueBase q + 0x10)).toNat, asid := (s.qctl q).extractLsb' 16 12,
    tenant := s.fnTenant f }

/-! ### Access through an address space -/

/-- Translates a run of bytes page by page: cells of device memory in order; none when a page fails or a byte is
poisoned. -/
def State.spanPages (s : State) (gr : Grid) (kind : Nat) : Nat → Nat → Nat → Option (List (Nat × Nat) × State)
  | 0, _, _ => some ([], s)
  | fuel + 1, va, n =>
    if n = 0 then some ([], s)
    else
      let m := min n (65536 - va % 65536)
      match s.lookup gr kind va with
      | .error _ => none
      | .ok e =>
        let a := e.base + va % 65536
        if kind = kindLoad && (s.poisonAt false a m).isSome then none
        else
          match (s.useEntry e kind).spanPages gr kind fuel (va + m) (n - m) with
          | none => none
          | some (r, s1) => some ((a, m) :: r, s1)

/-- The pages of a run of `n` bytes. -/
def State.span (s : State) (gr : Grid) (kind va n : Nat) : Option (List (Nat × Nat) × State) :=
  s.spanPages gr kind (n / 65536 + 2) va n

/-- A pointer of SPACE 0 or 4 without a rank, as queues use them (R218, R222). -/
def plainPtr (p : Dword) (align : Nat) : Bool :=
  (ptrSpace p == 0 || ptrSpace p == 4) && ptrRank p == 0 && ptrOffset p % align == 0

/-- An outer pointer is answered without an error: by the host, but for the addresses at which it answers with one, and by
a peer that exports its bytes to the tenant (R44, R45). -/
def State.outerServed (s : State) (tenant : BitVec 6) (o n : Nat) : Bool :=
  if toPeer o then s.peerServed tenant (peerOf o).1 (peerOf o).2 n
  else s.hostErr.all (fun r => o + n ≤ r.1 || r.1 + r.2 ≤ o)

/-- Free bytes: what a peer answers. -/
def State.freeBytes (s : State) : Nat → List Byte × State
  | 0 => ([], s)
  | n + 1 =>
    let (v, s1) := s.free
    let (r, s2) := s1.freeBytes n
    (v.extractLsb' 0 8 :: r, s2)

/-- A read of bytes of a peer: a request flit for each payload of 256 bytes (R457). -/
def State.askBytes (s : State) (gr : Grid) (pkg n : Nat) (woff : Nat) : State :=
  (List.range ((n + 255) / 256)).foldl (fun s k =>
    s.sendFlit (BitVec.ofNat 10 pkg) gr.channel 0 (BitVec.ofNat 64 (woff + 256 * k)) []) s

/-- Reads bytes at a pointer of SPACE 0 or 4. -/
def State.readPtr (s : State) (gr : Grid) (p : Dword) (n : Nat) : Option (List Byte × State) :=
  let o := ptrOffset p
  if ptrSpace p = 4 then
    if !s.outerServed gr.tenant o n then none
    else some (if toPeer o then (s.askBytes gr (peerOf o).1 n (peerOf o).2).freeBytes n else (byteList s.host o n, s))
  else
    match s.span gr kindLoad o n with
    | none => none
    | some (ps, s1) => some (ps.flatMap (fun e => byteList s1.mem e.1 e.2), s1)

/-- Writes pieces of a list of bytes at their places, as an agent that is no group. -/
def State.writePieces (s : State) : List (Nat × Nat) → List Byte → State
  | [], _ => s
  | (a, n) :: r, bs => (s.writeExternal false a (bs.take n)).writePieces r (bs.drop n)

/-- Writes bytes at a pointer of SPACE 0 or 4; a write to a peer is a request to its window. -/
def State.writePtr (s : State) (gr : Grid) (p : Dword) (bs : List Byte) : Option State :=
  let o := ptrOffset p
  if ptrSpace p = 4 then
    if !s.outerServed gr.tenant o bs.length then none
    else if toPeer o then
      some (s.peerFlit gr o bs)
    else some { s with host := writeBytes s.host o bs }
  else
    match s.span gr kindStore o bs.length with
    | none => none
    | some (ps, s1) => some (s1.writePieces ps bs)

/-- A write of `n` bytes through an address space may land at once: what follows it follows its performance (R223,
R229). -/
def State.spanOpen (s : State) (gr : Grid) (va n : Nat) : Bool :=
  match s.span gr kindStore va n with
  | none => true
  | some (ps, _) => ps.all (fun e => s.writeOpen false e.1 e.2)

/-- The same for a pointer of SPACE 0 or 4. -/
def State.ptrOpen (s : State) (gr : Grid) (p : Dword) (n : Nat) : Bool :=
  ptrSpace p = 4 || s.spanOpen gr (ptrOffset p) n

/-! ### Completion of packets (R223, R230, R231) -/

/-- Bytes of a completion record with only STATUS, QUEUE, SEQ, DETAIL and FLAGS. -/
def shortRecord (status queue flags seq : Nat) (detail : Dword) : List Byte :=
  leBytes 4 status ++ leBytes 2 queue ++ [BitVec.ofNat 8 flags, 0] ++ leBytes 8 seq ++ List.replicate 24 0 ++
    leBytes 8 detail.toNat ++ List.replicate 16 0

/-- Packet of a queue by its sequence number, under the present enabling. -/
def State.packetIx (s : State) (q seq : Nat) : Option Nat :=
  (List.range s.packets.length).find? (fun k =>
    match s.packets[k]? with
    | some p => p.live && p.queue == q && p.seq == seq
    | none => false)

/-- Packets of a queue under the present enabling. -/
def State.livePackets (s : State) (q : Nat) : List Packet := s.packets.filter (fun p => p.live && p.queue == q)

/-- A packet has begun or is done. -/
def Packet.begun (p : Packet) : Bool := p.st == .begun || p.st == .done

/-- Largest n for which packets 1 to n have all completed. -/
def doneMark (ps : List Packet) : Nat → Nat → Nat
  | 0, n => n
  | fuel + 1, n => if ps.any (fun p => p.seq == n + 1 && p.st == .done) then doneMark ps fuel (n + 1) else n

/-- QDONE advances where it may. -/
def State.advanceDone (s : State) (q : Nat) : State :=
  let ps := s.livePackets q
  s.setReg64 (queueBase q + 0x30) (BitVec.ofNat 64 (doneMark ps ps.length (s.reg64 (queueBase q + 0x30)).toNat))

/-- Where the record of a packet lies (R231). The spec does not say where the record of a LAUNCH goes that completes after its
queue has been disabled and QCRING or LSIZE rewritten: the present values of both are used (log 122). -/
def State.recordPtr (s : State) (q seq : Nat) : Dword :=
  s.reg64 (queueBase q + 0x18) + BitVec.ofNat 64 (64 * ((seq - 1) % s.ringCount q))

/-- A record goes to the queue's completion ring; a fault of the ring sets ERR. -/
def State.ringRecord (s : State) (q seq : Nat) (bs : List Byte) : State :=
  match s.writePtr (s.queueGrid q) (s.recordPtr q seq) bs with
  | some s1 => s1
  | none => s.queueFail q 4

/-- The record of a packet can be performed at once. -/
def State.recordOpen (s : State) (q seq : Nat) : Bool := s.ptrOpen (s.queueGrid q) (s.recordPtr q seq) 64

/-- VEC is raised when INT is set. -/
def State.raiseVec (s : State) (p : Packet) : State :=
  let h := p.words.getD 0 0
  if h.getLsbD 9 then { s with irqs := s.irqs ++ [(s.queueFn p.queue, (h.extractLsb' 16 11).toNat)] } else s

/-- The packet is done: QDONE, the interrupt, and its QPKT record, in this order. -/
def State.packetDone (s : State) (k : Nat) (p : Packet) (status : Nat) : State :=
  let q := p.queue
  let f := s.queueFn q
  let s1 : State := { s with packets := s.packets.set k { p with st := .done } }
  ((s1.advanceDone q).raiseVec p).tapFoyer 0x50 (q / 64) (s.fnTenant f)
    (BitVec.ofNat 32 ((p.words.getD 0 0).toNat % 256 + 256 * status + 65536 * (s.localQueue f q % 2 ^ 14)))
    (BitVec.ofNat 32 p.seq)

/-- Completes packet `k` with a status: its record, then the rest. -/
def State.completePacket (s : State) (k status : Nat) (detail : Dword) : State :=
  match s.packets[k]? with
  | none => s
  | some p =>
    (s.ringRecord p.queue p.seq
      (shortRecord status (s.localQueue (s.queueFn p.queue) p.queue) 0 p.seq detail)).packetDone k p status

/-! ### QCTL and QTAIL (R218 to R220) -/

/-- Why an enable fails, in the order 6, 5, 1. -/
def State.enableFault (s : State) (q : Nat) (v : Dword) : Option Nat :=
  let b := queueBase q
  let clash := (List.range 16384).any (fun k =>
    k != q && s.queueOn k && s.queueOwner k == s.queueOwner q && (s.qctl k).extractLsb' 16 12 == v.extractLsb' 16 12 &&
      s.reg64 (queueBase k + 0x10) != s.reg64 (b + 0x10))
  if s.failed || (s.queueOwner q).isNone then some 6
  else if 12 < (v.extractLsb' 4 4).toNat then some 5
  else if !plainPtr (s.reg64 b) 4096 || !plainPtr (s.reg64 (b + 0x18)) 4096 || clash then some 1
  else none

/-- EN goes from 0 to 1. -/
def State.enableQueue (s : State) (q : Nat) (v : Dword) : State :=
  let b := queueBase q
  let s1 := s.setReg64 (b + 8) (v &&& 0x0FFFFFFE)
  match s.enableFault q v with
  | some c => s1.queueFail q c
  | none =>
    let s2 := (s1.setReg64 (b + 8) (v &&& 0x0FFFFFFF)).setReg64 (b + 0x38) 0
    ({ s2 with packets := s2.packets.map (fun (p : Packet) => if p.queue == q then { p with live := false } else p) } :
      State).setReg64 (b + 0x20) 0 |>.setReg64 (b + 0x28) 0 |>.setReg64 (b + 0x30) 0

/-- Software acts on a queue: what its SAVE held back may begin (log 120). -/
def State.letGo (s : State) (q : Nat) : State := { s with heldQueues := s.heldQueues.filter (· != q) }

/-- QCTL_ENABLE: while EN is set, a write of QCTL changes nothing but EN. -/
def execQctlEnable (q : Nat) (v : Dword) (s : State) : Host.Outcome State Fault Refusal :=
  s.when (q < 16384 && !s.queueOn q) (fun s => (s.letGo q).enableQueue q v)

/-- Packets of a queue that have not begun are cancelled, in sequence order. -/
def State.cancelPackets (s : State) (q : Nat) : State :=
  (List.range s.packets.length).foldl (fun s k =>
    match s.packets[k]? with
    | some p => if p.live && p.queue == q && (p.st == .fetched || p.st == .waiting) then s.completePacket k 9 0 else s
    | none => s) s

/-- Every record of the packets that a clear of EN cancels can be performed at once. -/
def State.cancelOpen (s : State) (q : Nat) : Bool :=
  (s.livePackets q).all (fun p => p.begun || s.recordOpen q p.seq)

/-- QCTL_DISABLE. -/
def execQctlDisable (q : Nat) (v : Dword) (s : State) : Host.Outcome State Fault Refusal :=
  s.when (q < 16384) (fun s =>
    if s.queueOn q then (s.cancelPackets q).setReg64 (queueBase q + 8) (s.qctl q &&& 0x0FFFFFFE)
    else s.setReg64 (queueBase q + 8) (v &&& 0x0FFFFFFE))

/-- QTAIL_DOORBELL. -/
def execQtailDoorbell (q : Nat) (v : Word) (s : State) : Host.Outcome State Fault Refusal :=
  s.when (q < 16384) (fun s =>
    let s1 := (s.letGo q).setReg64 (queueBase q + 0x20) (v.setWidth 64)
    if s.queueOn q && s.ringCount q < (v - s.reg (queueBase q + 0x28)).toNat then s1.queueFail q 3 else s1)

/-! ### Fetching (R219) -/

/-- The engine may fetch. -/
def State.fetchDue (s : State) (q : Nat) : Bool :=
  let b := queueBase q
  q < 16384 && s.queueOn q && !s.queueErr q && (s.queueOwner q).isSome && s.reg (b + 0x20) != s.reg (b + 0x28)

/-- The eight words of 64 bytes. -/
def wordsOf (bs : List Byte) : List Dword := (List.range 8).map (fun k => BitVec.ofNat 64 (leAt bs (8 * k) 8))

/-- Fetches packet QHEAD. -/
def State.fetchPacket (s : State) (q : Nat) : State :=
  let b := queueBase q
  let head := s.reg (b + 0x28)
  match s.readPtr (s.queueGrid q) (s.reg64 b + BitVec.ofNat 64 (64 * (head.toNat % s.ringCount q))) 64 with
  | none => s.queueFail q 2
  | some (bs, s1) =>
    let seq := ((s.livePackets q).foldl (fun m p => max m p.seq) 0) + 1
    ({ s1 with packets := s1.packets ++ [⟨q, seq, wordsOf bs, .fetched, none, true⟩] } : State).setReg (b + 0x28) (head + 1)

/-- PACKET_FETCH. -/
def execPacketFetch (q : Nat) (s : State) : Host.Outcome State Fault Refusal :=
  s.when (s.fetchDue q) (fun s => s.fetchPacket q)

/-! ### Beginning (R221 to R224) -/

/-- TYPE of a packet. -/
def Packet.kind (p : Packet) : Nat := (p.words.getD 0 0).toNat % 256
/-- Word `k`. -/
def Packet.word (p : Packet) (k : Nat) : Dword := p.words.getD k 0

/-- Bits that the words of a type may set (R221, R222). -/
def packetMask (kind : Nat) : List Dword :=
  let all : Dword := 0xFFFFFFFFFFFFFFFF
  match kind with
  | 1 => [all, all, all, all, all, 0x1FF, 0]
  | 2 => [0x3FFF, all, 0, 0, 0, 0, 0]
  | 3 => [all, all, 0, 0, 0, 0, 0]
  | 4 => [all, all, 3, 0x0000FFFFFFFFFF00, 0, 0, 0]
  | 5 => [all, 0x0F0FFF7F, 0, 0, 0, 0, 0]
  | _ => [0, 0, 0, 0, 0, 0, 0]

/-- A reserved TYPE or a reserved bit that is set. -/
def Packet.badBits (p : Packet) : Bool :=
  5 < p.kind || p.word 0 &&& 0xFFFFFFFFF800FC00 != 0 ||
    ((packetMask p.kind).zip (p.words.drop 1)).any (fun e => e.2 &&& ~~~e.1 != 0)

/-- The packet is the next of its queue to begin. -/
def State.turnOf (s : State) (p : Packet) : Bool :=
  let older := (s.livePackets p.queue).filter (fun x => x.seq < p.seq)
  p.live && (p.st == .fetched || p.st == .waiting) && s.queueOn p.queue && (s.queueOwner p.queue).isSome &&
    older.all Packet.begun && (!(p.word 0).getLsbD 8 || older.all (fun x => x.st == .done))

/-- What a WAITSEQ or SIGNAL waits for has come; other types wait for nothing here. -/
def State.awaitedBy (s : State) (p : Packet) : Bool :=
  if p.badBits then true
  else if p.kind = 2 then
    match (s.fnQueues (s.queueFn p.queue))[(p.word 1).toNat]? with
    | none => true
    | some q => (p.word 2).toNat ≤ (s.reg64 (queueBase q + 0x30)).toNat
  else if p.kind = 3 then ((s.livePackets p.queue).filter (fun x => x.seq < p.seq)).all (fun x => x.st == .done)
  else true

/-- The domain of the LAUNCH that a QUIESCE names, by its root grid; none when there is none. The LAUNCH is one of the
present enabling; a restored shard has no packet here (R465). -/
def State.quiesceTarget (s : State) (p : Packet) : Option Nat :=
  (List.range s.grids.length).find? (fun k =>
    let g := s.grd k
    g.queue == p.queue && g.parent.isNone && g.ordered && g.seq == (p.word 1).toNat &&
      g.status.all (fun x => x.1 != 1) && g.root == k &&
      (match s.packets.find? (fun x => x.grid == some k) with
       | some x => x.live
       | none => g.st != .done))

/-- A LAUNCH of the queue that a QUIESCE names is still to begin. -/
def State.targetAhead (s : State) (p : Packet) : Bool :=
  (s.livePackets p.queue).any (fun x => x.kind == 1 && x.seq == (p.word 1).toNat && !x.begun)

/-- PSTAT.HALTED of a queue (R398). -/
def State.queueHalted (s : State) (q : Nat) : Bool := (s.reg64 (preemptBase q + 0x10)).getLsbD 0

/-- The launch record of a packet, when it can be read. -/
def State.packetRecord (s : State) (q : Nat) (p : Dword) : Option (List Byte × State) :=
  if ptrSpace p ≠ 0 || ptrOffset p % 256 ≠ 0 || p.extractLsb' 55 9 ≠ 0 then none else s.readPtr (s.queueGrid q) p 256

/-- Ordering domains resident in the package (R104). -/
def State.residentDomains (s : State) : Nat := (s.grids.filter Grid.isDomain).length

/-- No store follows the SAVE of a queue: its contexts are held saved, or there was none to hold (R398, R449; log 120). -/
def State.storesHeld (s : State) (q : Nat) : Bool := s.queueHalted q || s.heldQueues.contains q

/-- A LAUNCH has to wait: the queue stores nothing (R449), or its grid is ORDERED and 256 ordering domains are resident
(R104). -/
def State.launchHeld (s : State) (p : Packet) : Bool :=
  s.storesHeld p.queue || (256 ≤ s.residentDomains &&
    (match s.packetRecord p.queue (p.word 1) with
     | none => false
     | some (r, _) => (r.getD 0x02B 0).getLsbD 0))

/-- A packet with nothing more to wait for. -/
def State.ready (s : State) (p : Packet) : Bool :=
  s.turnOf p && s.awaitedBy p && (p.badBits ||
    ((p.kind ≠ 4 || !s.targetAhead p) && (p.kind ≠ 1 || !s.launchHeld p) && (p.kind ≠ 3 || !s.storesHeld p.queue)))

/-- What a packet writes as it begins may land at once: its record, and the store of a SIGNAL (R223). -/
def State.packetOpen (s : State) (p : Packet) : Bool :=
  s.recordOpen p.queue p.seq && (p.kind ≠ 3 || s.ptrOpen (s.queueGrid p.queue) (p.word 1) 8)

/-- A packet is ready to begin: nothing that it waits for, or that what it writes waits for, is left. -/
def State.canBegin (s : State) (p : Packet) : Bool := s.ready p && s.packetOpen p

/-- Queues of a priority level with a packet that is ready to begin. -/
def State.readyQueues (s : State) (level : Nat) : List Nat :=
  (s.packets.filter (fun x => s.queuePrio x.queue == level && s.canBegin x)).map (·.queue)

/-- Packets that a queue may begin in one turn: WEIGHT, where 0 counts as 1 (R218). -/
def State.queueShare (s : State) (q : Nat) : Nat := max 1 ((s.qctl q).extractLsb' 8 8).toNat

/-- The rotation at a level: the queue served last and the packets of its turn. -/
def State.lastServed (s : State) (level : Nat) : Option (Nat × Nat) := (s.served.find? (·.1 == level)).map (·.2)

/-- The queue whose turn it is at a level (R224): the one served last until it has taken its share, else the next ready
one in ascending number, around the end (log 53). -/
def State.servedNext (s : State) (level : Nat) : Option Nat :=
  let c := s.readyQueues level
  match s.lastServed level with
  | none => c.min?
  | some (q, n) =>
    if c.contains q && n < s.queueShare q then some q
    else
      match (c.filter (q < ·)).min? with
      | some k => some k
      | none => c.min?

/-- No packet of a queue of a higher level is ready, and it is the queue's turn within its level (R224). -/
def State.topPrio (s : State) (p : Packet) : Bool :=
  s.packets.all (fun x => s.queuePrio x.queue ≤ s.queuePrio p.queue || !s.canBegin x) &&
    s.servedNext (s.queuePrio p.queue) == some p.queue

/-- The packets that the queue has begun in its turn, with one more of it. -/
def State.turnCount (s : State) (q : Nat) : Nat :=
  match s.lastServed (s.queuePrio q) with
  | some (q0, n) => if q0 = q && n < s.queueShare q then n + 1 else 1
  | none => 1

/-- A packet of the queue begins: the rotation of its level. -/
def State.serve (s : State) (q : Nat) : State :=
  { s with served := (s.queuePrio q, q, s.turnCount q) :: s.served.filter (fun e => e.1 != s.queuePrio q) }

/-- The packet of an event: of the queue and sequence number, of the type that the event is for, and at its turn. It
begins now, or waits. -/
def State.begin (s : State) (q seq : Nat) (kind : Packet → Bool) (k : State → Nat → Packet → State) :
    Host.Outcome State Fault Refusal :=
  .next (match s.packetIx q seq with
    | none => s
    | some ix =>
      match s.packets[ix]? with
      | none => s
      | some p =>
        if !kind p || !s.turnOf p then s
        else if !s.ready p then { s with packets := s.packets.set ix { p with st := .waiting } }
        else if !s.topPrio p || !s.packetOpen p then s
        else if p.badBits then (s.serve q).completePacket ix 8 0
        else k { s.serve q with packets := s.packets.set ix { p with st := .begun } } ix { p with st := .begun })

/-- NOP_PACKET; a packet of a reserved TYPE takes the same way and completes with BADPACKET. -/
def execNopPacket (q seq : Nat) (s : State) : Host.Outcome State Fault Refusal :=
  s.begin q seq (fun p => p.kind == 0 || 5 < p.kind) (fun s ix _ => s.completePacket ix 0 0)

/-- WAITSEQ. -/
def execWaitseq (q seq : Nat) (s : State) : Host.Outcome State Fault Refusal :=
  s.begin q seq (fun p => p.kind == 2) (fun s ix p =>
    match (s.fnQueues (s.queueFn q))[(p.word 1).toNat]? with
    | none => s.completePacket ix 8 0
    | some _ => s.completePacket ix 0 0)

/-- SIGNAL: its store, or BADPACKET when it cannot be performed (R223). -/
def execSignal (q seq : Nat) (s : State) : Host.Outcome State Fault Refusal :=
  s.begin q seq (fun p => p.kind == 3) (fun s ix p =>
    if !plainPtr (p.word 1) 8 then s.completePacket ix 8 0
    else
      match s.writePtr (s.queueGrid q) (p.word 1) (leBytes 8 (p.word 2).toNat) with
      | some s1 => s1.completePacket ix 0 0
      | none => s.completePacket ix 8 0x10008)

/-! ### LAUNCH (R193, R222, R226, R487) -/

/-- A cluster that a function may run on, on a die that has booted. -/
def State.usableDie (s : State) (f d : Nat) : Bool :=
  (s.dies.getD d ⟨false, 0, [], 0, 0⟩).up && (List.range 6).any (fun k => s.ownsCluster f (6 * d + k))

/-- Usable dies of a LAUNCH. -/
def State.usableDies (s : State) (f : Nat) (mask : Nat) : List Nat :=
  (List.range 8).filter (fun d => (mask = 0 || natBit mask d) && s.usableDie f d)

/-- Where a LAUNCH is refused: launch-record offsets first, then packet offsets with bit 16 (R230). -/
def launchFault (p : Packet) (r : List Byte) (dies : List Nat) : Option Nat :=
  let pin := (p.word 6).getLsbD 8
  match lowestFault (recordFaults r true (p.queue = 0)) with
  | some o => some o
  | none => if dies = [] || (pin && (p.word 6).toNat % 256 = 0) then some 0x10030 else none

/-- The grid of a LAUNCH. -/
def State.launchGrid (s : State) (p : Packet) (r : List Byte) (dies : List Nat) : Grid :=
  let g := s.queueGrid p.queue
  { Grid.ofRecord r with
    fn := g.fn, queue := p.queue, seq := p.seq,
    image := (List.range 4).flatMap (fun k => leBytes 8 (p.word (2 + k)).toNat),
    dies := dies, pin := (p.word 6).getLsbD 8, root := s.grids.length, table := g.table, asid := g.asid,
    tenant := g.tenant, sup := p.queue == 0, code := s.mem }

/-- LAUNCH_PACKET: the grid starts, or it is refused. -/
def execLaunchPacket (q seq : Nat) (s : State) : Host.Outcome State Fault Refusal :=
  s.begin q seq (fun p => p.kind == 1) (fun s ix p =>
    match s.packetRecord q (p.word 1) with
    | none => s.completePacket ix 1 0x10008
    | some (r, s1) =>
      let dies := s1.usableDies (s1.queueFn q) ((p.word 6).toNat % 256)
      match launchFault p r dies with
      | some o => s1.completePacket ix 1 (BitVec.ofNat 64 o)
      | none =>
        { s1 with
          packets := s1.packets.set ix { p with grid := some s1.grids.length }
          grids := s1.grids ++ [s1.launchGrid p r dies] })

/-! ### QUIESCE (R232) -/

/-- The effective round: no group of the domain has closed a later one. -/
def State.effectiveRound (s : State) (d round : Nat) : Nat := max round ((s.grd d).closed - 1)

/-- A QUIESCE with an OP: of the packet's type, and that OP or a reserved one. -/
def isQuiesce (op : Nat) (p : Packet) : Bool :=
  p.kind == 4 && ((p.word 3).toNat % 4 == op || (op == 0 && (p.word 3).toNat % 4 == 3))

/-- QUIESCE OP 0 or 2 begins: the domain runs on to the effective round. SAVE is a field of OP 2; the others ignore it
(log 108). -/
def State.quiesceStop (s : State) (q seq op : Nat) : Host.Outcome State Fault Refusal :=
  s.begin q seq (isQuiesce op) (fun s ix p =>
    if (p.word 3).toNat % 4 = 3 then s.completePacket ix 8 0
    else
      match s.quiesceTarget p with
      | none => s.completePacket ix 8 0
      | some d =>
        if (s.grd d).st = .done then s.completePacket ix 0 0xFFFFFFFFFFFFFFFF
        else s.modGrid d (fun g => { g with quiesce := g.quiesce ++ [(s.effectiveRound d (p.word 2).toNat, ix)] }))

/-- QUIESCE_STOP. -/
def execQuiesceStop (q seq : Nat) (s : State) : Host.Outcome State Fault Refusal := s.quiesceStop q seq 0
/-- QUIESCE_STOP_AND_SAVE. -/
def execQuiesceStopAndSave (q seq : Nat) (s : State) : Host.Outcome State Fault Refusal := s.quiesceStop q seq 2

/-- Every grid of a context that is in one state passes to another. -/
def State.moveGrids (s : State) (root : Nat) (a b : GridState) : State :=
  { s with grids := s.grids.map (fun (g : Grid) => if g.root == root && g.st == a then { g with st := b } else g) }

/-- QUIESCE_RESUME. -/
def execQuiesceResume (q seq : Nat) (s : State) : Host.Outcome State Fault Refusal :=
  s.begin q seq (isQuiesce 1) (fun s ix p =>
    match s.quiesceTarget p with
    | none => s.completePacket ix 8 0
    | some d =>
      let s1 := s.modGrid d (fun g => { g with quiesce := g.quiesce.filter s.quiesceOpen })
      (s1.moveGrids d .stopped .running).completePacket ix 0 0)

/-- Every scope of a domain has applied the effective round of a QUIESCE, or every group sleeps and there is none to
apply. -/
def State.quiesced (s : State) (d : Nat) : Bool :=
  let g := s.grd d
  g.ordered && g.parent.isNone && (g.st == .running || g.st == .stopped) && g.status.isNone &&
    (s.quiescing d).any (fun q => (q.1 < g.applied || s.allAsleep d) &&
      (match s.packets[q.2]? with
       | some p => s.recordOpen p.queue p.seq
       | none => true))

/-! ### Grid completion (R136, R229, R230) -/

/-- The signature of a grid. -/
def Grid.signature (g : Grid) (ext : Bool) : List Byte :=
  (sha3 (g.image ++ g.lrec.take 0x88 ++ List.replicate 8 0 ++ g.lrec.drop 0x90 ++ leBytes 4 g.lcores ++
    [if g.ordered then 1 else 0, 1, if ext then 1 else 0, 0])).take 16

/-- FLAGS of a completion record. -/
def recordFlags (ext ordered child lost : Bool) : Nat :=
  (if ext then 1 else 0) + (if ordered then 2 else 0) + (if child then 4 else 0) + (if lost then 8 else 0)

/-- STATUS and DETAIL of a grid; a machine check overrides (R406). -/
def State.grdStatus (s : State) (gd : Nat) : Nat × Dword :=
  let g := s.grd gd
  let st := g.status.getD (0, 0)
  if (s.grd g.root).mcheck && st.1 ≠ 1 then (6, 0) else st

/-- FX of a grid: sticky flags of every group of it, however it ended (R230, R242, R374). -/
def State.gridFx (s : State) (gd : Nat) : Fx :=
  s.groups.foldl (fun m g => if g.grid = gd then m ||| g.fx ||| g.fxLater else m) (s.grd gd).fx

/-- The completion record of a grid. -/
def State.record (s : State) (gd : Nat) : List Byte :=
  let g := s.grd gd
  let root := s.grd g.root
  let child := g.parent.isSome
  let st := s.grdStatus gd
  let queue := if child then 0xFFFF else s.localQueue g.fn g.queue
  if st.1 = 1 then shortRecord 1 queue (if child then 4 else 0) g.seq st.2
  else
    leBytes 4 st.1 ++ leBytes 2 queue ++
      [BitVec.ofNat 8 (recordFlags (root.ext) g.ordered child g.crecLost), 0] ++ leBytes 8 g.seq ++
      g.signature root.ext ++ leBytes 4 (s.gridFx gd).toNat ++ leBytes 4 0 ++ leBytes 8 st.2.toNat ++ List.replicate 16 0

/-- The grid has nothing left to run or to perform. -/
def State.drained (s : State) (gd : Nat) : Bool :=
  let g := s.grd gd
  let mine := fun (i : Nat) => (s.grp i).grid == gd
  g.st == .running && (s.grd g.root).st == .running &&
    s.groupIds.all (fun i => !mine i || ((s.grp i).st == .retired && (s.grp i).flight == [])) &&
    (g.status.isSome || s.waitingTeams gd == []) &&
    (List.range s.grids.length).all (fun k => (s.grd k).parent != some gd || (s.grd k).st == .done) &&
    s.gridCopies gd == [] && s.barNet.all (fun m => !mine m.group) && s.mxu.all (fun m => !mine m.group) &&
    s.copies.all (fun c => !mine c.group || !s.cancelDue c) &&
    (s.grd g.root).contribs.all (fun c => !mine c.group) && (g.status.isSome || (s.grd g.root).ending == [])

/-- A grid and the grids above it, at most `fuel` of them. -/
def State.lineage (s : State) : Nat → Nat → List Nat
  | 0, _ => []
  | fuel + 1, gd => gd :: match (s.grd gd).parent with
    | some p => s.lineage fuel p
    | none => []

/-- The record goes to CREC through the grid's address space; when it cannot, it is dropped, and the grid and those above it
show it (R229, R230). -/
def State.recordToCrec (s : State) (gd : Nat) : State :=
  let g := s.grd gd
  match s.span g kindStore g.crec 64 with
  | some (ps, s1) => s1.writePieces ps (s1.record gd)
  | none => (s.lineage 16 gd).foldl (fun s k => s.modGrid k (fun g => { g with crecLost := true })) s

/-- Every QUIESCE that waits on a domain that has completed: OK, with DETAIL all ones. -/
def State.quiesceMissed (s : State) (gd : Nat) : State :=
  ((s.grd gd).quiesce.filter s.quiesceOpen).foldl (fun s q => s.completePacket q.2 0 0xFFFFFFFFFFFFFFFF) s

/-- The packet of a queue-launched grid is done, after its ring record; VEC is raised whether or not the queue has been
enabled anew since (R229). -/
def State.launchDone (s : State) (gd : Nat) : State :=
  let g := s.grd gd
  let s1 := s.ringRecord g.queue g.seq (s.record gd)
  match s1.packets.findIdx? (fun p => p.grid == some gd) with
  | none => s1
  | some k =>
    match s1.packets[k]? with
    | some p => s1.packetDone k p (s.grdStatus gd).1
    | none => s1

/-- The records of a grid can be performed at once: to CREC, and to the ring of a queue-launched one with those of the
QUIESCEs that it leaves behind (R229). -/
def State.completionOpen (s : State) (gd : Nat) : Bool :=
  let g := s.grd gd
  s.spanOpen g g.crec 64 && (g.parent.isSome || (s.recordOpen g.queue g.seq &&
    (g.quiesce.filter s.quiesceOpen).all (fun q => s.packets[q.2]?.all (fun p => s.recordOpen p.queue p.seq))))

end Sys2Proof.Machine
end

