-- ==== Sys2Proof/Machine/Area.lean ====
section
/-!
DEFINITION. Save areas (R375, R400, R403 to R405): a context as bytes, and what a restore takes from the bytes.
-/
namespace Sys2Proof.Machine

/-! ### Layout -/

/-- Fields at rising offsets, zeros between them, up to a size. -/
def layout (size : Nat) (fields : List (Nat × List Byte)) : List Byte :=
  let r := fields.foldl (fun (acc : List Byte × Nat) f => (acc.1 ++ List.replicate (f.1 - acc.2) 0 ++ f.2, f.1 + f.2.length)) ([], 0)
  r.1 ++ List.replicate (size - r.2) 0

/-- Words of 32 bits, little-endian. -/
def words32 (ws : List Word) : List Byte := ws.flatMap (fun w => leBytes 4 w.toNat)
/-- Words of 64 bits. -/
def words64 (ws : List Dword) : List Byte := ws.flatMap (fun w => leBytes 8 w.toNat)

/-- Entries `lo` to `lo + n - 1` of a table. -/
def entries {w : Nat} (m : Sparse w) (lo n : Nat) : List (BitVec w) := (List.range n).map (fun k => m.get (lo + k))

/-! ### Group records (R404) -/

/-- STATE. -/
def stateCode : GroupState → Nat
  | .running => 0
  | .sleeping => 1
  | .parked => 2
  | .handler => 3
  | .migrating => 4
  | .retired => 6

/-- The tagged pointer of an armed line. -/
def ArmedLine.pointer (l : ArmedLine) : Dword :=
  (if l.scratch then 1#4 else 0#4) ++ BitVec.ofNat 5 (if l.scratch then l.rank else 0) ++ BitVec.ofNat 55 (64 * l.line)

/-- A window. -/
def Window.word (w : Window) : Word :=
  0#17 ++ 1#1 ++ BitVec.ofNat 4 w.left ++ (if w.count = 4 then 2#2 else if w.count = 2 then 1#2 else 0#2) ++
    BitVec.ofBool w.uni ++ BitVec.ofNat 7 w.reg

/-- A take entry. -/
def TakeEntry.bytes (e : TakeEntry) : List Byte :=
  words64 [(if e.scratch then 1#4 else 0#4) ++ BitVec.ofNat 5 e.rank ++ BitVec.ofNat 55 (64 * e.line), e.mask] ++
    leBytes 64 e.data.toNat

/-- The replay packet of a load in flight (R400). -/
def Flight.packet (f : Flight) : List Byte :=
  words64 [f.ptr, 0#45 ++ (if f.uni then 1#3 else 0#3) ++ BitVec.ofNat 3 f.size.log2 ++ BitVec.ofBool f.uni ++
    BitVec.ofNat 7 f.reg ++ BitVec.ofNat 5 f.thread]

/-- The replay packet of a host or peer load that is not answered. -/
def HostReq.packet (r : HostReq) : List Byte :=
  words64 [r.ptr, 0#45 ++ (if r.uni then 1#3 else 0#3) ++ BitVec.ofNat 3 r.size.log2 ++ BitVec.ofBool r.uni ++
    BitVec.ofNat 7 r.reg ++ BitVec.ofNat 5 r.thread]

/-- Loads in flight, one for each access. -/
def Group.loadsOut (g : Group) : List Flight :=
  let ls := g.flight.filter (fun f => f.kind == 0)
  (ls.zip (List.range ls.length)).filterMap (fun e =>
    if (ls.take e.2).any (fun x => x.thread == e.1.thread && x.uni == e.1.uni && x.reg == e.1.reg) then none else some e.1)

/-- The replay packets of a group: a load of host or peer memory is its last (R399, R400). -/
def Group.replays (g : Group) : List (List Byte) :=
  g.loadsOut.map Flight.packet ++ match g.hostReq with
    | some r => if r.store then [] else [r.packet]
    | none => []

/-- Window 15 of a record, which is never valid, for a window lasts 15 issues at most: what the spec's fields leave out, when
they do not give it (R404; log 123): the group's own RIX, the lowest thread of its path, whether its walk is interrupted, and
what the interrupted instruction has decided. -/
def Group.walkWord (g : Group) : Word :=
  if g.st = .retired || (g.walkFrom.isNone && g.pcOf g.lowestAlive == g.sel) then 0
  else
    0#18 ++ 1#1 ++ BitVec.ofBool g.walk.close ++ BitVec.ofBool g.walk.quota ++ BitVec.ofBool g.walkFrom.isSome ++
      BitVec.ofNat 5 g.lowest ++ g.rix

/-- Saved PCs of a record; outside a handler, where they are not valid, the masks of the threads that an interrupted branch
has moved (R404; log 123). -/
def Group.savedPcs (g : Group) : List Byte :=
  if g.priv = 1 then words64 (entries g.savedPc 0 32)
  else words32 [g.walk.taken, g.walk.kept] ++ List.replicate 248 0

/-- TRAPREC of the record: the pending trap, outside the handler, when there is one (R402). -/
def Group.savedTrap (g : Group) : BitVec 128 × Bool :=
  match g.pend with
  | t :: _ => if g.priv = 1 then (g.trapRec, false) else (t.record, true)
  | [] => (g.trapRec, false)

/-- A group record. -/
def State.groupRecord (s : State) (i : Nat) : List Byte :=
  let g := s.grp i
  let gr := s.gridOf i
  let n := gr.nregs
  let tr := g.savedTrap
  let rs := g.replays
  let fired := (g.armed.zip (List.range 4)).foldl (fun m e => if e.1.fired then m + 2 ^ e.2 else m) 0
  layout gr.gsize [
    (0x00, leBytes 16 (s.wgOf i).id ++ [BitVec.ofNat 8 g.gix, BitVec.ofNat 8 (stateCode g.st + if tr.2 then 128 else 0)] ++
      leBytes 2 g.gen.toNat ++ leBytes 4 ((s.gsr i).extractLsb' 5 27 ++ g.stoppedAt).toNat ++ leBytes 8 g.lc ++
      leBytes 8 (if gr.ordered then g.wake.getD 0 else 0) ++ leBytes 4 g.fx.toNat ++
      words32 [g.exited, g.parked, BitVec.ofNat 32 g.nlaunch, BitVec.ofNat 32 rs.length, BitVec.ofNat 32 g.take.length] ++
      leBytes 16 tr.1.toNat),
    (0x50, words64 (g.armed.map (·.pointer))),
    (0x70, leBytes 8 (256 * g.monRound + 16 * g.armed.length + fired) ++ words32 ((g.windows.map (·.word)).take 15)),
    (0xB4, words32 [g.walkWord]),
    (0xB8, words32 (entries g.j 0 15 ++ entries g.p 0 7 ++ (0 :: entries g.g 1 31))),
    (0x190, words64 (entries g.pc 0 32)),
    (0x290, words32 ((List.range 32).flatMap (fun t => [g.spb.get t, g.rsd.get t]))),
    (0x390, words64 (entries g.rst 0 128)),
    (0x790, words32 (entries g.snap 0 64)),
    (0x890, g.savedPcs ++ words32 [g.savedParked]),
    (0xA00, words32 ((List.range n).flatMap (fun r => (List.range 32).map (fun t => g.rx t r))) ++
      g.take.flatMap TakeEntry.bytes),
    (0xA00 + 128 * n + 80 * gr.takeRoom, rs.flatten)]

/-! ### Workgroup records (R405) -/

/-- A token in six bits. -/
def tokenCode : Token → Nat
  | .mxu k => k % 32
  | .held k => 32 + k % 32

/-- A cancelled copy. -/
def Copy.cancelEntry (c : Copy) : List Byte :=
  words32 [c.dhandle, c.chandle, c.n, BitVec.ofNat 32 ((Desc.ofBits c.desc).queue + 16 * c.form)]

/-- Core numbers of parked MXU work begin here: no MXU performs it while its context is saved. -/
def parkedCore : Nat := 1152

/-- Queued MXU work of a workgroup, oldest first. -/
def State.queuedMxu (s : State) (w : Nat) : List MxuOp := s.mxu.filter (fun o => (s.grp o.group).wg == w)

/-- A workgroup record. -/
def State.wgRecord (s : State) (w : Nat) : List Byte :=
  let x := s.wgp w
  let g := s.grd x.grid
  let halves := if g.twoshot then [0, 1] else [0]
  let toks := ((x.tokens.zip (List.range 8)).map (fun e => tokenCode e.1 * 2 ^ (6 * e.2))).sum
  let ms := (s.queuedMxu w).take 4
  let cs := (x.cancelled.filterMap (fun k => s.copies[k]?)).take 64
  layout g.wsize [
    (0x00, leBytes 16 x.id ++ leBytes 4 (x.id % g.lcores) ++ leBytes 4 x.slot ++ leBytes 8 toks ++ leBytes 4 ms.length ++
      leBytes 4 cs.length),
    (0x30, ms.flatMap (fun o => words32 [o.word, o.ha, o.hb, BitVec.ofNat 32 (s.grp o.group).gix])),
    (0x80, cs.flatMap Copy.cancelEntry),
    (0x500, halves.flatMap (fun h => byteList s.scratch (scratchKey w h 0) g.scratchBytes) ++
      halves.flatMap (fun h => words32 (entries s.tiles (tileKey w h 0) (4096 * g.accs))))]

/-! ### Held landings (R403) -/

/-- A held landing. -/
def State.heldEntry (s : State) (c : Copy) : List Byte :=
  let d := Desc.ofBits c.desc
  let g := s.grp c.group
  layout (heldBytes d) [
    (0x00, leBytes 16 (s.wgOf c.group).id ++ [BitVec.ofNat 8 g.gix, BitVec.ofNat 8 d.queue, BitVec.ofNat 8 c.form, 0] ++
      leBytes 4 d.bytes ++ leBytes 8 c.round ++ words32 [c.dhandle, c.chandle, c.n]),
    (0x30, (c.data.getD []).flatMap (fun v => leBytes d.es v.toNat))]

/-- Copies of a grid held at a save, by round, key of the group, and order of issue. -/
def State.heldCopies (s : State) (gd : Nat) : List Copy :=
  ((s.gridCopies gd).filterMap (fun k => s.copies[k]?)).mergeSort (fun a b =>
    a.round < b.round || (a.round == b.round && !keyLt (s.key b.group) (s.key a.group)))

/-! ### Grid sections and the area (R403) -/

/-- The distributor's state of a grid, in the bytes 0x38 to 0xFF whose layout the spec leaves to the hardware (log 30). -/
def State.distState (s : State) (gd : Nat) : List Byte :=
  let g := s.grd gd
  let parent := match g.parent with
    | some p => (s.grd p).seq
    | none => 0
  let started := (List.range 320).foldl (fun m k =>
    if (s.findWg gd ((g.nextTeam + k) * g.team)).isSome then m + 2 ^ k else m) 0
  let bit := fun (b : Bool) => if b then 1#8 else 0#8
  leBytes 8 g.nextTeam ++ leBytes 8 g.birth ++
    [bit (g.st == .stopped) ||| BitVec.ofNat 8 (2 * (s.gridFx gd).toNat), BitVec.ofNat 8 g.depth,
     bit g.pin ||| (bit g.crecLost <<< 1) ||| (bit g.mcheck <<< 2), bit g.ext] ++
    leBytes 4 g.key.length ++ leBytes 8 parent ++ layout 32 [(0, g.image)] ++
    layout 96 [(0, (g.key.zip (List.range 16)).flatMap (fun e => leBytes (if e.2 % 2 = 0 then 8 else 4) e.1))] ++
    leBytes 40 started

/-- Groups of a grid's resident workgroups, in order. -/
def State.sectionGroups (s : State) (gd : Nat) : List Nat :=
  (s.residentWgs gd).flatMap (fun w => (s.groupIds.filter (fun i => (s.grp i).wg == w)).mergeSort
    (fun a b => (s.grp a).gix ≤ (s.grp b).gix))

/-- A grid section at offset `at'`; `last` says that none follows. -/
def State.gridSection (s : State) (at' : Nat) (last : Bool) (gd : Nat) : List Byte :=
  let g := s.grd gd
  let ws := s.residentWgs gd
  let gs := s.sectionGroups gd
  let held := (s.heldCopies gd).flatMap s.heldEntry
  let body := 512 + ws.length * g.wsize + gs.length * g.gsize
  leBytes 8 (if g.parent.isSome then g.seq else 0) ++
    leBytes 4 ws.length ++ leBytes 4 gs.length ++ leBytes 4 g.wsize ++ leBytes 4 g.gsize ++
    leBytes 8 (if last then 0 else at' + body + held.length) ++
    leBytes 8 (if held = [] then 0 else at' + body) ++ leBytes 8 held.length ++ leBytes 8 (s.grd g.root).seq ++
    s.distState gd ++ g.lrec ++ ws.flatMap s.wgRecord ++ gs.flatMap s.groupRecord ++ held

/-- The sections of several grids. -/
def State.sections (s : State) (at' : Nat) : List Nat → List Byte
  | [] => []
  | [g] => s.gridSection at' true g
  | g :: r =>
    let b := s.gridSection at' false g
    b ++ s.sections (at' + b.length) r

/-- Header fields before TOTAL; the context with the lowest sequence number gives FLAGS, ROUND and TREC. -/
def State.areaHead (s : State) (gds : List Nat) (status : Nat) : List Byte :=
  let roots := (gds.map (fun k => (s.grd k).root)).eraseDups
  let root := match roots with
    | [] => 0
    | a :: r => r.foldl (fun m k => if (s.grd k).seq < (s.grd m).seq then k else m) a
  let g := s.grd root
  let trec := match g.ending with
    | e :: _ => e.trap.record
    | [] => 0
  leBytes 4 1 ++ leBytes 4 status ++ leBytes 8 g.seq ++ leBytes 4 gds.length ++
    leBytes 4 ((if g.ordered then 1 else 0) + if status = 0 then 0 else 2) ++
    leBytes 8 (if g.ordered then (BitVec.ofInt 64 ((g.applied : Int) - 1)).toNat else 0) ++ leBytes 16 trec.toNat

/-- A save area of these grids. -/
def State.areaBytes (s : State) (gds : List Nat) (status : Nat) : List Byte :=
  let body := s.sections 256 gds
  let head := s.areaHead gds status ++ leBytes 8 (256 + body.length)
  let check := crc64 (head ++ List.replicate (256 - head.length) 0 ++ body)
  head ++ leBytes 8 check.toNat ++ List.replicate (248 - head.length) 0 ++ body

/-! ### The area in memory -/

/-- Pieces of a run of guest-physical bytes of a function, at their device-physical places. -/
def State.areaPlaces (s : State) (f : Nat) : Nat → Nat → Nat → Option (List (Nat × Nat))
  | 0, _, _ => some []
  | fuel + 1, a, n =>
    if n = 0 then some []
    else
      let m := min n (65536 - a % 65536)
      match if f = 0 then .ok a else s.guestPhys f a, s.areaPlaces f fuel (a + m) (n - m) with
      | .ok p, some r => some ((p, m) :: r)
      | _, _ => none

/-- Bytes of an area. -/
def State.readArea (s : State) (f a n : Nat) : Option (List Byte) :=
  (s.areaPlaces f (n / 65536 + 2) a n).map (fun ps => ps.flatMap (fun e => byteList s.mem e.1 e.2))

/-- Writes an area page by page; none when stage 2 fails for a page. -/
def State.writeArea (s : State) (f : Nat) : Nat → Nat → List Byte → Option State
  | 0, _, _ => some s
  | fuel + 1, a, bs =>
    if bs = [] then some s
    else
      let m := 65536 - a % 65536
      match s.hardwareWrite f a (bs.take m) with
      | .error _ => none
      | .ok s1 => s1.writeArea f fuel (a + m) (bs.drop m)

/-- Writes bytes at an area's address. -/
def State.storeArea (s : State) (f a : Nat) (bs : List Byte) : Option State := s.writeArea f (bs.length / 65536 + 2) a bs

/-! ### What a restore takes from the bytes -/

/-- A table from consecutive values. -/
def tableOf {w : Nat} (lo : Nat) (vs : List (BitVec w)) : Sparse w :=
  (vs.zip (List.range vs.length)).filterMap (fun e => if e.1 = 0 then none else some (lo + e.2, e.1))

/-- `n` words of 32 bits at an offset. -/
def get32 (b : List Byte) (o n : Nat) : List Word := (List.range n).map (fun k => BitVec.ofNat 32 (leAt b (o + 4 * k) 4))
/-- `n` words of 64 bits at an offset. -/
def get64 (b : List Byte) (o n : Nat) : List Dword := (List.range n).map (fun k => BitVec.ofNat 64 (leAt b (o + 8 * k) 8))

/-- A window of a record, when it is valid. -/
def windowOf (w : Word) : Option Window :=
  if w.getLsbD 14 then
    let k := (w.extractLsb' 8 2).toNat
    some ⟨(w.extractLsb' 0 7).toNat, w.getLsbD 7, 2 ^ k, (w.extractLsb' 10 4).toNat⟩
  else none

/-- A trap record as a trap. -/
def trapOf (r : BitVec 128) : Trap :=
  ⟨r.extractLsb' 0 8, (r.extractLsb' 8 5).toNat, r.extractLsb' 16 16, r.extractLsb' 32 32, r.extractLsb' 64 64,
    r.extractLsb' 13 2, r.getLsbD 15⟩

/-- The registers, masks and clocks of a record, put into a group of `n` registers per thread. -/
def Group.load (g : Group) (n : Nat) (b : List Byte) : Group :=
  let gsr : Word := BitVec.ofNat 32 (leAt b 0x14 4)
  let regs := get32 b 0xA00 (32 * n)
  let sp := get32 b 0x290 64
  { g with
    gen := BitVec.ofNat 16 (leAt b 0x12 2)
    priv := gsr.extractLsb' 30 2
    jf := gsr.getLsbD 27
    clr := gsr.extractLsb' 10 3
    rix := if natBit (leAt b 0xB4 4) 13 then BitVec.ofNat 5 (leAt b 0xB4 4) else gsr.extractLsb' 0 5
    lc := leAt b 0x18 8
    fx := BitVec.ofNat 7 (leAt b 0x28 4)
    exited := BitVec.ofNat 32 (leAt b 0x2C 4)
    parked := BitVec.ofNat 32 (leAt b 0x30 4)
    nlaunch := leAt b 0x34 4
    trapRec := if natBit (leAt b 0x11 1) 7 then g.trapRec else BitVec.ofNat 128 (leAt b 0x40 16)
    windows := (get32 b 0x78 16).filterMap windowOf
    j := tableOf 0 (get32 b 0xB8 15)
    p := tableOf 0 (get32 b 0xF4 7)
    g := tableOf 1 (get32 b 0x114 31)
    pc := tableOf 0 (get64 b 0x190 32)
    spb := tableOf 0 ((List.range 32).map (fun t => sp.getD (2 * t) 0))
    rsd := tableOf 0 ((List.range 32).map (fun t => sp.getD (2 * t + 1) 0))
    rst := tableOf 0 (get64 b 0x390 128)
    snap := tableOf 0 (get32 b 0x790 64)
    savedPc := tableOf 0 (get64 b 0x890 32)
    savedParked := BitVec.ofNat 32 (leAt b 0x990 4)
    x := tableOf 0 ((List.range 32).flatMap (fun t => (List.range 128).map (fun r =>
      if r < n then regs.getD (32 * r + t) 0 else 0))) }

/-- A tag of a take entry: scratchpad, rank and line. -/
def tagOf (v : Dword) : Bool × Nat × Nat := (v.extractLsb' 60 4 == 1, (v.extractLsb' 55 5).toNat, ptrOffset v / 64)

/-- The take entries of a record, their lines translated anew; a record keeps no cache policy (log 30). -/
def State.loadTake (s : State) (i : Nat) (b : List Byte) : List TakeEntry :=
  let gr := s.gridOf i
  let base := 0xA00 + 128 * gr.nregs
  (List.range (min (leAt b 0x3C 4) gr.takeRoom)).filterMap (fun k =>
    let o := base + 80 * k
    let t := tagOf (BitVec.ofNat 64 (leAt b o 8))
    let place := if t.1 then some (s.rankKey i t.2.1 (64 * t.2.2) / 64, false)
      else match s.lookup gr kindLoad (64 * t.2.2) with
        | .ok e => some ((e.base + 64 * t.2.2 % 65536) / 64, pteUC e.attr)
        | .error _ => none
    place.map (fun p => ⟨t.1, t.2.1, t.2.2, p.1, BitVec.ofNat 64 (leAt b (o + 8) 8), BitVec.ofNat 512 (leAt b (o + 16) 64),
      0, p.2, false⟩))

/-- Bytes of a scratchpad half at their keys. -/
def loadBytes (m : Sparse 8) (key : Nat) (bs : List Byte) : Sparse 8 :=
  (m.filter (fun e => e.1 < key)) ++ tableOf key bs ++ m.filter (fun e => key + bs.length ≤ e.1)

/-- Elements of the tiles of a half at their keys. -/
def loadTiles (m : Sparse 32) (key : Nat) (ws : List Word) : Sparse 32 :=
  (m.filter (fun e => e.1 < key)) ++ tableOf key ws ++ m.filter (fun e => key + ws.length ≤ e.1)

/-- The scratchpads, tiles and tokens of a workgroup record. -/
def State.loadWg (s : State) (w : Nat) (b : List Byte) : State :=
  let g := s.grd (s.wgp w).grid
  let halves := if g.twoshot then [0, 1] else [0]
  let tiles := 0x500 + halves.length * g.scratchBytes
  let toks := leAt b 0x18 8
  let s1 : State := { s with
    scratch := halves.foldl (fun m h => loadBytes m (scratchKey w h 0) ((b.drop (0x500 + h * g.scratchBytes)).take g.scratchBytes)) s.scratch
    tiles := halves.foldl (fun m h =>
      loadTiles m (tileKey w h 0) (get32 b (tiles + h * 16384 * g.accs) (4096 * g.accs))) s.tiles }
  s1.modWg w (fun x => { x with
    slot := leAt b 0x14 4
    tokens := (List.range 8).map (fun k =>
      let c := toks / 2 ^ (6 * k) % 64
      if c < 32 then .mxu c else .held (c - 32)) })

/-! ### Sections of an area -/

/-- A section as a restore reads it. -/
structure Section where
  /-- GRIDID. -/
  gridId : Nat
  /-- LSEQ. -/
  lseq : Nat
  /-- The distributor's state. -/
  dist : List Byte
  /-- Launch record. -/
  lrec : List Byte
  /-- Workgroup records. -/
  wgs : List (List Byte)
  /-- Group records. -/
  groups : List (List Byte)
  /-- HOFF and HLEN. -/
  held : Nat × Nat
  deriving DecidableEq, Repr

/-- Pieces of `n` bytes, `k` of them. -/
def cut (n : Nat) : Nat → List Byte → List (List Byte)
  | 0, _ => []
  | k + 1, b => b.take n :: cut n k (b.drop n)

/-- The section at an offset, with NEXT; none when its sizes do not fit its launch record. -/
def sectionAt (b : List Byte) (o : Nat) : Option (Section × Nat) :=
  let h := b.drop o
  let lrec := (h.drop 0x100).take 256
  let g := Grid.ofRecord lrec
  let nwg := leAt h 0x08 4
  let ng := leAt h 0x0C 4
  let size := 512 + nwg * g.wsize + ng * g.gsize
  if h.length < 512 || leAt h 0x10 4 ≠ g.wsize || leAt h 0x14 4 ≠ g.gsize || ng ≠ nwg * g.ngrp || h.length < size then none
  else
    some (⟨leAt h 0 8, leAt h 0x30 8, (h.drop 0x38).take 200, lrec, cut g.wsize nwg (h.drop 512),
      cut g.gsize ng (h.drop (512 + nwg * g.wsize)), (leAt h 0x20 8, leAt h 0x28 8)⟩, leAt h 0x18 8)

/-- The chain of sections. -/
def sectionsFrom (b : List Byte) : Nat → Nat → Option (List Section)
  | 0, o => if o = 0 then some [] else none
  | n + 1, o =>
    match sectionAt b o with
    | none => none
    | some (x, next) => (sectionsFrom b n next).map (fun r => x :: r)

/-- An area with its bytes: FORMAT, TOTAL and CHECK match; its round and its sections. -/
def parseArea (b : List Byte) : Option (Nat × List Section) :=
  let clean := b.take 0x38 ++ List.replicate 8 0 ++ b.drop 0x40
  if b.length < 256 || leAt b 0 4 ≠ 1 || leAt b 4 4 ≠ 0 || leAt b 0x30 8 ≠ b.length || leAt b 0x38 8 ≠ (crc64 clean).toNat then none
  else (sectionsFrom b (leAt b 0x10 4) 256).map (fun r => (leAt b 0x18 8, r))

/-! ### Held landings in an area (R403) -/

/-- A header of a held landing names a copy. -/
def State.namesCopy (s : State) (e : List Byte) (c : Copy) : Bool :=
  let d := Desc.ofBits c.desc
  leAt e 0 16 == (s.wgOf c.group).id && leAt e 0x10 1 == (s.grp c.group).gix && leAt e 0x11 1 == d.queue &&
    leAt e 0x12 1 == c.form && leAt e 0x18 8 == c.round && leAt e 0x20 4 == c.dhandle.toNat &&
    leAt e 0x24 4 == c.chandle.toNat && leAt e 0x28 4 == c.n.toNat

/-- The held landings of an area from an offset on: where each begins, and its copy among `ks`, which stand in order of
issue. -/
def State.heldAt (s : State) (b : List Byte) : Nat → Nat → Nat → List Nat → List (Nat × Nat)
  | 0, _, _, _ => []
  | fuel + 1, o, n, ks =>
    if n < 48 then []
    else
      match ks.find? (fun k => s.copies[k]?.any (s.namesCopy ((b.drop o).take 48))) with
      | none => []
      | some k =>
        let size := s.copies[k]?.elim 48 (fun c => heldBytes (Desc.ofBits c.desc))
        (o, k) :: s.heldAt b fuel (o + size) (n - size) (ks.filter (· != k))

/-- The held landings of a grid's section. -/
def State.heldOf (s : State) (b : List Byte) (gd : Nat) (x : Section) : List (Nat × Nat) :=
  let ks := (List.range s.copies.length).filter (fun k => s.copies[k]?.any (fun c => (s.grp c.group).grid == gd))
  s.heldAt b ks.length x.held.1 x.held.2 ks

/-- Bytes put over others. -/
def putBytes (b : List Byte) (o : Nat) (x : List Byte) : List Byte := b.take o ++ x ++ b.drop (o + x.length)

/-- An entry whose landing has been applied: BYTES = 0, the data zeroed. -/
def State.clearEntry (s : State) (b : List Byte) (e : Nat × Nat) : List Byte :=
  match s.copies[e.2]? with
  | none => b
  | some c =>
    if c.st = 0 then b
    else putBytes (putBytes b (e.1 + 0x14) (leBytes 4 0)) (e.1 + 48) (List.replicate (heldBytes (Desc.ofBits c.desc) - 48) 0)

/-- CHECK of an area is computed anew. -/
def recheck (b : List Byte) : List Byte :=
  putBytes b 0x38 (leBytes 8 (crc64 (putBytes b 0x38 (List.replicate 8 0))).toNat)

/-- A landing returned to its streamer: its data are those of the entry; one whose landing has been applied is done. -/
def State.returnLanding (s : State) (b : List Byte) (e : Nat × Nat) : State :=
  match s.copies[e.2]? with
  | none => s
  | some c =>
    let d := Desc.ofBits c.desc
    if leAt b (e.1 + 0x14) 4 = 0 then { s with copies := s.copies.set e.2 { c with st := 1 } }
    else
      let vs := (List.range d.count).map (fun k => BitVec.ofNat 64 (leAt b (e.1 + 48 + d.es * k) d.es))
      { s with copies := s.copies.set e.2 { c with data := some vs } }

end Sys2Proof.Machine
end

