-- ==== Sys2Proof/Machine/Preempt.lean ====
section
/-!
DEFINITION. Pre-emption (R398 to R402), the dump of an ended context (R395, R396), the completion of a grid with it
(R229), and the stop of a quiesced domain with its shard (R232, R464, R465).
-/
namespace Sys2Proof.Machine

/-! ### PSTAT (R398) -/

/-- PSTAT of a queue. -/
def State.pstat (s : State) (q : Nat) : Dword := s.reg64 (preemptBase q + 0x10)
/-- BUSY. -/
def State.queueCmd (s : State) (q : Nat) : Bool := (s.pstat q).getLsbD 2
/-- PAREA. -/
def State.parea (s : State) (q : Nat) : Dword := s.reg64 (preemptBase q + 8)
/-- Address of an area register. -/
def areaAddr (v : Dword) : Nat := (v.extractLsb' 8 40).toNat * 256
/-- Bytes available at an area. -/
def areaRoom (v : Dword) : Nat := (v.extractLsb' 48 16).toNat * 65536

/-- A command is accepted: DONE clears, BUSY is set. -/
def State.startCmd (s : State) (q : Nat) : State :=
  s.setReg64 (preemptBase q + 0x10) (((s.pstat q) &&& 0x71) ||| 4)

/-- A command ends: RESULT, DONE, and HALTED. -/
def State.endCmd (s : State) (q result : Nat) (halted : Bool) : State :=
  s.setReg64 (preemptBase q + 0x10) (BitVec.ofNat 64 (16 * result + 2 + if halted then 1 else 0))

/-- A PREEMPT record, of the package-wide queue (R411). -/
def State.tapPreempt (s : State) (q what : Nat) : State :=
  let (v, s1) := s.tapFree
  s1.tapFoyer 0x30 (q / 64) (s1.fnTenant (s1.queueFn q)) (BitVec.ofNat 32 (what + 65536 * (q % 2 ^ 14))) (v.extractLsb' 0 32)

/-! ### SAVE (R399, R402) -/

/-- Grids of a list stop where they stand: no group of them issues any more, and one in the middle of a walk stands before
the next thread (R399). -/
def State.freeze (s : State) (gds : List Nat) : State :=
  { s with grids := s.grids.mapIdx (fun k (g : Grid) => if gds.contains k then { g with st := .saved } else g) }

/-- TSAREA of a function. -/
def State.tsarea (s : State) (f : Nat) : Dword := s.reg64 (partBase f + 0x058)

/-- The area at which grids stand saved. -/
def State.setArea (s : State) (gds : List Nat) (f addr : Nat) : State :=
  { s with grids := s.grids.mapIdx (fun k (g : Grid) => if gds.contains k then { g with area := some (f, addr) } else g) }

/-- Grids of a function that its time slice has set aside (R443). -/
def State.slicedGrids (s : State) (f : Nat) : List Nat :=
  (List.range s.grids.length).filter (fun k => (s.grd k).fn == f && (s.grd k).st == .saved && (s.grd k).sliced)

/-- They stand in the function's TSAREA. -/
def State.writeSlice (s : State) (f : Nat) : State :=
  let gds := s.slicedGrids f
  if gds = [] then s
  else ((s.storeArea 0 (areaAddr (s.tsarea f)) (s.areaBytes gds 0)).getD s).setArea gds 0 (areaAddr (s.tsarea f))

/-- Grids of a list pass from the time slice's hands to a SAVE's, or back; the TSAREAs hold the others (R399, R443, R449). -/
def State.setSliced (s : State) (gds : List Nat) (b : Bool) : State :=
  let fs := (gds.map (fun k => (s.grd k).fn)).eraseDups
  fs.foldl (fun s f => s.writeSlice f)
    { s with grids := s.grids.mapIdx (fun k (g : Grid) => if gds.contains k then { g with sliced := b, area := none } else g) }

/-- PCTL_SAVE. A SAVE that finds nothing to save holds what the queue would still start, for no store follows its DONE (R449;
log 120). Contexts that a time slice has set aside are saved as the others are. -/
def execPctlSave (q : Nat) (s : State) : Host.Outcome State Fault Refusal :=
  s.when (q < 16384 && !s.queueCmd q) (fun s =>
    let s1 := s.startCmd q
    let gds := s1.queueGrids q
    let a := s1.parea q
    if gds = [] then ({ s1 with heldQueues := q :: s1.heldQueues.filter (· != q) } : State).endCmd q 1 false
    else if a = 0 || areaRoom a < s1.psize q then s1.endCmd q 4 false
    else
      let s2 := (s1.freeze gds).setSliced (gds.filter (fun k => (s1.grd k).sliced)) false
      { s2.setReg64 (preemptBase q + 0x10) (s2.pstat q ||| 1) with saves := s2.saves ++ [⟨q, a, false⟩] })

/-- Grids of a queue whose contexts are being saved, or are saved. -/
def State.savedGrids (s : State) (q : Nat) : List Nat :=
  (List.range s.grids.length).filter (fun k => (s.grd k).queue == q && (s.grd k).st == .saved && !(s.grd k).sliced)

/-- The head of each MXU queue that belongs to the contexts finishes; what is queued behind it is set aside (R375). -/
def State.parkMxu (s : State) (gds : List Nat) : State :=
  let mine := fun (o : MxuOp) => gds.contains (s.grp o.group).grid
  let heads := ((s.mxu.map (·.core)).filter (· < parkedCore)).eraseDups
  let s1 := heads.foldl (fun s c =>
    match s.mxu.find? (fun o => o.core == c) with
    | some o => if mine o then s.finishMxu c else s
    | none => s) s
  { s1 with mxu := s1.mxu.map (fun (o : MxuOp) => if mine o && o.core < parkedCore then { o with core := o.core + parkedCore } else o) }

/-- Work set aside comes back. -/
def State.unparkMxu (s : State) (gds : List Nat) : State :=
  { s with mxu := s.mxu.map (fun (o : MxuOp) =>
      if gds.contains (s.grp o.group).grid then { o with core := s.homeCore o.group } else o) }

/-- Messages of the contexts on the barrier network arrive. -/
def State.landMessages (s : State) (gds : List Nat) : State :=
  let mine := fun (m : BarMsg) => gds.contains (s.grp m.group).grid
  (s.barNet.filter mine).foldl (fun s m => s.barrierOp m.group m.kind m.handle m.bytes)
    { s with barNet := s.barNet.filter (fun m => !mine m) }

/-- The copies of the contexts: FREE ones are performed and give their credits, ORDERED ones read their sources. -/
def State.finishCopies (s : State) (gds : List Nat) : State :=
  (List.range s.copies.length).foldl (fun s k =>
    match s.copies[k]? with
    | none => s
    | some c =>
      if !gds.contains (s.grp c.group).grid then s
      else if c.st = 5 then s.landSlots k c
      else if c.st = 6 then s.giveCredits k
      else if c.st ≠ 0 then s
      else if (s.gridOf c.group).ordered then s.readSource k
      else if s.copyBlocked k c then s
      else (s.performCopy k c 0).giveCredits k) s

/-- A walk whose load has left the package goes on at the thread after it: that load becomes a replay packet. -/
def Group.captureLoad (g : Group) : Group :=
  match g.hostReq with
  | some r => if r.store || 31 ≤ r.thread then g else { g with walkFrom := some (r.thread + 1) }
  | none => g

/-- What a save waits for is performed: stores and atomics in flight, copies, messages, the running MXU instructions; the
generation tags advance (R399, R400). -/
def State.settleSave (s : State) (gds : List Nat) : State :=
  let gs := s.groupIds.filter (fun i => gds.contains (s.grp i).grid)
  let s1 := gs.foldl (fun s i => s.drain i Flight.writes) s
  let s2 := ((s1.finishCopies gds).landMessages gds).parkMxu gds
  { s2 with groups := s2.groups.map (fun g =>
      if gds.contains g.grid then { g.captureLoad with gen := g.gen + 1 } else g) }

/-- A copy of the contexts still waits for a fault reply, or for an earlier one. -/
def State.copiesOpen (s : State) (gds : List Nat) : Bool :=
  s.copies.any (fun c => gds.contains (s.grp c.group).grid &&
    (4 ≤ c.st || (c.st == 0 && (!(s.gridOf c.group).ordered || c.data.isNone))))

/-- The writes that a save waits for may all be performed (R133), and no store to the host or a peer is unanswered. -/
def State.saveOpen (s : State) (gds : List Nat) : Bool :=
  s.groupIds.all (fun i => !gds.contains (s.grp i).grid ||
    (s.flightsOk i && (s.grp i).hostReq.all (fun r => !r.store))) &&
  s.copies.all (fun c => !gds.contains (s.grp c.group).grid || (s.gridOf c.group).ordered || c.st != 0 ||
    s.linesOk noDomain (s.copyLines c))

/-- Errors that copies of the contexts have met in their sources (R406). -/
def State.errorsMet (s : State) (gds : List Nat) : Nat :=
  ((s.groups.filter (fun g => gds.contains g.grid)).map (fun g => (g.pend.filter (fun t => t.code == codeEcc)).length)).sum

/-- An uncorrectable error lies in the scratchpads that a save reads: those of resident workgroups (R402, R403). -/
def State.saveError (s : State) (gds : List Nat) : Bool :=
  s.poison.any (fun e => poisonScratch e && gds.contains (s.wgp (8 * e.2 / 2 ^ 20)).grid && !(s.wgp (8 * e.2 / 2 ^ 20)).retired)

/-- Ends the contexts of grids with a status: every group halts, and the grids complete with it. -/
def State.endGrids (s : State) (gds : List Nat) (status : Nat) (detail : Dword) : State :=
  let roots := (gds.map (fun k => (s.grd k).root)).eraseDups
  let s1 := roots.foldl (fun s r => s.haltContext r) s
  { s1 with
    grids := s1.grids.map (fun (g : Grid) =>
      if roots.contains g.root && g.st != .done then
        { g with st := .running, status := some (status, detail), contribs := [], ending := [], quiesce := g.quiesce }
      else g)
    groups := s1.groups.map (fun (g : Group) =>
      if roots.contains (s.grd g.grid).root then { g with flight := [], take := [], ops := [] } else g)
    mxu := s1.mxu.filter (fun o => !gds.contains (s.grp o.group).grid) }

/-- Saved grids go on, or stand stopped when a QUIESCE had stopped them. -/
def State.thaw (s : State) (gds : List Nat) : State :=
  let held := fun (g : Grid) => (s.grd g.root).quiesce.any (fun q => !s.quiesceOpen q)
  { s with grids := s.grids.mapIdx (fun k (g : Grid) =>
      if gds.contains k then { g with st := if held g then .stopped else .running, sliced := false, area := none } else g) }

/-- The SAVE that names the queue. -/
def State.saveJob (s : State) (q : Nat) : Option SaveJob := s.saves.find? (fun j => j.queue == q)

/-- Contexts whose SAVE has failed go on; those of a function whose slice it is not wait for it (R443). -/
def State.keepOn (s : State) (gds : List Nat) : State :=
  let here := gds.filter (fun k => s.holdsSlice (s.grd k).fn)
  ((s.unparkMxu here).thaw here).setSliced (gds.filter (fun k => !s.holdsSlice (s.grd k).fn)) true

/-- The bytes of a save reach the area; the command ends. -/
def State.finishSave (s : State) (q : Nat) (j : SaveJob) (bad : Bool) : State :=
  let gds := s.savedGrids q
  let s1 : State := { s with saves := s.saves.filter (fun k => k.queue != q) }
  if bad || j.bad || s.saveError gds then
    let roots := (gds.map (fun k => (s.grd k).root)).eraseDups
    (roots.foldl (fun s r => s.modGrid r (fun g => { g with mcheck := true })) (s1.endGrids gds 6 0)).endCmd q 5 false
  else
    match s1.storeArea (s1.queueFn q) (areaAddr j.area) (s1.areaBytes gds 0) with
    | some s2 => ((s2.setArea gds (s2.queueFn q) (areaAddr j.area)).endCmd q 0 true).tapPreempt q 1
    | none => (s1.keepOn gds).endCmd q 2 false

/-- SAVE_DONE. -/
def execSaveDone (q : Nat) (s : State) : Host.Outcome State Fault Refusal :=
  .next (match s.saveJob q with
    | none => s
    | some j =>
      let gds := s.savedGrids q
      if !s.saveOpen gds then s
      else
        let s1 := s.finishCopies gds
        let bad := s.errorsMet gds < s1.errorsMet gds
        if s1.copiesOpen gds then (if bad then s1.spoilSave q else s1)
        else
          let s2 := s1.settleSave gds
          s2.finishSave q j (bad || s.errorsMet gds < s2.errorsMet gds))

/-! ### Rounds applied while a context is saved (R399, R403) -/

/-- The grid of a function that a section names, among candidates. -/
def State.sectionGrid (s : State) (gds : List Nat) (x : Section) : Option Nat :=
  gds.find? (fun k =>
    let g := s.grd k
    (s.grd g.root).seq == x.lseq && (if x.gridId = 0 then g.parent.isNone else g.parent.isSome && g.seq == x.gridId))

/-- The bytes of an area, as far as its header says. -/
def State.areaOf (s : State) (f addr : Nat) : Option (List Byte) :=
  (s.readArea f addr 256).bind (fun h => s.readArea f addr (leAt h 0x30 8))

/-- Sections from an offset on with what their grids hold now: the distributor's state, and the records of workgroups and
groups, each in its place. -/
def State.renewSections (s : State) (gds : List Nat) : Nat → Nat → List Byte → List Byte
  | 0, _, b => b
  | n + 1, o, b =>
    match sectionAt b o with
    | none => b
    | some (x, next) =>
      let b1 := match s.sectionGrid gds x with
        | none => b
        | some k => putBytes (putBytes b (o + 0x38) (s.distState k)) (o + 512)
            ((s.residentWgs k).flatMap s.wgRecord ++ (s.sectionGroups k).flatMap s.groupRecord)
      if next = 0 then b1 else s.renewSections gds n next b1

/-- The area of a saved domain, of which a round has been applied: ROUND and the records hold its effects, for RESTORE puts
them back, and the held landings that have been applied are marked. -/
def State.remarkArea (s : State) (dom : Nat) : State :=
  match (s.grd dom).area with
  | none => s
  | some (f, addr) =>
    match s.areaOf f addr with
    | none => s
    | some b =>
      match parseArea b with
      | none => s
      | some (_, xs) =>
        let gds := (List.range s.grids.length).filter (fun k => (s.grd k).area == some (f, addr))
        let es := xs.flatMap (fun x => (s.sectionGrid gds x).elim [] (fun gd => s.heldOf b gd x))
        let b1 := recheck (putBytes (es.foldl s.clearEntry (s.renewSections gds xs.length 256 b)) 0 (s.areaHead gds 0))
        if b1 = b then s else (s.storeArea f addr b1).getD s

/-- ROUND_APPLY: a round of a saved domain is applied as any other, and its area shows it. -/
def execRoundApply (dom : Nat) (s : State) : Host.Outcome State Fault Refusal :=
  s.when (s.roundDue dom) (fun s => (s.applyRound dom).remarkArea dom)

/-! ### RESTORE and DISCARD (R401, R343, R465) -/

/-- A workgroup of a grid by its identifier, among the resident ones. -/
def State.residentId (s : State) (gd id : Nat) : Option Nat := (s.residentWgs gd).find? (fun w => (s.wgp w).id == id)

/-- A group of a workgroup. -/
def State.groupOf (s : State) (w gix : Nat) : Option Nat :=
  s.groupIds.find? (fun i => (s.grp i).wg == w && (s.grp i).gix == gix)

/-- Puts a group record into its group. -/
def State.loadGroup (s : State) (gd : Nat) (b : List Byte) : State :=
  match s.residentId gd (leAt b 0 12) with
  | none => s
  | some w =>
    match s.groupOf w (leAt b 0x10 1) with
    | none => s
    | some i =>
      let s1 := s.modGrp i (fun g => g.load (s.grd gd).nregs b)
      s1.modGrp i (fun g => { g with take := s1.loadTake i b })

/-- Puts a section into a grid that the package holds as saved. -/
def State.loadSection (s : State) (gd : Nat) (x : Section) : State :=
  let s1 := x.wgs.foldl (fun s b =>
    match s.residentId gd (leAt b 0 12) with
    | some w => s.loadWg w b
    | none => s) s
  x.groups.foldl (fun s b => s.loadGroup gd b) s1

/-! #### The resources of a restored context (R195, R199, R401, R436; log 54) -/

/-- The number of no core: what stands there holds nothing. -/
def nowhere : Nat := 1152

/-- A core for group `i`, with a free slot: the lane and slot that it had, when they are free there. -/
def State.seat (s : State) (i core : Nat) : Option State :=
  let g := s.grp i
  let free := s.freeSlots core (s.gridOf i).nregs
  (if free.contains (g.lane, g.gslot) then some (g.lane, g.gslot) else free.head?).map (fun p =>
    s.modGrp i (fun g => { g with core := core, lane := p.1, gslot := p.2 }))

/-- Groups of grids whose workgroups have not retired. -/
def State.seated (s : State) (gds : List Nat) : List Nat :=
  s.groupIds.filter (fun i => gds.contains (s.grp i).grid && !(s.wgOf i).retired)

/-- Groups leave their cores. -/
def State.unseat (s : State) (gds : List Nat) : State :=
  { s with groups := s.groups.map (fun (g : Group) => if gds.contains g.grid then { g with core := nowhere } else g) }

/-- The contexts stand where they stood: their functions own the clusters, and the cores have room. -/
def State.sameCores (s : State) (gds : List Nat) : Option State :=
  let is := s.seated gds
  let ws := (List.range s.wgs.length).filter (fun w => gds.contains (s.wgp w).grid && s.teamHeld w)
  let s1 := is.foldl (fun (a : Option State) i => a.bind (fun t => t.seat i (s.grp i).core)) (some (s.unseat gds))
  let homes := ws.flatMap (fun w =>
    let x := s.wgp w
    (if (s.grd x.grid).twoshot then [x.core, x.core + 1] else [x.core]).map (fun c => (x.grid, c)))
  let cores := (is.map (fun i => ((s.grp i).grid, (s.grp i).core)) ++ homes).eraseDups
  s1.bind (fun t =>
    if cores.all (fun c => t.ownsCluster (t.grd c.1).fn (clusterOf c.2) && t.coreHolds c.2) then some t else none)

/-- The core of a member of a team, of `cores`, none of `used`: that of its logical core, when one of its workgroups has
its place already (R225). -/
def State.memberCore (s : State) (gd w : Nat) (cores used : List Nat) : Option Nat :=
  let g := s.grd gd
  let x := s.wgp w
  let fits := fun (c : Nat) => !used.contains c &&
    (if x.retired then (!g.twoshot || (c % 2 == 0 && s.padFits gd (c + 1))) && s.padFits gd c else s.memberFits gd c)
  let homes := (s.residents gd (x.id % g.lcores)).map (fun y => (s.wgp y).core)
  match homes.find? (· != nowhere) with
  | some c => (cores.find? (· == c)).filter fits
  | none => cores.find? fits

/-- Cores of one cluster for a team. -/
def State.clusterCores (s : State) (gd first cluster : Nat) : Option (List Nat) :=
  let cores := (List.range 24).map (fun k => 24 * cluster + k)
  (List.range (s.grd gd).team).foldl (fun (a : Option (List Nat)) k =>
    a.bind (fun cs => (s.memberCore gd (first + k) cores cs).map (fun c => cs ++ [c]))) (some [])

/-- A workgroup takes a core, and its groups take slots there. -/
def State.placeWg (s : State) (w core : Nat) : Option State :=
  let s1 := s.modWg w (fun x => { x with core := core })
  if (s.wgp w).retired then some s1
  else (s1.wgGroups w).foldl (fun (a : Option State) i =>
    a.bind (fun t => t.seat i (core + if t.follower i then 1 else 0))) (some s1)

/-- A team takes cores of the first cluster that has them. -/
def State.placeTeam (s : State) (gd first : Nat) : Option State :=
  let g := s.grd gd
  let t := (s.wgp first).id / g.team
  ((List.range 48).filter (fun k => (g.diesOf t).contains (k / 6) && s.ownsCluster g.fn k)).findSome? (fun k =>
    (s.clusterCores gd first k).bind (fun cs =>
      ((List.range cs.length).zip cs).foldl (fun (a : Option State) e => a.bind (fun s => s.placeWg (first + e.1) e.2)) (some s)))

/-- Every team of some grids takes cores anew. -/
def State.newCores (s : State) (gds : List Nat) : Option State :=
  let s1 : State := { s.unseat gds with
    wgs := s.wgs.map (fun (x : Workgroup) => if gds.contains x.grid then { x with core := nowhere } else x) }
  let firsts := (List.range s.wgs.length).filter (fun w => gds.contains (s.wgp w).grid && (s.wgp w).team == w && s.teamHeld w)
  firsts.foldl (fun (a : Option State) w => a.bind (fun t => t.placeTeam (t.wgp w).grid w)) (some s1)

/-- Restored grids take their resources: where they stood, or where there is room. -/
def State.takeBack (s : State) (gds : List Nat) : Option State :=
  match s.sameCores gds with
  | some t => some t
  | none => s.newCores gds

/-! #### Loads sent again (R400) -/

/-- One replay packet of group `i`: a load of the host or a peer goes out at once; any other one is sent again before the
group issues, by the cache policy and with the extension that it had (R400, R457; log 109). -/
def State.replayLoad (s : State) (i : Nat) (was : List Flight) (ptr info : Dword) : State :=
  let g := s.grp i
  let t := (info.extractLsb' 0 5).toNat
  let reg := (info.extractLsb' 5 7).toNat
  let uni := info.getLsbD 12
  let size := 2 ^ (info.extractLsb' 13 3).toNat
  let old := was.find? (fun f => f.kind == 0 && f.thread == t && f.uni == uni && f.reg == reg)
  let sx := old.elim (g.hostReq.any (·.sx)) (·.sx)
  if ptrSpace ptr = 4 then
    (s.askPeer i ptr []).modGrp i (fun g => { g with hostReq := some ⟨ptr, size, false, t, uni, reg, sx, 0, g.gen⟩ })
  else
    let f : Flight :=
      { gen := g.gen - 1, kind := 0, thread := t, uni := uni, reg := reg, lo := 0, n := size, size := size, sx := sx,
        scratch := ptrSpace ptr == 1, addr := 0, ptr := ptr, colour := 0,
        via := s.viaOf i (old.elim 0 (·.via.policy)) false false, data := 0, atom := none, res := false }
    s.modGrp i (fun g => { g with flight := g.flight ++ [f] })

/-- The replay packets of a group's record, in saved order. -/
def State.replayAll (s0 : State) (i : Nat) (b : List Byte) : State :=
  let gr := s0.gridOf i
  let base := 0xA00 + 128 * gr.nregs + 80 * gr.takeRoom
  (List.range (min 512 (leAt b 0x38 4))).foldl (fun s k =>
    s.replayLoad i (s0.grp i).flight (BitVec.ofNat 64 (leAt b (base + 16 * k) 8)) (BitVec.ofNat 64 (leAt b (base + 16 * k + 8) 8)))
    (s0.modGrp i (fun g => { g with flight := [] }))

/-- The group of a group record. -/
def State.recordGroup (s : State) (gd : Nat) (b : List Byte) : Option Nat :=
  (s.residentId gd (leAt b 0 12)).bind (fun w => s.groupOf w (leAt b 0x10 1))

/-- A restored group takes up its loads and its monitors; in FREE mode it leaves no older copy of a line between it and its
own earlier stores (R154, R343; log 54). -/
def State.wakeUp (s : State) (gd : Nat) (b : List Byte) : State :=
  match s.recordGroup gd b with
  | none => s
  | some i =>
    if (s.grp i).st = .retired then s
    else if (s.gridOf i).ordered then s.replayAll i b
    else (((s.acquire i 2).replayAll i b).retakeMonitors i).modGrp i Group.wakeFired

/-- Restored grids run: MXU work returns, landings go back to their streamers, loads are sent again, and replies to faults
take effect (R211, R343, R375, R400, R403). -/
def State.goOn (s : State) (gds : List Nat) (b : List Byte) (xs : List Section) : State :=
  let s1 := xs.foldl (fun s x =>
    match s.sectionGrid gds x with
    | some k => x.groups.foldl (fun s r => s.wakeUp k r) ((s.heldOf b k x).foldl (fun s e => s.returnLanding b e) s)
    | none => s) (s.unparkMxu gds)
  s1.heldReplies gds

/-- Saved grids take their sections and their resources, and go on; none while there is no room for them, or while the time
slice of their function has not come (R401, R443). -/
def State.resume (s : State) (gds : List Nat) (b : List Byte) (xs : List Section) : Option State :=
  if !gds.all (fun k => s.holdsSlice (s.grd k).fn) then none
  else
  let s1 := xs.foldl (fun s x =>
    match s.sectionGrid gds x with
    | some k => s.loadSection k x
    | none => s) s
  ((s1.thaw gds).takeBack gds).map (fun t => t.goOn gds b xs)

/-- The sections are those of the saved grids, each once. -/
def State.sectionsFit (s : State) (gds : List Nat) (xs : List Section) : Bool :=
  xs.length == gds.length && (xs.filterMap (s.sectionGrid gds)).eraseDups.length == gds.length &&
    xs.all (fun x => match s.sectionGrid gds x with
      | some k => x.lrec == (s.grd k).lrec && x.wgs.all (fun b => (s.residentId k (leAt b 0 12)).isSome)
      | none => false)

/-- The sleep of a group of a shard: the instruction in front of its PC (R464). -/
def State.sleepAt (s : State) (i : Nat) : Option Sleep :=
  let g := s.grp i
  let p := g.sel - 4
  match s.lookup (s.gridOf i) kindFetch p with
  | .error _ => none
  | .ok e =>
    let w := BitVec.ofNat 32 (readBytes (s.gridOf i).code (e.base + p % 65536) 4)
    let k := match decodeWord w with
      | .ok (.mwait d _) => some (SleepKind.mwait d.toNat)
      | .ok (.cede _) => some .cede
      | .ok (.bwait a b c _) => some (.bwait c.toNat (g.rg a.toNat) ((g.rg b.toNat).getLsbD 0))
      | .ok (.awaitf a b c _) => some (.awaitf c.toNat (g.rg a.toNat) (g.rg b.toNat) false)
      | .ok (.awaitfEmpty a b c _) => some (.awaitf c.toNat (g.rg a.toNat) (g.rg b.toNat) true)
      | _ => none
    k.map (fun k => ⟨k, p, maskOf (g.eligible.filter (fun t => g.pcOf t == g.sel))⟩)

/-- The armed set of a record, its lines translated anew. -/
def State.armedOf (s : State) (i : Nat) (b : List Byte) : List ArmedLine :=
  let v := leAt b 0x70 8
  (List.range (v / 16 % 16)).filterMap (fun k =>
    let t := tagOf (BitVec.ofNat 64 (leAt b (0x50 + 8 * k) 8))
    let place := if t.1 then some (s.rankKey i t.2.1 (64 * t.2.2) / 64)
      else match s.lookup (s.gridOf i) kindLoad (64 * t.2.2) with
        | .ok e => some ((e.base + 64 * t.2.2 % 65536) / 64)
        | .error _ => none
    place.map (fun p => ⟨t.1, t.2.1, t.2.2, p, natBit v k, false⟩))

/-- A group of a shard, made from its record (log 30). -/
def State.shardGroup (s : State) (gd : Nat) (b : List Byte) : State :=
  match s.residentId gd (leAt b 0 12) with
  | none => s
  | some w =>
    let gr := s.grd gd
    let gix := leAt b 0x10 1
    let i := s.groups.length
    let st := leAt b 0x11 1
    let low := st % 8
    let g0 : Group := { Group.blank with grid := gd, wg := w, gix := gix, core := nowhere }
    let g1 := g0.load gr.nregs b
    let v := leAt b 0xB4 4
    let g2 := { g1 with
      sel := g1.pcOf (if natBit v 13 then v / 32 % 32 else g1.lowestAlive)
      savedSel := (g1.savedPc.get g1.rix.toNat).toNat
      walkFrom := if natBit v 10 then some (leAt b 0x14 1 % 32) else none
      walk := if g1.priv = 1 then ⟨0, 0, natBit v 11, natBit v 12⟩
        else ⟨BitVec.ofNat 32 (leAt b 0x890 4), BitVec.ofNat 32 (leAt b 0x894 4), natBit v 11, natBit v 12⟩
      st := if low = 6 then .retired else if low = 3 then .handler else if low = 1 then .sleeping else .running
      pend := if 128 ≤ st then [trapOf (BitVec.ofNat 128 (leAt b 0x40 16))] else []
      wake := if leAt b 0x20 8 = 0 then none else some (leAt b 0x20 8)
      monRound := leAt b 0x70 8 / 256 }
    let s1 : State := { s with groups := s.groups ++ [g2] }
    let s2 := s1.modGrp i (fun g => { g with take := s1.loadTake i b, armed := s1.armedOf i b })
    if low ≠ 1 then s2
    else
      match s2.sleepAt i with
      | some k => s2.modGrp i (fun g => { g with sleep := some k })
      | none => s2.modGrp i (fun g => { g with st := g.resumed })

/-- The cancelled copies of a workgroup record, by what it holds of them (R384, R405). -/
def State.listCancelled (s : State) (w : Nat) (b : List Byte) : State :=
  let n := min 64 (leAt b 0x24 4)
  let at_ := fun (k o : Nat) => leAt b (0x80 + 16 * k + o) 4
  let copies := (List.range n).map (fun k =>
    ({ group := s.groups.length, wg := w, form := at_ k 12 / 16 % 8, desc := BitVec.ofNat 512 (at_ k 12 % 4 * 2 ^ 212),
       dhandle := BitVec.ofNat 32 (at_ k 0), chandle := BitVec.ofNat 32 (at_ k 4), n := BitVec.ofNat 32 (at_ k 8),
       round := 0, thread := 0, data := some [], dest := [], uncached := [], st := 2, credits := [], due := none } : Copy))
  { s with copies := s.copies ++ copies }.modWg w (fun x =>
    { x with cancelled := (List.range n).map (fun k => s.copies.length + k) })

/-- Member `k` of a team of a shard, whose members stand one after the other (R26): from its record, or retired. -/
def State.shardWg (s : State) (gd applied k id : Nat) (b : Option (List Byte)) : State :=
  let w := s.wgs.length
  let wg : Workgroup :=
    { grid := gd, id := id, slot := id / (s.grd gd).lcores % (s.grd gd).slots, team := w - k, core := nowhere, tokens := [],
      retired := b.isNone, lastLc := 64 * applied, cancelled := [], qfences := [] }
  let s1 : State := { s with wgs := s.wgs ++ [wg] }
  match b with
  | some r => (s1.loadWg w r).listCancelled w r
  | none => s1

/-- A team of a shard with a resident workgroup. -/
def State.shardTeam (s : State) (gd applied t : Nat) (bs : List (List Byte)) : State :=
  let n := (s.grd gd).team
  (List.range n).foldl (fun s k =>
    s.shardWg gd applied k (t * n + k) (bs.find? (fun b => leAt b 0 12 == t * n + k))) s

/-- Workgroups of a shard's grid that have retired with their teams: those below the next team, and those of the
distributor's state. -/
def State.shardRetired (s : State) (gd applied : Nat) (x : Section) : State :=
  let g := s.grd gd
  let started := leAt x.dist 160 40
  let d := g.slots * g.lcores
  let ids := (List.range (d + 320 * g.team)).filterMap (fun k =>
    let id := g.nextTeam * g.team + k - d
    let t := id / g.team
    if g.nextTeam * g.team + k < d || g.nwg ≤ id || (s.findWg gd id).isSome then none
    else if t < g.nextTeam || natBit started (t - g.nextTeam) then some id
    else none)
  ids.foldl (fun s id => s.shardWg gd applied (id % g.team) id none) s

/-- The key of a shard's grid. -/
def shardKey (dist : List Byte) : List Nat :=
  (List.range (min 16 (leAt dist 20 4))).map (fun k =>
    leAt dist (64 + 12 * (k / 2) + if k % 2 = 0 then 0 else 8) (if k % 2 = 0 then 8 else 4))

/-- A grid of a shard on queue `q`. -/
def State.shardGrid (s : State) (q applied root : Nat) (x : Section) : State :=
  let a := s.queueGrid q
  let d := x.dist
  let gd := s.grids.length
  let parent := if x.gridId = 0 then none else
    (List.range s.grids.length).find? (fun k => (s.grd k).root == root && root ≤ k &&
      (if leAt d 24 8 = x.lseq && (s.grd k).parent.isNone then true else (s.grd k).seq == leAt d 24 8))
  let g : Grid := { Grid.ofRecord x.lrec with
    fn := a.fn, queue := q, seq := if x.gridId = 0 then x.lseq else x.gridId, image := (d.drop 32).take 32,
    dies := s.usableDies a.fn 0, pin := natBit (leAt d 18 1) 0, parent := if x.gridId = 0 then none else some (parent.getD root),
    key := shardKey d, root := if x.gridId = 0 then gd else root, depth := leAt d 17 1, table := a.table, asid := a.asid,
    tenant := a.tenant, sup := q == 0, code := s.mem, birth := leAt d 8 8, nextTeam := leAt d 0 8,
    st := if natBit (leAt d 16 1) 0 then .stopped else .running, ext := natBit (leAt d 19 1) 0,
    fx := BitVec.ofNat 7 (leAt d 16 1 / 2), crecLost := natBit (leAt d 18 1) 1, mcheck := natBit (leAt d 18 1) 2,
    applied := if x.gridId = 0 then applied else 0, closed := if x.gridId = 0 then applied else 0 }
  let s1 : State := { s with grids := s.grids ++ [g] }
  let s2 := ((x.wgs.map (fun b => leAt b 0 12 / g.team)).eraseDups).foldl (fun s t => s.shardTeam gd applied t x.wgs) s1
  let s3 := s2.shardRetired gd applied x
  x.groups.foldl (fun s b => s.shardGroup gd b) s3

/-- A queued MXU instruction of a record, reissued for group `i` without further checks: its operands are read again, from the
scratchpads that the record holds (R375, R405). -/
def State.reissued (s : State) (i : Nat) (word ha hb : Word) : Option MxuOp :=
  let gr := s.gridOf i
  let op : MxuOp := ⟨s.homeCore i, i, 0, 0, false, 0, 0, ha, hb, [], [], (s.grp i).clr, word⟩
  let mma := fun (halves c sa sb : Nat) (z : Bool) =>
    let va := gr.fmt sa
    let vb := gr.fmt sb
    let k := mmaK (slotType va) (slotType vb)
    let ra := operandRange va k 1 ha
    let rb := operandRange vb k halves hb
    { op with
      kind := halves - 1, tile := c, zero := z, sa := sa, sb := sb, a := s.handleBytes i ra.start ra.size,
      b := (List.range halves).map (fun h => ((s.handleBytes i rb.start rb.size).drop (operandBytes vb k * h)).take (operandBytes vb k)) }
  match decodeWord word with
  | .ok (.mma c sa sb _ _ z) => some (mma 1 c.toNat sa.toNat sb.toNat (z == 1))
  | .ok (.mma2 c sa sb _ _ z) => some (mma 2 c.toNat sa.toNat sb.toNat (z == 1))
  | .ok (.lda c sl _) => some { op with
      kind := 2, tile := c.toNat, sa := sl.toNat, a := s.handleBytes i ha (16384 * if gr.twoshot then 2 else 1) }
  | .ok (.sta c sl _) => some { op with kind := 3, tile := c.toNat, sa := sl.toNat }
  | .ok (.drain c so sacc _) => some { op with kind := 4, tile := c.toNat, sa := so.toNat, sb := sacc.toNat }
  | .ok (.zacc c) => some { op with kind := 5, tile := c.toNat }
  | _ => none

/-- The queued MXU instructions of a workgroup record. -/
def State.reissueAll (s : State) (gd : Nat) (b : List Byte) : State :=
  match s.residentId gd (leAt b 0 12) with
  | none => s
  | some w =>
    let f := fun (s : State) (k : Nat) =>
      let o := 0x30 + 16 * k
      match (s.groupOf w (leAt b (o + 12) 4)).bind (fun i =>
          s.reissued i (BitVec.ofNat 32 (leAt b o 4)) (BitVec.ofNat 32 (leAt b (o + 4) 4)) (BitVec.ofNat 32 (leAt b (o + 8) 4))) with
      | some x => { s with mxu := s.mxu ++ [x] }
      | none => s
    (List.range (min 4 (leAt b 0x20 4))).foldl f s

/-- The ordering domains of a shard would be more than the package holds (R104). -/
def State.domainsFull (s : State) (xs : List Section) : Bool :=
  256 < s.residentDomains + (xs.filter (fun x => x.gridId == 0 && (Grid.ofRecord x.lrec).ordered)).length

/-- The contexts of a shard on a queue that holds none; none while there is no room for them (R104, R195), or while the time
slice of their function has not come (R443). -/
def State.shard (s : State) (q round : Nat) (b : List Byte) (xs : List Section) : Option State :=
  if !s.holdsSlice (s.queueFn q) || s.domainsFull xs then none
  else
  let applied := (round + 1) % 2 ^ 64
  let n := s.grids.length
  let s1 := (xs.foldl (fun (e : State × Nat) x =>
    let root := if x.gridId = 0 then e.1.grids.length else e.2
    (e.1.shardGrid q applied root x, root)) (s, n)).1
  let gds := (List.range (s1.grids.length - n)).map (fun k => n + k)
  (s1.newCores gds).map (fun t =>
    (xs.foldl (fun s x => (s.sectionGrid gds x).elim s (fun k => x.wgs.foldl (fun s r => s.reissueAll k r) s)) t).goOn gds b xs)

/-- The area at PAREA, when it can be read and its FORMAT, sizes and CHECK match: its bytes, round and sections. -/
def State.areaAt (s : State) (q : Nat) : Option (List Byte × Nat × List Section) :=
  let a := s.parea q
  if a = 0 then none
  else
    match s.areaOf (s.queueFn q) (areaAddr a) with
    | none => none
    | some b => if areaRoom a < b.length then none else (parseArea b).map (fun r => (b, r))

/-- The CHECK of an area. -/
def areaCheck (b : List Byte) : Dword := BitVec.ofNat 64 (leAt b 0x38 8)

/-- The contexts that the area of a queue holds are saved in it no longer: they have been resumed, or discarded (R401; log
74). -/
def State.spend (s : State) (q : Nat) (b : List Byte) : State := { s with spent := s.spent ++ [(q, areaCheck b)] }

/-- The areas of grids that are discarded. -/
def State.spendAll (s : State) (q : Nat) (gds : List Nat) : State :=
  ((gds.filterMap (fun k => (s.grd k).area)).eraseDups.filterMap (fun a => s.areaOf a.1 a.2)).foldl (fun s b => s.spend q b) s

/-- A RESTORE ends, or waits for resources. -/
def State.endRestore (s : State) (q : Nat) (t : Option State) : State :=
  match t with
  | some t => ({ t with restores := t.restores.filter (· != q) } : State).endCmd q 0 false |>.tapPreempt q 2
  | none => if s.restores.contains q then s else { s with restores := s.restores ++ [q] }

/-- A RESTORE that changes nothing ends with a result. -/
def State.failRestore (s : State) (q result : Nat) (halted : Bool) : State :=
  ({ s with restores := s.restores.filter (· != q) } : State).endCmd q result halted

/-- RESTORE. -/
def State.restoreQueue (s : State) (q : Nat) : State :=
  let gds := s.savedGrids q
  match decide (gds ≠ []), s.areaAt q with
  | true, some (b, _, xs) =>
    if s.sectionsFit gds xs then s.endRestore q ((s.resume gds b xs).map (fun t => t.spend q b)) else s.failRestore q 2 true
  | true, none => s.failRestore q 2 true
  | false, some (b, round, xs) =>
    if s.queueGrids q = [] && !s.spent.contains (q, areaCheck b) then s.endRestore q (s.shard q round b xs)
    else s.failRestore q 1 false
  | false, none => s.failRestore q 1 false

/-- PCTL_RESTORE: the command is accepted and tried; while its contexts find no room on the cores it is tried again
(R401; log 54). -/
def execPctlRestore (q : Nat) (s : State) : Host.Outcome State Fault Refusal :=
  .next (
    if 16384 ≤ q then s
    else if s.restores.contains q then s.restoreQueue q
    else if s.queueCmd q then s
    else ((s.letGo q).startCmd q).restoreQueue q)

/-- PCTL_DISCARD. -/
def execPctlDiscard (q : Nat) (s : State) : Host.Outcome State Fault Refusal :=
  s.when (q < 16384 && !s.queueCmd q) (fun s =>
    let s1 := (s.letGo q).startCmd q
    let gds := s1.savedGrids q
    if gds ≠ [] then ((s1.spendAll q gds).endGrids gds 9 0).endCmd q 0 false else s1.endCmd q 1 false)

/-! ### Dumps and the completion of grids (R229, R395, R396) -/

/-- The grids of a context that are not done. -/
def State.contextGrids (s : State) (root : Nat) : List Nat :=
  (List.range s.grids.length).filter (fun k => (s.grd k).root == root && (s.grd k).st != .done)

/-- A context that a trap has ended is written at PAREA once, when it fits. -/
def State.dump (s : State) (root : Nat) : State :=
  match (s.grd root).ending with
  | [] => s
  | e :: _ =>
    let q := (s.grd root).queue
    let gds := s.contextGrids root
    let a := s.parea q
    let s1 := if a = 0 || areaRoom a < s.areaSize gds then s
      else (s.storeArea (s.queueFn q) (areaAddr a) (s.areaBytes gds (if e.double then 2 else 1))).getD s
    s1.modGrid root (fun g => { g with ending := [] })

/-- The grid is done: the dump of its context, its records, and what follows them, each step after the one before. -/
def State.completeGrid (s : State) (gd : Nat) : State :=
  let s0 := if (s.grd gd).status.isSome then s.dump (s.grd gd).root else s
  let s1 := s0.recordToCrec gd
  let s2 := if (s.grd gd).parent.isSome then s1 else (s1.launchDone gd).quiesceMissed gd
  s2.modGrid gd (fun g => { g with st := .done, code := [] })

/-- GRID_COMPLETE. -/
def execGridComplete (gd : Nat) (s : State) : Host.Outcome State Fault Refusal :=
  s.when (s.drained gd && s.completionOpen gd) (fun s => s.completeGrid gd)

/-! ### The stop of a domain (R232, R464) -/

/-- A shard: its header and the save area of its domain. The job's package count and rank stand in no register: they are
free values (log 31). -/
def State.shardBytes (s : State) (d : Nat) (e : Nat) : List Byte × State :=
  let (v, s1) := s.free
  let g := s.grd d
  let ranks := (List.range 32).map (fun w =>
    if (s.winCtl w).getLsbD 0 && (s.winCtl w).extractLsb' 8 6 = g.tenant then s.reg64 (windowBase w + 24) else 0)
  (layout 512 [
    (0x00, leBytes 4 1 ++ leBytes 4 (v.extractLsb' 0 32).toNat ++ leBytes 4 (v.extractLsb' 32 32).toNat),
    (0x10, leBytes 8 e ++ g.signature g.ext ++ words64 ranks)] ++ s.areaBytes (s.contextGrids d) 0, s1)

/-- Stops a domain and completes its QUIESCE; OP 2 writes the shard first. -/
def State.stopDomain (s : State) (d e ix : Nat) : State :=
  let s1 := s.moveGrids d .running .stopped
  match s1.packets[ix]? with
  | none => s1
  | some p =>
    let s2 := if (p.word 3).toNat % 4 = 2 then
        let (b, s2) := s1.shardBytes d e
        (s2.storeArea (s2.queueFn p.queue) (p.word 4).toNat b).getD s2
      else s1
    s2.completePacket ix 7 (BitVec.ofNat 64 e)

/-- DOMAIN_QUIESCED. -/
def execDomainQuiesced (dom : Nat) (s : State) : Host.Outcome State Fault Refusal :=
  s.when (s.quiesced dom) (fun s =>
    match s.quiescing dom with
    | some (e, ix) => s.stopDomain dom e ix
    | none => s)

end Sys2Proof.Machine
end

