-- ==== Sys2Proof/Machine/Partition.lean ====
section
/-!
DEFINITION. Partitions (R435 to R443, R487 to R490): enabling and disabling functions, the resource maps of function 0,
cache ways, time slices, and the function level reset (R446, R447).
-/
namespace Sys2Proof.Machine

/-! ### Registers of a partition block (R437, R438) -/

/-- PERR with a reason. -/
def State.refuse (s : State) (f reason : Nat) : State := s.setReg64 (partBase f + 0x068) (BitVec.ofNat 64 (1 + 16 * reason))

/-- The 8-byte words of a map register: offset and number. -/
def mapWords (first n : Nat) : List Nat := (List.range n).map (fun k => first + 8 * k)
/-- CLUST and CHAN0 to CHAN2. -/
def hardMaps : List Nat := mapWords 0x008 4
/-- QBLK0 to QBLK3 and TSLOT0 to TSLOT8. -/
def ownMaps : List Nat := mapWords 0x028 4 ++ mapWords 0x100 9

/-- The bits that a write of a partition register may set. -/
def partMask (o : Nat) : Dword :=
  if o = 0x008 then 0x0000FFFFFFFFFFFF
  else if o = 0x048 then 0x1F1F
  else if o = 0x050 || (0x080 ≤ o && o < 0x100) then 0xFFFFFFFF
  else if o = 0x058 then 0xFFFFFFFFFFFFFF00
  else 0xFFFFFFFFFFFFFFFF

/-- The other enabled functions. -/
def State.others (s : State) (f : Nat) : List Nat := (List.range 32).filter (fun k => k != f && s.fnEnabled k)
/-- FLOOR. -/
def State.floorWays (s : State) (f : Nat) : Nat := (s.reg (partBase f + 0x048)).toNat % 32
/-- CEIL. -/
def State.ceilWays (s : State) (f : Nat) : Nat := (s.reg (partBase f + 0x048)).toNat / 256 % 32
/-- TBUD. -/
def State.budgetOf (s : State) (f : Nat) : Nat := (s.reg (partBase f + 0x050)).toNat

/-- A word of a map meets the same word of one of some functions. -/
def State.overlaps (s : State) (v : Dword) (o : Nat) (fs : List Nat) : Bool :=
  fs.any (fun k => v &&& s.reg64 (partBase k + o) != 0)

/-- The reason for which an enable fails: the first check of R440 that does not pass. -/
def State.enableReason (s : State) (f : Nat) : Option Nat :=
  let hard := !s.fnSliced f
  let fs := s.others f
  let hs := fs.filter (fun k => !s.fnSliced k)
  let b := partBase f
  let floors := (hs.map s.floorWays).sum + if hard then s.floorWays f else 0
  if f ≠ 0 && (s.reg (b + 0x028)).getLsbD 0 then some 5
  else if s.fnTenant f = 63 then some 5
  else if fs.any (fun k => s.fnTenant k == s.fnTenant f) then some 4
  else if hard && hardMaps.any (fun o => s.overlaps (s.reg64 (b + o)) o hs) then some 1
  else if ownMaps.any (fun o => s.overlaps (s.reg64 (b + o)) o fs) then some 1
  else if s.ceilWays f < s.floorWays f || 16 < s.ceilWays f || 16 < floors then some 5
  else if s.fnSliced f && (s.reg (b + 4)).extractLsb' 0 16 = 0 then some 5
  else if 262144 < s.budgetOf f + (fs.map s.budgetOf).sum then some 5
  else none

/-! ### Cache ways (R442, R490) -/

/-- Ways of a slice change hands: dirty sectors go to their frames, which they do by leaving the L2, and with the ways of
L2 slice `i` of a die those of its RDC slice `i` are invalidated (R72, R441). -/
def State.flushWays (s : State) (n : Nat) (m : BitVec 16) : State :=
  { s with
    l2 := s.l2.filter (fun x => !(sliceNumber (32 * x.sector) == n && m.getLsbD x.way))
    rdc := s.rdc.filter (fun x => !(x.owner == n / 16 && rdcSlice x.sector == n % 16 && m.getLsbD x.way)) }

/-- Sets the way mask of a function in a slice; the ways that it gains or loses are flushed. -/
def State.setWays (s : State) (f n : Nat) (m : BitVec 16) : State :=
  let old := s.reg (wayReg f n)
  (s.flushWays n (s.ways f n ^^^ m)).setReg (wayReg f n)
    (if n % 2 = 0 then old.extractLsb' 16 16 ++ m else m ++ old.extractLsb' 0 16)

/-- The lowest-numbered ways of a mask, `n` of them. -/
def lowWays (m : BitVec 16) (n : Nat) : BitVec 16 :=
  (((List.range 16).filter (fun k => m.getLsbD k)).take n).foldl (fun r k => r ||| (1#16 <<< k)) 0
/-- The highest-numbered way. -/
def topWay (m : BitVec 16) : BitVec 16 := m &&& ~~~lowWays m (wayCount m - 1)

/-- The hard function, other than `f`, that holds the most ways above its FLOOR in a slice; the lower number on a tie. -/
def State.wayDonor (s : State) (f n : Nat) : Option Nat :=
  ((List.range 32).filter (fun k => k != f && s.isHard k && s.floorWays k < wayCount (s.ways k n))).foldl
    (fun d k => match d with
      | none => some k
      | some j => if wayCount (s.ways j n) < wayCount (s.ways k n) then some k else some j) none

/-- A function gains ways one by one: from the pool, else from a donor. -/
def State.gainWays (s : State) (f n : Nat) : Nat → State
  | 0 => s
  | k + 1 =>
    let pool := s.poolWays n
    if pool ≠ 0 then (s.setWays f n (s.ways f n ||| lowWays pool 1)).gainWays f n k
    else
      match s.wayDonor f n with
      | none => s
      | some d =>
        let w := topWay (s.ways d n)
        ((s.setWays d n (s.ways d n &&& ~~~w)).setWays f n (s.ways f n ||| w)).gainWays f n k

/-- A function owns a cluster on a die. -/
def State.ownsDie (s : State) (f d : Nat) : Bool := (List.range 6).any (fun k => s.mapBit (partBase f + 0x008) (6 * d + k))

/-- A function's share in a slice becomes its present number clamped to FLOOR and CEIL, zero off its dies. -/
def State.shareWays (s : State) (f n : Nat) : State :=
  let have' := wayCount (s.ways f n)
  let want := if s.isHard f && s.ownsDie f (n / 16) then min (s.ceilWays f) (max (s.floorWays f) have') else 0
  if want ≤ have' then s.setWays f n (lowWays (s.ways f n) want) else s.gainWays f n (want - have')

/-- The share of a function in every slice. -/
def State.shareAll (s : State) (f : Nat) : State := (List.range 128).foldl (fun s n => s.shareWays f n) s

/-- An owner of ways for WAY_MOVE: an enabled hard function, or the pool (32). -/
def State.mayGive (s : State) (n k : Nat) : Bool :=
  if k = 32 then s.poolWays n != 0 else s.isHard k && s.floorWays k < wayCount (s.ways k n)
/-- It may take one more way in a slice. -/
def State.mayTake (s : State) (n k : Nat) : Bool :=
  k = 32 || (s.isHard k && s.ownsDie k (n / 16) && wayCount (s.ways k n) < s.ceilWays k)

/-- Moves one way of a slice. -/
def State.moveWay (s : State) (n src dst : Nat) : State :=
  let w := if src = 32 then lowWays (s.poolWays n) 1 else topWay (s.ways src n)
  let s1 := if src = 32 then s else s.setWays src n (s.ways src n &&& ~~~w)
  if dst = 32 then s1 else s1.setWays dst n (s1.ways dst n ||| w)

/-- WAY_MOVE. -/
def execWayMove (slice src dst : Nat) (s : State) : Host.Outcome State Fault Refusal :=
  s.when (slice < 128 && src ≤ 32 && dst ≤ 32 && src != dst && s.mayGive slice src && s.mayTake slice dst)
    (fun s => s.moveWay slice src dst)

/-! ### What changes hands is flushed (R441) -/

/-- Control registers of a range of offsets return to zero. -/
def State.clearRegs (s : State) (lo hi : Nat) : State := { s with regs := s.regs.clear (lo / 4) (hi / 4) }

/-- A queue returns to reset; its packets are dropped. -/
def State.resetQueue (s : State) (q : Nat) : State :=
  let s1 : State := { s with packets := s.packets.map (fun (p : Packet) => if p.queue == q then { p with live := false, st := .done } else p) }
  s1.clearRegs (queueBase q) (queueBase q + 64)

/-- A queue block returns to reset. -/
def State.resetBlock (s : State) (b : Nat) : State := (List.range 64).foldl (fun s k => s.resetQueue (64 * b + k)) s

/-- The L1s of clusters lose their lines. -/
def State.flushClusters (s : State) (p : Nat → Bool) : State :=
  { s with l1 := s.l1.filter (fun x => !p (clusterOf x.owner)) }

/-- The pool is flushed: its ways, the L1s of its clusters, and the translations of the function that leaves it (R443,
R445). -/
def State.flushPool (s : State) (f : Nat) : State :=
  let pool := fun (c : Nat) => !(List.range 32).any (fun k => s.isHard k && s.mapBit (partBase k + 0x008) c)
  let s1 := (List.range 128).foldl (fun t n => t.flushWays n (s.poolWays n)) (s.flushClusters pool)
  { s1 with tlb := s1.tlb.filter (fun t => t.fn != f) }

/-- Filters of a function that meet a condition are detached, with the runs already queued. -/
def State.detach (s : State) (p : TcoSlot → Bool) : State :=
  { s with
    slots := s.slots.filter (fun x => !p x)
    tcoRuns := s.tcoRuns.filter (fun r => !s.slots.any (fun x => p x && x.tco == r.tco && x.slot == r.slot && x.fn == r.fn)) }

/-- Function `f` gives up what a new value of one of its map words leaves out; clusters that change hands are flushed. -/
def State.giveUp (s : State) (f o : Nat) (v : Dword) : State :=
  let lost := s.reg64 (partBase f + o) &&& ~~~v
  if o = 0x008 then s.flushClusters (fun c => (s.reg64 (partBase f + o) ^^^ v).getLsbD c)
  else if 0x028 ≤ o && o < 0x048 then
    (List.range 64).foldl (fun s k => if lost.getLsbD k then s.resetBlock (8 * (o - 0x028) + k) else s) s
  else if 0x100 ≤ o && o < 0x148 then
    s.detach (fun x => x.fn == f && x.tco == (o - 0x100) / 8 && lost.getLsbD x.slot)
  else s

/-! ### Function level reset (R446, R447) -/

/-- GEN of a function advances. -/
def State.nextGen (s : State) (f : Nat) : State :=
  let r := s.reg (partBase f)
  s.setReg (partBase f) ((r.extractLsb' 16 16 + 1) ++ r.extractLsb' 0 16)

/-- Of a list, those that free values pick. -/
def State.someOf {α : Type} (s : State) : List α → List α × State
  | [] => ([], s)
  | e :: r =>
    let (rest, s1) := s.someOf r
    let (v, s2) := s1.free
    (if v.getLsbD 0 then e :: rest else rest, s2)

/-- A store to host memory that is not answered: each byte is written or not. -/
def State.maybeHost (s : State) (r : Option HostReq) : State :=
  match r with
  | none => s
  | some r =>
    let o := ptrOffset r.ptr
    if !r.store || toPeer o then s
    else
      let (cells, s1) := s.someOf (cellsOf o (leBytes r.size r.data.toNat))
      { s1 with host := cells.foldl (fun m c => m.set c.1 c.2) s1.host }

/-- Of what a halted group has in flight, each byte of a store is written or not, an atomic is performed or not, and loads
are gone (R446). -/
def State.maybeStores (s : State) (i : Nat) : State :=
  let g := s.grp i
  let s1 := (s.modGrp i (fun g => { g with flight := [], take := [], ops := [], hostReq := none })).maybeHost g.hostReq
  g.flight.foldl (fun s f =>
    if f.kind = 1 then
      let (cells, s1) := s.someOf f.cells
      if cells = [] then s1 else s1.performHome i f.via f.scratch cells
    else if f.kind = 2 then
      let (v, s1) := s.free
      if v.getLsbD 0 then s1.performFlight i f [f] else s1
    else s) s1

/-- Every line of a contribution still to be applied is applied whole, with its atomics, or not at all. -/
def State.maybeLines (s : State) (c : Contribution) : State :=
  let atom := fun (o : OrdOp) => match o with
    | .atom r => if r.scratch then none else some (r.addr / 64)
    | _ => none
  let es := c.take.filter (fun e => !e.scratch)
  let (lines, s1) := s.someOf ((es.map (·.place) ++ c.ops.filterMap atom).eraseDups)
  (c.ops.filter (fun o => (atom o).any lines.contains)).foldl (fun s o => s.applyOp c.group o)
    (s1.applyTake c.group (es.filter (fun e => lines.contains e.place)))

/-- The destination bytes of the copies in flight are written or not; those of a copy that waits for its landings in a ring, or
for its credits, are written. -/
def State.maybeCopies (s : State) (root : Nat) : State :=
  (s.openCopies root).foldl (fun s k =>
    match s.copies[k]? with
    | some c => if 5 ≤ c.st then s else s.partialCopy c
    | none => s) s

/-- A context ends with ABORTED_RESET: its record goes to CREC and to no ring. -/
def State.abortContext (s : State) (root : Nat) : State :=
  let s1 := (s.grd root).contribs.foldl (fun s c => s.maybeLines c) (s.maybeCopies root)
  let s2 := s1.haltContext root
  let s3 := (s2.ctxGroups root).foldl (fun s i => s.maybeStores i) s2
  let s4 := (s3.modGrid root (fun g => { g with status := some (5, 0), ending := [], contribs := [] })).recordToCrec root
  { s4 with
    mxu := s4.mxu.filter (fun o => (s4.gridOf o.group).root != root)
    grids := s4.grids.map (fun (g : Grid) => if g.root == root then { g with st := .done, contribs := [], code := [] } else g) }

/-- A save in progress ends with ABORTED_RESET: the bytes of its area are zeroed (R441, R446). -/
def State.abortSave (s : State) (q n : Nat) (area : Dword) : State :=
  let s1 := (s.storeArea (s.queueFn q) (areaAddr area) (List.replicate n 0)).getD s
  (({ s1 with saves := s1.saves.filter (fun j => j.queue != q) } : State).endCmd q 3 false).tapPreempt q 3

/-- Steps 1 to 6 of the reset of one function, in order (R446): what step 3 writes to PSTAT, step 6 returns to reset (log 57). -/
def State.resetFunction (s : State) (f : Nat) : State :=
  let qs := s.fnQueues f
  let jobs := (s.saves.filter (fun j => qs.contains j.queue)).map (fun j => (j, s.areaSize (s.savedGrids j.queue)))
  let roots := (List.range s.grids.length).filter (fun k =>
    (s.grd k).fn == f && (s.grd k).parent.isNone && (s.grd k).st != .done)
  let s1 := roots.foldl (fun s r => s.abortContext r) (s.nextGen f)
  let s2 := jobs.foldl (fun s j => s.abortSave j.1.queue j.2 j.1.area) s1
  let used := (s2.packets.map (·.queue)).filter (fun q => qs.contains q)
  let s3 : State := { s2 with
    packets := s2.packets.map (fun (p : Packet) => if used.contains p.queue then { p with live := false, st := .done } else p)
    restores := s2.restores.filter (fun q => !qs.contains q)
    heldQueues := s2.heldQueues.filter (fun q => !qs.contains q)
    spent := s2.spent.filter (fun e => !qs.contains e.1)
    reduce := s2.reduce.filter (fun r => (s2.winCtl r.win).extractLsb' 8 6 != s2.fnTenant f)
    sent := s2.sent.filter (fun r => (s2.winCtl r.1).extractLsb' 8 6 != s2.fnTenant f)
    tlb := s2.tlb.filter (fun t => t.fn != f)
    faults := s2.faults.filter (fun e => e.fn != f)
    regs := s2.regs.filter (fun e =>
      !(0x200000 ≤ 4 * e.1 && 4 * e.1 < 0x300000 && qs.contains ((4 * e.1 - 0x200000) / 64)) &&
        !(0x300000 ≤ 4 * e.1 && 4 * e.1 < 0x380000 && qs.contains ((4 * e.1 - 0x300000) / 32)))
    merges := s2.merges.filter (fun m => m.1 != f) }
  ((s3.detach (fun x => x.fn == f)).clearRegs (transBase f) (transBase f + 0x100)).clearRegs
    (tcoBase f 0) (tcoBase f 0 + 0x10000)

/-- What a reset of the physical function clears besides, as a package reset does (R447): every register, cache and table
of the functions. Device memory, the frames' last owners and what has left for the host stay. A package that has failed
enables no function (R452). -/
def State.resetPackage (s : State) : State :=
  { s with
    regs := if s.failed then regsReset.set (partBase 0 / 4) 0 else regsReset
    frames := s.frames.map (fun (x : Frame) => { x with held := false }), l1 := [], rdc := [], l2 := [],
    tlb := [], faults := [], faultNext := [], slots := [], tcoIn := [], tcoRuns := [], tcoMem := [], tcoCycles := [], trigDone := [],
    merges := [], saves := [], restores := [], spent := [], heldQueues := [], reduce := [], sent := [], served := [], tickets := [],
    slice := 0,
    stage2 := List.replicate 32 0, tdi := List.replicate 32 .unlocked, flr := [] }

/-- A reset of a function whose device interface is locked or runs leaves the interface in its error state (R454; log 5). -/
def State.tdiReset (s : State) (f : Nat) : State :=
  { s with tdi := s.tdi.mapIdx (fun k (t : TdiState) => if k = f && (t == .locked || t == .run) then .error else t) }

/-- An FLR begins: BUSY is set for its whole duration. -/
def State.startFlr (s : State) (f : Nat) : State :=
  let s1 := if f = 0 then ((List.range 32).foldl (fun s k => s.resetFunction k) s).resetPackage
    else (s.resetFunction f).tdiReset f
  ({ s1 with flr := s1.flr ++ [f] } : State).setReg64 (partBase f + 0x060) 1

/-- An FLR of a function, unless one is under way. -/
def State.flrFunction (s : State) (f : Nat) : State := if s.flr.contains f then s else s.startFlr f

/-- PCIE_FLR. -/
def execPcieFlr (f : Nat) (s : State) : Host.Outcome State Fault Refusal :=
  s.when (f < 32) (fun s => s.flrFunction f)

/-- FLR_DONE. -/
def execFlrDone (f : Nat) (s : State) : Host.Outcome State Fault Refusal :=
  s.when (s.flr.contains f) (fun s =>
    ({ s with flr := s.flr.filter (fun k => k != f) } : State).setReg64 (partBase f + 0x060) 2)

/-! ### Disabling (R441, R445) -/

/-- A function is disabled: what it ran on is flushed, and its ways go to the pool (R441, R445). -/
def State.disableFunction (s : State) (f : Nat) : State :=
  let s0 := if s.fnSliced f then s.flushPool f else s.flushClusters (fun c => s.mapBit (partBase f + 0x008) c)
  let s1 := s0.setReg (partBase f) (s.reg (partBase f) &&& 0xFFFFFFFE)
  (List.range 128).foldl (fun s n => s.setWays f n 0) s1

/-! ### Time slices (R443) -/

/-- Grids of a function in one of some states. -/
def State.fnGrids (s : State) (f : Nat) (p : GridState → Bool) : List Nat :=
  (List.range s.grids.length).filter (fun k => (s.grd k).fn == f && p (s.grd k).st && (s.grd k).status.isNone)

/-- A time-sliced function that has work: a context that runs, or that its slice has set aside, or a RESTORE that waits for its
slice. -/
def State.hasWork (s : State) (f : Nat) : Bool :=
  s.fnEnabled f && s.fnSliced f &&
    (s.grids.any (fun g => g.fn == f && (g.st == .running || g.st == .stopped || (g.st == .saved && g.sliced))) ||
      s.restores.any (fun q => s.queueFn q == f))

/-- The next time-sliced function in round robin. -/
def State.nextSlice (s : State) : Option Nat :=
  ((List.range 32).map (fun k => (s.slice + 1 + k) % 32)).find? (fun f => f != s.slice && s.hasWork f)

/-- The outgoing function's contexts are saved into its TSAREA; one smaller than the PSIZE of its queues together disables
the function. -/
def State.sliceOut (s : State) (f : Nat) : State :=
  let gds := s.fnGrids f (fun x => x == .running || x == .stopped)
  if gds = [] then s
  else if areaRoom (s.tsarea f) < ((((gds ++ s.slicedGrids f).map (fun k => (s.grd k).queue)).eraseDups).map s.psize).sum then
    ((s.flrFunction f).disableFunction f).refuse f 3
  else ((s.freeze gds).settleSave gds).setSliced gds true

/-- The incoming function's contexts are restored from its TSAREA; while they find no room they wait (log 54). -/
def State.sliceIn (s : State) (f : Nat) : State :=
  let gds := s.slicedGrids f
  if gds = [] then s
  else
    match s.areaOf 0 (areaAddr (s.tsarea f)) with
    | none => s
    | some b =>
      match parseArea b with
      | some (_, xs) => if s.sectionsFit gds xs then (s.resume gds b xs).getD s else s
      | none => s

/-- A switch: out, flush, in. -/
def State.switchTo (s : State) (f : Nat) : State :=
  let old := s.slice
  let s1 := if s.fnEnabled old && s.fnSliced old then s.sliceOut old else s
  ({ s1.flushPool old with slice := f } : State).sliceIn f

/-- Grids of the time-sliced function that runs. -/
def State.sliceGrids (s : State) : List Nat :=
  if s.fnSliced s.slice then s.fnGrids s.slice (fun x => x == .running || x == .stopped) else []

/-- The contexts of the function that runs may be saved now (R133, R399). -/
def State.switchOpen (s : State) : Bool := s.saveOpen s.sliceGrids

/-- TIME_SLICE_SWITCH: the outgoing function's copies are settled first, as by a SAVE. With no other function to run, the
contexts of the present one that wait for room are tried again. -/
def execTimeSliceSwitch (s : State) : Host.Outcome State Fault Refusal :=
  s.when s.switchOpen (fun s =>
    match s.nextSlice with
    | none => s.sliceIn s.slice
    | some f =>
      let s1 := s.finishCopies s.sliceGrids
      if s1.copiesOpen s.sliceGrids then s1 else s1.switchTo f)

/-! #### Clusters that leave the pool (R436, R441) -/

/-- Contexts of the time-sliced function that runs stand on some clusters. -/
def State.standsOn (s : State) (p : Nat → Bool) : Bool :=
  (s.seated s.sliceGrids).any (fun i => p (clusterOf (s.grp i).core)) ||
    (List.range s.wgs.length).any (fun w => s.sliceGrids.contains (s.wgp w).grid && s.teamHeld w && p (clusterOf (s.wgp w).core))

/-- They can leave them now. -/
def State.evictOpen (s : State) (p : Nat → Bool) : Bool :=
  !s.standsOn p || (s.switchOpen && !(s.finishCopies s.sliceGrids).copiesOpen s.sliceGrids)

/-- Clusters change hands in a change `k` of the maps: contexts that stand on them are saved, as at a switch, the pool is
flushed, and they come back on what is left of the pool. -/
def State.evict (s : State) (p : Nat → Bool) (k : State → State) : State :=
  let f := s.slice
  if s.standsOn p then (k (((s.finishCopies s.sliceGrids).sliceOut f).flushPool f)).sliceIn f else k s

/-! ### Writes of function 0's maps, and of budgets (R439, R488) -/

/-- The reason for which a write of function 0's block is ignored. -/
def State.resourceReason (s : State) (o : Nat) (v : Dword) : Option Nat :=
  let fs := s.others 0
  let hs := fs.filter (fun k => !s.fnSliced k)
  if hardMaps.contains o then (if s.overlaps v o hs then some 1 else none)
  else if ownMaps.contains o then (if s.overlaps v o fs then some 1 else none)
  else if o = 0x048 then
    let floor := v.toNat % 32
    if v.toNat / 256 % 32 < floor || 16 < v.toNat / 256 % 32 || 16 < floor + (hs.map s.floorWays).sum then some 5 else none
  else none

/-- Clusters that a write of function 0's CLUST takes from the pool. -/
def State.clusterChange (s : State) (o : Nat) (v : Dword) (c : Nat) : Bool :=
  o == 0x008 && s.fnEnabled 0 && (v &&& ~~~s.reg64 (partBase 0 + 0x008)).getLsbD c

/-- Writes a resource register of function 0. -/
def State.writeResource (s : State) (o : Nat) (v : Dword) : State :=
  let w := v &&& partMask o
  let full : Dword := if 0x080 ≤ o && o < 0x100 then s.reg (o + partBase 0 + 4) ++ w.extractLsb' 0 32 else w
  match s.resourceReason o w with
  | some r => if s.fnEnabled 0 then s.refuse 0 r else s.setReg64 (partBase 0 + o) full
  | none =>
    s.evict (s.clusterChange o w) (fun s =>
      let s1 := (s.giveUp 0 o w).setReg64 (partBase 0 + o) full
      if o = 0x008 || o = 0x048 then s1.shareAll 0 else s1)

/-- A TBUD write is ignored when the budgets of the enabled functions would exceed 262,144. -/
def State.writeBudget (s : State) (f : Nat) (v : Word) : State :=
  if s.fnEnabled f && 262144 < v.toNat + ((s.others f).map s.budgetOf).sum then s.refuse f 5
  else s.setReg64 (partBase f + 0x050) (v.setWidth 64)

/-- PF_RESOURCE_WRITE. -/
def execPfResourceWrite (off : Nat) (v : Dword) (s : State) : Host.Outcome State Fault Refusal :=
  let o := off - partBase 0
  s.when (partBase 0 ≤ off && off % 8 = 0 && pfResource o && s.evictOpen (s.clusterChange o (v &&& partMask o))) (fun s =>
    if o = 0x050 then s.writeBudget 0 (v.extractLsb' 0 32) else if o = 0x058 then s else s.writeResource o v)

/-- TBUD_WRITE. -/
def execTbudWrite (f : Nat) (v : Dword) (s : State) : Host.Outcome State Fault Refusal :=
  s.when (f < 32) (fun s => s.writeBudget f (v.extractLsb' 0 32))

/-! ### PCR (R438 to R440, R489) -/

/-- The fields of PCR that software stores: SLICE, TENANT, QQUOTA, QMODE, TS. -/
def pcrFields : Dword := 0x0000FFFF00003FF6

/-- State memory of a function at every TCO is zeroed: its owner changes (R425, R441). -/
def State.clearTco (s : State) (f : Nat) : State :=
  { s with tcoMem := s.tcoMem.filter (fun e => e.1 / 4096 % 32 != f) }

/-- Stores the fields of a write of PCR; while EN is set they are ignored, with PERR when they would change. Of function 0,
TENANT, TS, QMODE and SLICE read as zero (R488). -/
def State.storePcr (s : State) (f : Nat) (v : Dword) : State :=
  let old := s.reg64 (partBase f)
  if f = 0 then s.setReg64 (partBase 0) ((old &&& ~~~0xF0) ||| (v &&& 0xF0))
  else if s.fnEnabled f then (if (v ^^^ old) &&& pcrFields = 0 then s else s.refuse f 2)
  else (if (v ^^^ old) &&& 0x3F00 = 0 then s else s.clearTco f).setReg64 (partBase f) ((old &&& ~~~pcrFields) ||| (v &&& pcrFields))

/-- The time-sliced function that runs: the first one enabled, when none runs. -/
def State.pickSlice (s : State) (f : Nat) : State :=
  if s.fnSliced f && !(s.fnEnabled s.slice && s.fnSliced s.slice) then { s with slice := f } else s

/-- Clusters that the enable of a function takes from the pool. -/
def State.takes (s : State) (f c : Nat) : Bool := !s.fnSliced f && s.mapBit (partBase f + 0x008) c

/-- EN goes from 0 to 1 when every check passes; the clusters of a hard function come from the pool (R441). -/
def State.enableFunction (s : State) (f : Nat) : State :=
  if s.fnEnabled f || s.failed then s
  else
    match s.enableReason f with
    | some r => s.refuse f r
    | none =>
      s.evict (s.takes f) (fun s =>
        let s1 := if s.fnSliced f then s else s.flushClusters (fun c => s.mapBit (partBase f + 0x008) c)
        ((s1.setReg (partBase f) (s1.reg (partBase f) ||| 1)).shareAll f).pickSlice f)

/-- An enable by a write of PCR can be performed: contexts that it drives from their clusters can leave them. -/
def State.enableOpen (s : State) (f : Nat) (v : Dword) : Bool :=
  let t := s.storePcr f v
  t.fnEnabled f || t.failed || (t.enableReason f).isSome || t.evictOpen (t.takes f)

/-- PCR_ENABLE. -/
def execPcrEnable (f : Nat) (v : Dword) (s : State) : Host.Outcome State Fault Refusal :=
  s.when (f < 32 && s.enableOpen f v) (fun s => (s.storePcr f v).enableFunction f)

/-- PCR_DISABLE: an FLR of an enabled function, then EN clears. -/
def execPcrDisable (f : Nat) (v : Dword) (s : State) : Host.Outcome State Fault Refusal :=
  s.when (f < 32) (fun s =>
    if s.fnEnabled f then ((s.storePcr f v).flrFunction f).disableFunction f else s.storePcr f v)

/-- PCR_FLR: the other fields of the write as in any write of PCR. -/
def execPcrFlr (f : Nat) (v : Dword) (s : State) : Host.Outcome State Fault Refusal :=
  s.when (f < 32 && (!v.getLsbD 0 || s.enableOpen f v)) (fun s =>
    let s1 := (s.storePcr f v).flrFunction f
    if v.getLsbD 0 then s1.enableFunction f
    else if s1.fnEnabled f then s1.disableFunction f else s1)

end Sys2Proof.Machine
end

