-- ==== Sys2Proof/Machine/Telemetry.lean ====
section
/-!
DEFINITION. The telemetry coprocessors (R408 to R434): attachment, intake and budgets, the filter set, triggers, rings,
and merging.
-/
namespace Sys2Proof.Machine

/-! ### Filter words (R416, R420 to R430) -/

/-- The field of bits [hi:lo] of a filter word. -/
def fbits (w : Word) (hi lo : Nat) : Nat := w.toNat / 2 ^ lo % 2 ^ (hi + 1 - lo)

/-- The event kinds of R411. -/
def eventKinds : List Nat :=
  [0x01, 0x02, 0x03, 0x10, 0x11, 0x12, 0x13, 0x14, 0x20, 0x21, 0x30, 0x31, 0x32, 0x33, 0x40, 0x50, 0x60]

/-- The argument of a TRIG is one that its action admits. -/
def trigOk (sup : Bool) (w : Word) : Bool :=
  match fbits w 20 18 with
  | 0 => fbits w 17 11 == 0
  | 1 => fbits w 17 0 == 0
  | 2 => fbits w 17 6 == 0
  | 3 => fbits w 17 6 == 0
  | 4 => fbits w 17 0 == 0
  | 5 => sup && fbits w 17 8 == 0
  | _ => false

/-- A histogram instruction selects shift 0 when its mode is log2. -/
def histOk (w : Word) : Bool := fbits w 26 24 == 0 && fbits w 11 4 == 0 && (fbits w 20 20 == 0 || fbits w 19 15 == 0)

/-- Instruction `i` of a program of `l` instructions keeps the rules of its entry. -/
def filterWordOk (sup : Bool) (l i : Nat) (w : Word) : Bool :=
  match fbits w 31 27 with
  | 0x00 => fbits w 23 21 == 0 && fbits w 20 5 == 0 && fbits w 4 0 ≤ 10
  | 0x01 => fbits w 23 21 == 0
  | 0x02 => fbits w 20 20 == 1 || fbits w 19 3 == 0
  | 0x03 => fbits w 20 20 == 1 || fbits w 19 3 == 0
  | 0x04 => fbits w 20 20 == 1 || fbits w 19 3 == 0
  | 0x05 => fbits w 20 20 == 1 || fbits w 19 3 == 0
  | 0x06 => fbits w 20 20 == 1 || fbits w 19 3 == 0
  | 0x07 => fbits w 20 20 == 1 || fbits w 19 3 == 0
  | 0x08 => fbits w 20 20 == 1 || fbits w 19 3 == 0
  | 0x09 => fbits w 20 20 == 1 || fbits w 19 3 == 0
  | 0x0A => fbits w 20 20 == 1 || fbits w 19 3 == 0
  | 0x0B => fbits w 20 0 == 0
  | 0x0C => fbits w 20 16 == 0
  | 0x0D => fbits w 20 6 == 0
  | 0x0E => fbits w 26 24 == 0 && fbits w 20 18 ≤ 5 && 1 ≤ fbits w 16 11 && (fbits w 17 17 == 1 || fbits w 10 3 == 0) &&
      i + 1 + fbits w 16 11 < l
  | 0x0F => histOk w && fbits w 14 12 == 0
  | 0x10 => histOk w
  | 0x11 => fbits w 20 15 == 0 && fbits w 9 0 == 0
  | 0x12 => fbits w 20 6 == 0
  | 0x13 => fbits w 20 12 == 0
  | 0x14 => fbits w 26 21 == 0 && trigOk sup w
  | 0x15 => fbits w 26 0 == 0 && i + 1 == l
  | _ => false

/-- A program keeps R416: END stands last, and nowhere else. -/
def programOk (sup : Bool) (ws : List Word) : Bool :=
  (ws.zipIdx.all (fun e => filterWordOk sup ws.length e.2 e.1)) && ws.getLast?.any (fun w => fbits w 31 27 == 0x15)

/-! ### Attaching (R415) -/

/-- TCO of a TELEM packet. -/
def Packet.telTco (p : Packet) : Nat := (p.word 2).toNat / 2 ^ 24 % 16
/-- SAMPLE. -/
def Packet.telSample (p : Packet) : Nat := (p.word 2).toNat / 2 ^ 16 % 16
/-- EVKIND. -/
def Packet.telKind (p : Packet) : Nat := (p.word 2).toNat / 2 ^ 8 % 256
/-- DETACH. -/
def Packet.telDetach (p : Packet) : Bool := (p.word 2).getLsbD 6
/-- SLOT. -/
def Packet.telSlot (p : Packet) : Nat := (p.word 2).toNat % 64

/-- A function owns a slot of a TCO (R437). -/
def State.ownsSlot (s : State) (f t k : Nat) : Bool := s.mapBit (partBase f + 0x100 + 8 * t) k

/-- The 32-bit words of a list of bytes. -/
def wordsOf32 (bs : List Byte) : List Word := (List.range (bs.length / 4)).map (fun k => BitVec.ofNat 32 (leAt bs (4 * k) 4))

/-- The program at a pointer, read once: its instruction words; none when it cannot be read or its header is not one. -/
def State.readProgram (s : State) (gr : Grid) (p : Dword) : Option (List Word × State) :=
  if ptrSpace p ≠ 0 then none
  else
    match s.readPtr gr p 4 with
    | none => none
    | some (h, s1) =>
      let l := leAt h 0 4
      if l < 1 || 48 < l then none
      else (s1.readPtr gr (p + 4) (4 * l)).map (fun r => (wordsOf32 r.1, r.2))

/-- Puts a program into a slot: its sampling counter is 0 and it is enabled. -/
def State.attach (s : State) (x : TcoSlot) : State :=
  { s with slots := s.slots.filter (fun y => !(y.tco == x.tco && y.slot == x.slot)) ++ [x] }

/-- Runs performed by what a slot holds, which an attachment that replaces it leaves. -/
def State.slotRuns (s : State) (f t k : Nat) : Word :=
  ((s.slots.find? (fun y => y.tco == t && y.slot == k && y.fn == f)).map (·.runs)).getD 0

/-- TELEM_ATTACH. -/
def execTelemAttach (q seq : Nat) (s : State) : Host.Outcome State Fault Refusal :=
  s.begin q seq (fun p => p.kind == 5 && !p.telDetach) (fun s ix p =>
    let f := s.queueFn q
    let t := p.telTco
    match s.readProgram (s.queueGrid q) (p.word 1) with
    | none => s.completePacket ix 8 0
    | some (ws, s1) =>
      if 8 < t || !eventKinds.contains p.telKind || !s1.ownsSlot f t p.telSlot || !programOk (f = 0) ws then
        s1.completePacket ix 8 0
      else
        (s1.attach ⟨t, p.telSlot, f, p.telKind, p.telSample, 0, ws, true, s1.slotRuns f t p.telSlot, false⟩).completePacket ix 0 0)

/-- A charged run of a slot is still to be performed. -/
def State.slotBusy (s : State) (t k : Nat) : Bool := s.tcoRuns.any (fun r => r.tco == t && r.slot == k)

/-- A slot that a DETACH frees. -/
def State.leavingAt (s : State) (t k : Nat) : Bool := s.slots.any (fun y => y.tco == t && y.slot == k && y.leaving)

/-- The slot of a DETACH that has begun can be changed: the runs begun are done, or an attachment has taken the slot; and the
packet's record can be written. -/
def State.detachOpen (s : State) (p : Packet) : Bool :=
  (!s.leavingAt p.telTco p.telSlot || !s.slotBusy p.telTco p.telSlot) && s.recordOpen p.queue p.seq

/-- The slot is free, and the packet is done. -/
def State.finishDetach (s : State) (ix : Nat) (p : Packet) : State :=
  ({ s with slots := s.slots.filter (fun y => !(y.tco == p.telTco && y.slot == p.telSlot && y.leaving)) } : State).completePacket ix 0 0

/-- A DETACH begins: its slot takes no record any more, and is free once the runs begun are done (R223, R415; log 63). -/
def State.startDetach (s : State) (f ix : Nat) (p : Packet) : State :=
  if 8 < p.telTco || !eventKinds.contains p.telKind || !s.ownsSlot f p.telTco p.telSlot then s.completePacket ix 8 0
  else
    let s1 : State := { s with slots := s.slots.map (fun (y : TcoSlot) =>
      if y.tco == p.telTco && y.slot == p.telSlot then { y with leaving := true } else y) }
    if s1.slotBusy p.telTco p.telSlot then s1 else s1.finishDetach ix p

/-- A packet is a DETACH that has begun. -/
def Packet.detaching (p : Packet) : Bool := p.kind == 5 && p.telDetach && p.st == .begun

/-- The DETACH of a queue and sequence number that has begun and can be completed. -/
def State.detachDue (s : State) (q seq : Nat) : Option Nat :=
  (List.range s.packets.length).find? (fun k => s.packets[k]?.any (fun p =>
    p.queue == q && p.seq == seq && p.detaching && s.detachOpen p))

/-- TELEM_DETACH: it begins; or, begun, it is done when its slot can be changed. -/
def execTelemDetach (q seq : Nat) (s : State) : Host.Outcome State Fault Refusal :=
  match s.detachDue q seq with
  | some ix => .next (s.packets[ix]?.elim s (s.finishDetach ix))
  | none => s.begin q seq (fun p => p.kind == 5 && p.telDetach) (fun s ix p => s.startDetach (s.queueFn q) ix p)

/-! ### Intake (R417) -/

/-- TENANT of a record. -/
def recTenant (r : BitVec 128) : BitVec 6 := r.extractLsb' 18 6
/-- KIND of a record. -/
def recKind (r : BitVec 128) : Nat := (r.extractLsb' 24 8).toNat

/-- A slot looks at a record (R414). -/
def State.slotTakes (s : State) (x : TcoSlot) (t : Nat) (r : BitVec 128) : Bool :=
  x.tco == t && x.enabled && !x.leaving && x.kind == recKind r && (x.fn == 0 || s.fnTenant x.fn == recTenant r)

/-- Adds one to a counter register. -/
def State.countReg (s : State) (off : Nat) : State := s.setReg off (s.reg off + 1)

/-- Charges a run, and queues or drops it: a run that an engine has taken stands in the queue no more. -/
def State.charge (s : State) (x : TcoSlot) (r : BitVec 128) : State :=
  let b := tcoBase x.fn x.tco
  let used := (s.reg (b + 0x28)).toNat + x.prog.length
  if s.budgetOf x.fn < used then s.countReg (b + 0x1C)
  else
    let s1 := s.setReg (b + 0x28) (BitVec.ofNat 32 used)
    if 64 ≤ (s1.tcoRuns.filter (fun y => y.tco == x.tco && y.fn == x.fn && y.pc == 0)).length then s1.countReg (b + 0x18)
    else { s1 with tcoRuns := s1.tcoRuns ++ [⟨x.tco, x.fn, x.slot, r, x.prog, 0, List.replicate 8 0⟩] }

/-- The slots of a TCO, ascending. -/
def State.tcoSlots (s : State) (t : Nat) : List Nat :=
  (List.range 64).flatMap (fun k => (List.range s.slots.length).filter (fun j =>
    s.slots[j]?.any (fun x => x.tco == t && x.slot == k)))

/-- A slot meets a record: sampling, and the charge of a run that is sampled. -/
def State.offer (s : State) (t : Nat) (r : BitVec 128) (j : Nat) : State :=
  match s.slots[j]? with
  | none => s
  | some x =>
    if !s.slotTakes x t r then s
    else
      let s1 : State := { s with slots := s.slots.set j { x with count := x.count + 1 } }
      if x.count.toNat % 2 ^ x.sample = 0 then s1.charge x r else s1

/-- A record leaves the tap's path: the first one for the TCO. -/
def State.takeRecord (s : State) (t : Nat) : State :=
  match s.tcoIn.findIdx? (fun r => r.tco == t) with
  | none => s
  | some k =>
    match s.tcoIn[k]? with
    | none => s
    | some r =>
      let s1 : State := { s with tcoIn := s.tcoIn.eraseIdx k }
      (s1.tcoSlots t).foldl (fun s j => s.offer t r.bits j) s1

/-- TCO_RECORD_INTAKE. -/
def execTcoRecordIntake (t : Nat) (s : State) : Host.Outcome State Fault Refusal :=
  s.when (s.tcoIn.any (fun r => r.tco == t)) (fun s => s.takeRecord t)

/-- BUDGET_WINDOW: a window of a TCO ends (R417, R419). -/
def execBudgetWindow (t : Nat) (s : State) : Host.Outcome State Fault Refusal :=
  s.when (t < 9) (fun s =>
    let s1 : State := { s with
      trigDone := s.trigDone.filter (fun x => x.1 != t), tcoCycles := s.tcoCycles.clear (32 * t) (32 * t + 32) }
    (List.range 32).foldl (fun s f => s.setReg (tcoBase f t + 0x28) 0) s1)

/-! ### State memory (R425) -/

/-- A word of state memory. -/
def State.tcoWord (s : State) (t f w : Nat) : Word := s.tcoMem.get (tcoKey t f w)
/-- Sets it. -/
def State.setTcoWord (s : State) (t f w : Nat) (v : Word) : State := { s with tcoMem := s.tcoMem.set (tcoKey t f w) v }
/-- Saturating sum. -/
def satAdd (a b : Word) : Word := if a.toNat + b.toNat < 2 ^ 32 then a + b else 0xFFFFFFFF
/-- Adds to a counter. -/
def State.bump (s : State) (t f w : Nat) (v : Word) : State := s.setTcoWord t f w (satAdd (s.tcoWord t f w) v)

/-! ### The filter set (R420 to R430) -/

/-- LOG2 of R423. -/
def filterLog2 (a : Word) : Nat := if a = 0 then 0 else a.toNat.log2 + 1

/-- The hash of R423. -/
def filterHash (x : Word) (seed : Nat) : Word :=
  let v := x ^^^ (BitVec.ofNat 32 seed * 0x00010001)
  let v := v ^^^ (v >>> 16)
  let v := v * 0x7FEB352D
  let v := v ^^^ (v >>> 15)
  let v := v * 0x846CA68B
  v ^^^ (v >>> 16)

/-- A field of the record, by LDE's number. -/
def recordField (r : BitVec 128) (k : Nat) : Word :=
  let ord := r.getLsbD 2
  match k with
  | 0 => (r.extractLsb' 24 8).setWidth 32
  | 1 => (r.extractLsb' 18 6).setWidth 32
  | 2 => (r.extractLsb' 15 3).setWidth 32
  | 3 => (r.extractLsb' 7 8).setWidth 32
  | 4 => (r.extractLsb' 3 4).setWidth 32
  | 5 => (r.extractLsb' 2 1).setWidth 32
  | 6 => if ord then (r.extractLsb' 56 8).setWidth 32 else 0
  | 7 => if ord then (r.extractLsb' 32 24).setWidth 32 else 0
  | 8 => if ord then 0 else r.extractLsb' 32 32
  | 9 => r.extractLsb' 64 32
  | _ => r.extractLsb' 96 32

/-- A run: its filter registers, and the package. -/
structure FilterRun where
  /-- f0 to f7. -/
  f : List Word
  /-- The package. -/
  s : State
  /-- The next instruction. -/
  pc : Nat
  /-- Instructions performed now. -/
  n : Nat
  /-- END has been performed. -/
  ended : Bool

/-- A filter register. -/
def FilterRun.r (c : FilterRun) (k : Nat) : Word := c.f.getD k 0
/-- Sets one. -/
def FilterRun.w (c : FilterRun) (k : Nat) (v : Word) : FilterRun := { c with f := c.f.set k v }

/-- The operations of R422, by op code. -/
def filterAlu (op : Nat) (a v : Word) : Word :=
  match op with
  | 0x02 => a + v
  | 0x03 => a - v
  | 0x04 => a &&& v
  | 0x05 => a ||| v
  | 0x06 => a ^^^ v
  | 0x07 => a <<< (v.toNat % 32)
  | 0x08 => a >>> (v.toNat % 32)
  | 0x09 => if a.toNat < v.toNat then a else v
  | _ => if a.toNat < v.toNat then v else a

/-- The operand v of R422. -/
def FilterRun.operand (c : FilterRun) (w : Word) : Word :=
  if fbits w 20 20 = 1 then BitVec.ofNat 32 (fbits w 19 0) else c.r (fbits w 2 0)

/-- The condition of a SKIP (R424). -/
def skipCond (cc : Nat) (a v : Word) : Bool :=
  match cc with
  | 0 => a == v
  | 1 => a != v
  | 2 => a.ult v
  | 3 => !a.ult v
  | 4 => a.slt v
  | _ => !a.slt v

/-- The bin of HINC and HADD (R426). -/
def histBin (w a : Word) : Nat := if fbits w 20 20 = 1 then filterLog2 a else min (a.toNat / 2 ^ fbits w 19 15) 255

/-- The seeds of R427. -/
def cmsSeeds : List Nat := [0x3A61, 0x5C0F, 0x8E27, 0xC4B9]

/-- Word of row `r` of a sketch for a key. -/
def cmsWord (k row : Nat) (x : Word) : Nat := 1024 * k + 256 * row + (filterHash x (cmsSeeds.getD row 0)).toNat % 256

/-- CMS: the sketch after the additions, and its estimate (R427). -/
def State.cms (s : State) (t f k : Nat) (x v : Word) : State × Word :=
  let s1 := (List.range 4).foldl (fun s row => s.bump t f (cmsWord k row x) v) s
  (s1, BitVec.ofNat 32 ((List.range 4).foldl (fun m row => min m (s1.tcoWord t f (cmsWord k row x)).toNat) 0xFFFFFFFF))

/-- The rank of R428. -/
def hllRank (h : Word) : Nat := if h.toNat / 256 = 0 then 25 else 24 - (h.toNat / 256).log2

/-- HLL: the set after the update, and whether the register rose (R428). -/
def State.hll (s : State) (t f n : Nat) (x : Word) : State × Word :=
  let h := filterHash x 0x1F2D
  let b := 256 * n + h.toNat % 256
  let w := s.tcoWord t f (b / 4)
  let old := w.toNat / 2 ^ (8 * (b % 4)) % 256
  let new' := hllRank h
  if old < new' then
    (s.setTcoWord t f (b / 4) (w + BitVec.ofNat 32 ((new' - old) * 2 ^ (8 * (b % 4)))), 1)
  else (s, 0)

/-! ### Triggers (R430, R431, R455) -/

/-- Raises a vector, once in a window. -/
def State.trigIrq (s : State) (t f v : Nat) : State :=
  if s.trigDone.contains (t, f, v) then s
  else { s with trigDone := s.trigDone ++ [(t, f, v)], irqs := s.irqs ++ [(f, v)] }

/-- A ring entry (R431). Rings lie in host space: no entry is written to a TRBASE that does not point there, for a TCO makes no
other access (R413; log 125). -/
def State.trigRecord (s : State) (x : TcoRun) (f : List Word) : State :=
  let b := tcoBase x.fn x.tco
  let ctl := (s.reg (b + 8)).toNat
  let size := 2 ^ (ctl / 2 % 16 + 6)
  let head := s.reg (b + 0x10)
  let tail := s.reg (b + 0x14)
  let p := s.reg64 b + BitVec.ofNat 64 (32 * (tail.toNat % size))
  if ctl % 2 = 0 || (tail - head).toNat = size || ptrSpace p ≠ 4 || toPeer (ptrOffset p) then s.countReg (b + 0x20)
  else
    let bs := leBytes 16 x.bits.toNat ++ [BitVec.ofNat 8 x.slot, BitVec.ofNat 8 x.tco, 0, 0] ++
      leBytes 4 (f.getD 1 0).toNat ++ leBytes 4 (f.getD 2 0).toNat ++ leBytes 4 (f.getD 3 0).toNat
    ((s.writePtr { Grid.blank with tenant := s.fnTenant x.fn } p bs).getD s).setReg (b + 0x14) (tail + 1)

/-- ENABLE and DISABLE of a slot that the function owns and that is attached. -/
def State.trigSlot (s : State) (t f k : Nat) (on : Bool) : State :=
  if !s.ownsSlot f t k then s
  else { s with slots := s.slots.map (fun (y : TcoSlot) => if y.tco == t && y.slot == k && y.fn == f then { y with enabled := on } else y) }

/-- HALTDUMP: a SAVE of every queue of the function that has an area, once in a window. -/
def State.trigHalt (s : State) (t f : Nat) : State :=
  if s.trigDone.contains (t, f, 2048) then s
  else
    let qs := (s.fnQueues f).filter (fun q => s.reg64 (preemptBase q + 8) != 0)
    { s with trigDone := s.trigDone ++ [(t, f, 2048)], posted := s.posted ++ qs.map Command.pctlSave }

/-- ALARM: CODE and PEND of PALARM, and its vector. -/
def State.trigAlarm (s : State) (code : Nat) : State :=
  let v := s.reg64 0x100
  let s1 := s.setReg64 0x100 ((v &&& 0x07FF0000) ||| 0x100 ||| BitVec.ofNat 64 code)
  { s1 with irqs := s1.irqs ++ [(0, (v.extractLsb' 16 11).toNat)] }

/-- TRIG. -/
def FilterRun.trig (c : FilterRun) (x : TcoRun) (w : Word) : FilterRun :=
  let s := c.s
  { c with s := match fbits w 20 18 with
    | 0 => s.trigIrq x.tco x.fn (fbits w 10 0)
    | 1 => s.trigRecord x c.f
    | 2 => s.trigSlot x.tco x.fn (fbits w 5 0) true
    | 3 => s.trigSlot x.tco x.fn (fbits w 5 0) false
    | 4 => s.trigHalt x.tco x.fn
    | _ => s.trigAlarm (fbits w 7 0) }

/-- One filter instruction other than SKIP and END. -/
def FilterRun.one (c : FilterRun) (x : TcoRun) (w : Word) : FilterRun :=
  let d := fbits w 26 24
  let a := c.r (fbits w 23 21)
  let b := c.r (fbits w 14 12)
  let bump := fun (k : Nat) (v : Word) => { c with s := c.s.bump x.tco x.fn k v : FilterRun }
  match fbits w 31 27 with
  | 0x00 => c.w d (recordField x.bits (fbits w 4 0))
  | 0x01 => c.w d ((w.extractLsb' 0 21).signExtend 32)
  | 0x0B => c.w d (BitVec.ofNat 32 (filterLog2 a))
  | 0x0C => c.w d (filterHash a (fbits w 15 0))
  | 0x0D => c.w d (if c.r (fbits w 5 3) != 0 then a else c.r (fbits w 2 0))
  | 0x0F => bump (256 * fbits w 3 0 + histBin w a) 1
  | 0x10 => bump (256 * fbits w 3 0 + histBin w a) b
  | 0x11 =>
    let r := c.s.cms x.tco x.fn (fbits w 11 10) a b
    ({ c with s := r.1 } : FilterRun).w d r.2
  | 0x12 =>
    let r := c.s.hll x.tco x.fn (fbits w 5 0) a
    ({ c with s := r.1 } : FilterRun).w d r.2
  | 0x13 =>
    let c1 := bump (fbits w 11 0) a
    c1.w d (c1.s.tcoWord x.tco x.fn (fbits w 11 0))
  | 0x14 => c.trig x w
  | op => c.w d (filterAlu op a (c.operand w))

/-- The instructions that a SKIP drops: none for any other one. -/
def FilterRun.skips (c : FilterRun) (w : Word) : Nat :=
  let v := if fbits w 17 17 = 1 then BitVec.ofNat 32 (fbits w 10 0) else c.r (fbits w 2 0)
  if fbits w 31 27 = 0x0E && skipCond (fbits w 20 18) (c.r (fbits w 23 21)) v then fbits w 16 11 else 0

/-- The next instruction of a run, in one engine cycle; END, and a place behind the program, end it. -/
def FilterRun.step (c : FilterRun) (x : TcoRun) : FilterRun :=
  match x.prog[c.pc]? with
  | none => { c with ended := true }
  | some w =>
    let c1 : FilterRun := { c with pc := c.pc + 1 + c.skips w, n := c.n + 1 }
    if fbits w 31 27 = 0x15 then { c1 with ended := true }
    else if fbits w 31 27 = 0x0E then c1
    else c1.one x w

/-- At most `n` instructions of a run. -/
def FilterRun.go (x : TcoRun) : Nat → FilterRun → FilterRun
  | 0, c => c
  | n + 1, c => if c.ended then c else FilterRun.go x n (c.step x)

/-- Engine cycles that a function has used in the present window of a TCO. -/
def State.cyclesUsed (s : State) (t f : Nat) : Nat := (s.tcoCycles.get (32 * t + f)).toNat

/-- Engine cycles that it has left there: it receives TBUD in every window (R419). -/
def State.cyclesLeft (s : State) (t f : Nat) : Nat := s.budgetOf f - s.cyclesUsed t f

/-- A run that has ended: the slot counts it. -/
def State.countRun (s : State) (x : TcoRun) : State :=
  { s with slots := s.slots.map (fun (y : TcoSlot) =>
      if y.tco == x.tco && y.slot == x.slot && y.fn == x.fn then { y with runs := y.runs + 1 } else y) }

/-- Run `k` of the charged ones in the cycles that its function has left in the window, one instruction in each; a run that
they do not suffice for goes on in the next window (R418, R419; log 111). -/
def State.performRun (s : State) (k : Nat) (x : TcoRun) : State :=
  let used := s.cyclesUsed x.tco x.fn
  let c := FilterRun.go x (min (s.cyclesLeft x.tco x.fn) (x.prog.length + 1)) ⟨x.regs, s, x.pc, 0, false⟩
  let s1 : State := { c.s with tcoCycles := c.s.tcoCycles.set (32 * x.tco + x.fn) (BitVec.ofNat 32 (used + c.n)) }
  if c.ended then ({ s1 with tcoRuns := s1.tcoRuns.eraseIdx k } : State).countRun x
  else { s1 with tcoRuns := s1.tcoRuns.set k { x with pc := c.pc, regs := c.f } }

/-- The oldest charged run of a function on a TCO. -/
def State.nextRun (s : State) (t f : Nat) : Option Nat := s.tcoRuns.findIdx? (fun r => r.tco == t && r.fn == f)

/-- TCO_RUN: the oldest charged run, in cycles of its function's allotment. -/
def execTcoRun (t f : Nat) (s : State) : Host.Outcome State Fault Refusal :=
  .next (match s.nextRun t f with
    | none => s
    | some k => (s.tcoRuns[k]?).elim s (s.performRun k))

/-! ### Merging (R433, R434) -/

/-- MERGESTAT of a function. -/
def mergeStat (f : Nat) : Nat := tcoBase f 8 + 0x88

/-- The fields of a MERGE command that its checks read. -/
def mergeOk (v : Dword) : Bool :=
  let n := (v.extractLsb' 32 13).toNat
  v.extractLsb' 54 8 != 0 && 1 ≤ n && n ≤ 4096 && (v.extractLsb' 16 12).toNat + n ≤ 4096 && (v.extractLsb' 0 12).toNat + n ≤ 4096

/-- A MERGE is accepted: it is under way, or ERR is set. -/
def State.startMerge (s : State) (f op : Nat) (v : Dword) : State :=
  if (s.reg (mergeStat f)).getLsbD 0 then s
  else if op < 2 && mergeOk v then
    ({ s with merges := s.merges ++ [(f, BitVec.ofNat 2 op ++ v.extractLsb' 0 62)] } : State).setReg (mergeStat f) 1
  else s.setReg (mergeStat f) 2

/-- MERGE_SUM. -/
def execMergeSum (f : Nat) (v : Dword) (s : State) : Host.Outcome State Fault Refusal :=
  s.when (f < 32) (fun s => s.startMerge f 0 v)
/-- MERGE_MAX. -/
def execMergeMax (f : Nat) (v : Dword) (s : State) : Host.Outcome State Fault Refusal :=
  s.when (f < 32) (fun s => s.startMerge f 1 v)

/-- The larger of each two bytes. -/
def byteMax (a b : Word) : Word :=
  let m := fun (k : Nat) => let x := a.extractLsb' k 8; let y := b.extractLsb' k 8; if x.toNat < y.toNat then y else x
  m 24 ++ m 16 ++ m 8 ++ m 0

/-- One merged word. -/
def State.mergeWord (s : State) (f : Nat) (v : Dword) (i : Nat) : State :=
  let src := (v.extractLsb' 16 12).toNat + i
  let ws := ((List.range 8).filter (fun d => v.getLsbD (54 + d))).map (fun d => s.tcoWord d f src)
  s.setTcoWord 8 f ((v.extractLsb' 0 12).toNat + i) (ws.foldl (if v.getLsbD 62 then byteMax else satAdd) 0)

/-- MERGE_COMPLETE: the words are read and written, and BUSY clears. -/
def execMergeComplete (f : Nat) (s : State) : Host.Outcome State Fault Refusal :=
  .next (match s.merges.find? (fun m => m.1 == f) with
    | none => s
    | some (_, v) =>
      (((List.range (v.extractLsb' 32 13).toNat).foldl (fun s i => s.mergeWord f v i) { s with
        merges := s.merges.filter (fun m => m.1 != f) }) : State).setReg (mergeStat f) 0)

end Sys2Proof.Machine
end

