-- ==== Sys2Proof/Machine/Package.lean ====
section
/-!
DEFINITION. The package's outside: fabric flits (R456 to R458), reduction results (R463), boot (R452), SPDM (R453),
TDISP (R454).
-/
namespace Sys2Proof.Machine

/-! ### Flits (R457, R458, R462) -/

/-- The enabled export entry of this package that serves an access of a tenant (R458). -/
def State.exportOf (s : State) (tenant : BitVec 6) (woff size : Nat) : Option Nat :=
  (List.range 64).find? (fun e =>
    let b := 0x03000000 + 32 * e
    let c := s.reg64 b
    let lo := (s.reg64 (b + 8)).toNat
    c.getLsbD 0 && c.extractLsb' 1 6 == tenant && c.extractLsb' 7 10 == Config.packageIndex && lo ≤ woff &&
      woff + size ≤ lo + (s.reg64 (b + 16)).toNat)

/-- Device-physical address behind an offset of an export entry. -/
def State.exportAddr (s : State) (e woff : Nat) : Nat :=
  (s.reg64 (0x03000000 + 32 * e + 24)).toNat + (woff - (s.reg64 (0x03000000 + 32 * e + 8)).toNat)

/-- A request: a flit with data stores it, a flit without data reads; the number of bytes read is a free value, for the
spec gives a request no field for it (log 32). -/
def State.serveRequest (s : State) (src : BitVec 10) (vc : BitVec 6) (w1 : Dword) (data : List Byte) : State :=
  let tenant := s.channelTenant vc
  let woff := (w1.extractLsb' 0 44).toNat
  let (v, s1) := s.free
  let n := if data = [] then v.toNat % 257 else data.length
  match s1.exportOf tenant woff n with
  | none => s1
  | some e =>
    let a := s1.exportAddr e woff
    if data = [] then s1.sendFlit src vc 1 w1 (byteList s1.mem a n)
    else (s1.writeExternal false a data).sendFlit src vc 1 w1 []

/-- The group whose peer access a response answers. -/
def State.requester (s : State) (src : BitVec 10) (vc : BitVec 6) (w1 : Dword) (n : Nat) : Option Nat :=
  s.groupIds.find? (fun i =>
    match (s.grp i).hostReq with
    | none => false
    | some r =>
      let o := ptrOffset r.ptr
      (s.gridOf i).channel == vc && o / 2 ^ 54 % 2 == 1 && o / 2 ^ 44 % 1024 == src.toNat &&
        o % 2 ^ 44 == (w1.extractLsb' 0 44).toNat && (r.store || n == r.size))

/-- A response completes the access it answers (R45). -/
def State.takeResponse (s : State) (src : BitVec 10) (vc : BitVec 6) (w1 : Dword) (data : List Byte) : State :=
  match s.requester src vc w1 data.length with
  | none => s
  | some i =>
    match (s.grp i).hostReq with
    | none => s
    | some r => s.completeHost i r 0 data

/-- A node belongs to a window's tree, and its ranks have not contributed to the element. -/
def State.nodeFits (s : State) (w off lo n : Nat) : Bool :=
  ((lo == 0 && n == s.winN w) || (nodeParent lo n 32 0 (s.winN w)).isSome) &&
    (List.range s.reduce.length).all (fun k =>
      match s.reduce[k]? with
      | none => true
      | some r => r.win != w || r.off != off || r.lo + r.n ≤ lo || lo + n ≤ r.lo)

/-- The window of a tenant that is home here and whose region holds an offset. -/
def State.homeWindow (s : State) (tenant : BitVec 6) (woff : Nat) : Option Nat :=
  (List.range 32).find? (fun w =>
    let c := s.winCtl w
    let lo := (s.reg64 (windowBase w + 8)).toNat
    c.getLsbD 0 && c.getLsbD 7 && c.extractLsb' 8 6 == tenant && lo ≤ woff && woff < lo + s.winSize w * s.winN w)

/-- One element of a reduction flit. -/
def State.takeNode (s : State) (w woff n : Nat) (v : Word) : State :=
  let a := woff - (s.reg64 (windowBase w + 8)).toNat
  let lo := a / s.winSize w
  let off := a % s.winSize w
  if s.nodeFits w off lo n then s.addNode w off 32 lo n v
  else s.setReg64 (windowBase w + 40) (s.reg64 (windowBase w + 40) ||| 0x100)

/-- A reduction flit: the elements of its payload, in order. -/
def State.takeReduction (s : State) (tenant : BitVec 6) (w1 : Dword) (data : List Byte) : State :=
  let woff := (w1.extractLsb' 0 44).toNat
  match s.homeWindow tenant woff with
  | none => s
  | some w =>
    let es := ropBytes ((s.winCtl w).extractLsb' 1 2).toNat
    (List.range (data.length / es)).foldl (fun s k =>
      s.takeNode w (woff + es * k) (w1.extractLsb' 44 20).toNat (BitVec.ofNat 32 (leAt data (es * k) es))) s

/-- The current generation of the function that a virtual channel belongs to; none when no enabled function is. -/
def State.channelGen (s : State) (vc : BitVec 6) : Option (BitVec 16) :=
  if vc = managementChannel then some (s.fnGen 0) else (s.tenantFn vc).map s.fnGen

/-- A flit is for this package, and its generation is the current one of its channel. -/
def State.flitCurrent (s : State) (w0 : Dword) : Bool :=
  w0.extractLsb' 54 10 == Config.packageIndex && s.channelGen (w0.extractLsb' 38 6) == some (w0.extractLsb' 20 16)

/-- Such a flit is served by its class; any other is dropped. -/
def State.receive (s : State) (w0 w1 : Dword) (data : List Byte) : State :=
  let src := w0.extractLsb' 44 10
  let vc := w0.extractLsb' 38 6
  let s1 := s.tapFlit vc (w0.extractLsb' 36 2) src
  if !s.flitCurrent w0 then s1
  else
    match (w0.extractLsb' 36 2).toNat with
    | 0 => s1.serveRequest src vc w1 data
    | 1 => s1.takeResponse src vc w1 data
    | 2 => s1.takeReduction (s.channelTenant vc) w1 data
    | _ => s1

/-- The store of a request may land at once: the response follows its performance (R133, R458). -/
def State.requestOpen (s : State) (w0 w1 : Dword) (data : List Byte) : Bool :=
  let woff := (w1.extractLsb' 0 44).toNat
  !s.flitCurrent w0 || data = [] || (w0.extractLsb' 36 2).toNat != 0 ||
    (s.exportOf (s.channelTenant (w0.extractLsb' 38 6)) woff data.length).all (fun e => s.writeOpen false (s.exportAddr e woff) data.length)

/-- FABRIC_FLIT_RECEIVE. -/
def execFabricFlitReceive (w0 w1 : Dword) (data : List Byte) (s : State) : Host.Outcome State Fault Refusal :=
  s.when ((w0.extractLsb' 0 9).toNat = data.length && data.length ≤ 256 && s.requestOpen w0 w1 data)
    (fun s => s.receive w0 w1 data)

/-- The completed node of an element. -/
def State.wholeNode (s : State) (w o : Nat) : Option ReduceNode :=
  if (s.winCtl w).getLsbD 0 && s.winHome w then s.nodeAt w o 0 (s.winN w) else none

/-- REDUCTION_RESULT: the result is written to WRES + o as an external write, and the element is cleared. -/
def execReductionResult (w o : Nat) (s : State) : Host.Outcome State Fault Refusal :=
  .next (match s.wholeNode w o with
    | none => s
    | some r =>
      ({ s with reduce := s.reduce.filter (fun x => x != r) } : State).writeExternal false
        ((s.reg64 (windowBase w + 32)).toNat + o)
        (leBytes (ropBytes ((s.winCtl w).extractLsb' 1 2).toNat) r.v.toNat))

/-! ### Boot (R452) -/

/-- An image that a die of a class may load, given the minimum version in its fuses; both signatures cover bytes 0x000 to
0x02F of it. -/
def imageOk (cls : Nat) (fuse : Word) (img : List Byte) : Bool :=
  4096 ≤ img.length && leAt img 0 4 == 0x4B384F5A && leAt img 4 4 == cls && fuse.toNat ≤ leAt img 8 4 &&
    leAt img 12 4 == img.length - 4096 && sha3 (img.drop 4096) == (img.drop 16).take 32 &&
    Config.ed25519Verify (img.take 0x30) ((img.drop 0x30).take 64) &&
    Config.mldsa65Verify (img.take 0x30) ((img.drop 0x70).take 3309)

/-- A die after its boot ROM has looked at its image. -/
def Die.load (d : Die) (cls : Nat) (img : List Byte) : Die :=
  if imageOk cls d.fuse img then
    { d with up := true, svn := BitVec.ofNat 32 (leAt img 8 4), digest := (img.drop 16).take 32 }
  else d

/-- BOOT: image d for shader die d, image 8 for the Foyer. One that fails leaves its die in reset, the package is
reported as failed, and no function is enabled. -/
def execBoot (images : List (List Byte)) (s : State) : Host.Outcome State Fault Refusal :=
  s.when (!s.failed && s.dies.all (fun d => !d.up)) (fun s =>
    let ds := s.dies.mapIdx (fun k (d : Die) => d.load (if k = 8 then 0 else 1) (images.getD k []))
    let s1 : State := { s with dies := ds, failed := ds.any (fun d => !d.up) }
    if s1.failed then (List.range 32).foldl (fun s f => s.setReg (partBase f) (s.reg (partBase f) &&& 0xFFFFFFFE)) s1 else s1)

/-! ### Attestation and device assignment (R453, R454) -/

/-- A measurement block: index, length, content (log 33). -/
def spdmBlock (k : Nat) (c : List Byte) : List Byte := BitVec.ofNat 8 k :: leBytes 2 c.length ++ c

/-- SVN and digest of a die's running image. -/
def Die.measure (d : Die) : List Byte := leBytes 4 d.svn.toNat ++ d.digest

/-- The bytes of a partition block with GEN and the USED fields as zero. -/
def State.partBytes (s : State) (f : Nat) : List Byte :=
  (List.range 1024).flatMap (fun k =>
    let v := s.reg (partBase f + 4 * k)
    let used := 0x080 ≤ 4 * k && 4 * k < 0x100 && k % 2 == 1
    leBytes 4 (if k = 0 then v.toNat % 65536 else if used then 0 else v.toNat))

/-- Digest of the partition blocks of the enabled functions. -/
def State.partDigest (s : State) : List Byte :=
  sha3 (((List.range 32).filter s.fnEnabled).flatMap s.partBytes)

/-- The SHA3-256 digests of a die's two identity public keys (R451). -/
def keyDigests (d : Nat) : List Byte := sha3 (Config.publicKey d false) ++ sha3 (Config.publicKey d true)

/-- The measurement blocks 0x01 to 0x10. -/
def State.measurements (s : State) : List Byte :=
  let die := fun (k : Nat) => s.dies.getD k ⟨false, 0, [], 0, 0⟩
  spdmBlock 1 (die 8).measure ++
    (List.range 8).flatMap (fun d => spdmBlock (d + 2) ((die d).measure ++ keyDigests d)) ++
    spdmBlock 0x10 s.partDigest

/-- The report on the measurements, with both signatures over one transcript. -/
def State.spdmReport (s : State) (req : List Byte) : List Byte :=
  let m := s.measurements
  m ++ spdmBlock 0xF0 (Config.spdmSignPq (req ++ m)) ++ Config.spdmSign (req ++ m)

/-- The answer to a request by its code, the second byte: GET_MEASUREMENTS the report; GET_CERTIFICATE the certificates of
its slot, of which slot 0 is the Foyer's and slot d + 1 that of shader die d; what else SPDM 1.3 asks is answered by no
rule of the spec (R451, R453; log 33). -/
def State.spdmAnswer (s : State) (req : List Byte) : List Byte :=
  let code := req.getD 1 0
  let slot := (req.getD 2 0).toNat % 16
  if code = 0xE0 then s.spdmReport req
  else if code = 0x82 && slot ≤ 8 then Config.certificates (if slot = 0 then 8 else slot - 1)
  else Config.spdmOther req

/-- SPDM_REQUEST. -/
def execSpdmRequest (req : List Byte) (s : State) : Host.Outcome State Fault Refusal :=
  .next { s with spdmOut := s.spdmOut ++ [s.spdmAnswer req] }

/-- The state of a TDI after a TDISP message: 0x83 locks, 0x86 starts, 0x87 stops (log 5). -/
def TdiState.after (t : TdiState) (msg : BitVec 8) : TdiState :=
  if msg = 0x83 then (match t with
    | .unlocked => .locked
    | x => x)
  else if msg = 0x86 then (match t with
    | .locked => .run
    | x => x)
  else if msg = 0x87 then .unlocked
  else t

/-- TDISP_REQUEST: the TDIs are the functions 1 to 31. -/
def execTdispRequest (f : Nat) (msg : BitVec 8) (s : State) : Host.Outcome State Fault Refusal :=
  s.when (1 ≤ f && f < 32) (fun s => { s with tdi := s.tdi.set f ((s.tdi.getD f .unlocked).after msg) })

end Sys2Proof.Machine
end

