-- ==== Sys2Proof/Machine/Registers.lean ====
section
/-!
DEFINITION. Writes of registers without a row of their own (R14, R96, R218, R398, R432, R437, R439, R455, R458, R459),
through MMIO or through BAR 0 of a function.
-/
namespace Sys2Proof.Machine

/-! ### What software may write -/

/-- The RW bits and the W1C bits of the 8-byte word at a place. -/
def regMasks : RegPlace → Dword × Dword
  | .palarm => (0x07FF0000, 0x100)
  | .trans f o =>
    if o = 0x00 then (if f = 0 then (0x0000FFFFFFFFFFF8, 0) else (0, 0))
    else if o = 0x28 then (0x0000FFFFFFFFFFC0, 0)
    else if o = 0x30 then (0xFFFFFFFF00000F01, 0)
    else (0, 0)
  | .queue _ o =>
    if o = 0x00 || o = 0x18 then (0xFFFFFFFFFFFFFFFF, 0)
    else if o = 0x10 then (0x0000FFFFFFFF0000, 0)
    else (0, 0)
  | .preempt _ o => if o = 0x08 then (0xFFFFFFFFFFFFFF00, 0) else (0, 0)
  | .tco _ _ o =>
    if o = 0x00 then (0xFFFFFFFFFFFFFFFF, 0)
    else if o = 0x08 then (0x1F, 0)
    else if o = 0x10 then (0xFFFFFFFF, 0)
    else (0, 0)
  | .part f o =>
    if o = 0x068 then (0, 0xF1)
    else if o = 0x180 || o = 0x188 then (0x0000FFFFFFFFF000, 0)
    else if o = 0x190 then (1, 2)
    else if o = 0x198 then (0xFFFFFFFF, 0)
    else if o = 0x058 || (f ≠ 0 && pfResource o) then (partMask o, 0)
    else (0, 0)
  | .window _ o =>
    if o = 0x00 then (0xFFFFFF, 0)
    else if o = 0x08 then (0x00000FFFFFFF0000, 0)
    else if o = 0x10 then (0x000FFFFFFFFFFFFF, 0)
    else if o = 0x18 then (0x000FFFFF000FFFFF, 0)
    else if o = 0x20 then (0x0000FFFFFFFFFFC0, 0)
    else if o = 0x28 then (0, 0x11F)
    else (0, 0)
  | .xport _ o =>
    if o = 0x00 then (0x1FFFF, 0)
    else if o = 0x08 || o = 0x10 then (0x00000FFFFFFF0000, 0)
    else if o = 0x18 then (0x0000FFFFFFFF0000, 0)
    else (0, 0)
  | _ => (0, 0)

/-- The bits of the 8-byte word that a write carries, and their values in place. -/
def carried (off size : Nat) (v : Dword) : Dword × Dword :=
  if size = 8 then (0xFFFFFFFFFFFFFFFF, v)
  else if off % 8 = 0 then (0xFFFFFFFF, v &&& 0xFFFFFFFF)
  else (0xFFFFFFFF00000000, v <<< 32)

/-- A word after a write. -/
def mergeWrite (old : Dword) (m : Dword × Dword) (c : Dword × Dword) : Dword :=
  (old &&& ~~~(m.1 &&& c.1) &&& ~~~(m.2 &&& c.1 &&& c.2)) ||| (m.1 &&& c.1 &&& c.2)

/-- Fields of a partition block that R439 protects while EN is set. -/
def partLocked (o : Nat) : Bool := (0x008 ≤ o && o ≤ 0x048) || o == 0x058 || (0x100 ≤ o && o ≤ 0x140)

/-! ### The write -/

/-- A write of FACMD: the command is latched and BUSY is set, unless one is under way (R97). -/
def State.latchCommand (s : State) (v : Dword) : State :=
  if s.allocBusy then s
  else (s.setReg64 0x10008 v).setReg64 0x10010 (s.reg64 0x10010 ||| 0x8000000000000000)

/-- A masked write of the word at `b`. -/
def State.plainWrite (s : State) (b : Nat) (new' : Dword) : State :=
  match regPlace b with
  | .queue q _ => if s.queueOn q then s else s.setReg64 b new'
  | .tco _ _ o =>
    if o = 0x00 && (s.reg (b + 8)).getLsbD 0 then s
    else if o = 0x08 && (s.reg b).getLsbD 0 then s.setReg64 b ((s.reg64 b &&& 0x1E) ||| (new' &&& 1))
    else s.setReg64 b new'
  | .part f o =>
    if f ≠ 0 && s.fnEnabled f && partLocked o then (if new' = s.reg64 b then s else s.refuse f 2)
    else s.setReg64 b new'
  | .window w o =>
    if o = 0 && !new'.getLsbD 0 then
      { s.setReg64 b new' with
        reduce := s.reduce.filter (fun r => r.win != w), sent := s.sent.filter (fun r => r.1 != w) }
    else s.setReg64 b new'
  | _ => s.setReg64 b new'

/-- A write of state memory: the words that it carries (R432). -/
def State.writeState (s : State) (f t w : Nat) (c : Dword × Dword) : State :=
  let s1 := if c.1.getLsbD 0 then s.setTcoWord t f w (c.2.extractLsb' 0 32) else s
  if c.1.getLsbD 32 then s1.setTcoWord t f (w + 1) (c.2.extractLsb' 32 32) else s1

/-- A write of a register that has no row of its own. -/
def State.writeRegister (s : State) (off size : Nat) (v : Dword) : State :=
  let b := off / 8 * 8
  let c := carried off size v
  match regPlace b with
  | .trans 0 0x08 => s.latchCommand (c.1 &&& c.2)
  | .tco f 8 0x80 => s.startMerge f ((c.1 &&& c.2).extractLsb' 62 2).toNat (c.1 &&& c.2)
  | .tcoState f t w => s.writeState f t w c
  | p => if regMasks p = (0, 0) then s else s.plainWrite b (mergeWrite (s.reg64 b) (regMasks p) c)

/-! ### BAR 0 (R96, R218, R398, R432, R437) -/

/-- The MMIO offset behind an offset of BAR 0 of a function: its own partition, in whatever state its TDI is (R454; log
124). -/
def State.barOffset (s : State) (f o : Nat) : Option Nat :=
  let queueAt := fun (base n : Nat) => ((s.fnQueues f)[(o - base) / n]?).map (fun q => base + n * q + (o - base) % n)
  if 0x10000 ≤ o && o < 0x10100 then some (o + 0x100 * f)
  else if 0x200000 ≤ o && o < 0x300000 then queueAt 0x200000 64
  else if 0x300000 ≤ o && o < 0x380000 then queueAt 0x300000 32
  else if 0x400000 ≤ o && o < 0x409000 then some (o + 0x10000 * f)
  else if 0x600000 ≤ o && o < 0x624000 then some (o + 0x40000 * f)
  else if f = 0 && (o = 0x100 || o = 0x104 || (0x01000000 ≤ o && o < 0x01020000)) then some o
  else none

/-- What a read of 8 bytes of BAR 0 of a function returns: a VF sees its own partition block at 0x0100_0000, which it
cannot write (R437). No event stands for such a read, for it changes nothing. -/
def State.barRead (s : State) (f o : Nat) : Dword :=
  if f ≠ 0 && 0x01000000 ≤ o && o < 0x01001000 then s.readReg (o + 0x1000 * f)
  else
    match s.barOffset f o with
    | some a => s.readReg a
    | none => 0

/-- REGISTER_WRITE: an offset below 2^32 is one of MMIO; 2^32 × (f + 1) + o is offset o of BAR 0 of function f (log 29).
A write that has a row of its own is performed as that row. -/
def execRegisterWrite (off size : Nat) (v : Dword) (s : State) : Host.Outcome State Fault Refusal :=
  s.when ((size = 4 || size = 8) && off % size = 0 && off / 2 ^ 32 ≤ 32) (fun s =>
    let at' := if off < 2 ^ 32 then some off else s.barOffset (off / 2 ^ 32 - 1) (off % 2 ^ 32)
    match at' with
    | none => s
    | some o =>
      let w := BitVec.ofNat 64 (v.toNat % 2 ^ (8 * size))
      match s.registerCommand o size w with
      | none => s
      | some (.register _ _ _) => s.writeRegister o size w
      | some c => { s with posted := s.posted ++ [c] })

end Sys2Proof.Machine
end

