-- ==== Sys2Proof/Machine/Dispatch.lean ====
section
/-!
DEFINITION. The dispatcher: one arm per row of the opcode table, each one call of its meaning.
-/
namespace Sys2Proof.Machine

/-- The meaning of an instruction or event in a state. -/
def exec (i : Instr) (s : State) : Host.Outcome State Fault Refusal :=
  match i with
  | .ill => Sys2Proof.Machine.execIll s
  | .xtImm p => Sys2Proof.Machine.execXtImm p s
  | .xtOpd l c => Sys2Proof.Machine.execXtOpd l c s
  | .xtMem e k t p => Sys2Proof.Machine.execXtMem e k t p s
  | .add d a b => Sys2Proof.Machine.execAdd d a b s
  | .sub d a b => Sys2Proof.Machine.execSub d a b s
  | .and d a b => Sys2Proof.Machine.execAnd d a b s
  | .or d a b => Sys2Proof.Machine.execOr d a b s
  | .xor d a b => Sys2Proof.Machine.execXor d a b s
  | .andn d a b => Sys2Proof.Machine.execAndn d a b s
  | .shl d a b => Sys2Proof.Machine.execShl d a b s
  | .shr d a b => Sys2Proof.Machine.execShr d a b s
  | .sar d a b => Sys2Proof.Machine.execSar d a b s
  | .rotl d a b => Sys2Proof.Machine.execRotl d a b s
  | .min d a b => Sys2Proof.Machine.execMin d a b s
  | .max d a b => Sys2Proof.Machine.execMax d a b s
  | .minz d a b => Sys2Proof.Machine.execMinz d a b s
  | .maxz d a b => Sys2Proof.Machine.execMaxz d a b s
  | .mul d a b => Sys2Proof.Machine.execMul d a b s
  | .mulh d a b => Sys2Proof.Machine.execMulh d a b s
  | .mulhz d a b => Sys2Proof.Machine.execMulhz d a b s
  | .absd d a b => Sys2Proof.Machine.execAbsd d a b s
  | .add64 d a b => Sys2Proof.Machine.execAdd64 d a b s
  | .sub64 d a b => Sys2Proof.Machine.execSub64 d a b s
  | .popc d a => Sys2Proof.Machine.execPopc d a s
  | .clz d a => Sys2Proof.Machine.execClz d a s
  | .brev d a => Sys2Proof.Machine.execBrev d a s
  | .sadd d a b => Sys2Proof.Machine.execSadd d a b s
  | .ssub d a b => Sys2Proof.Machine.execSsub d a b s
  | .addi d a imm => Sys2Proof.Machine.execAddi d a imm s
  | .andi d a imm => Sys2Proof.Machine.execAndi d a imm s
  | .ori d a imm => Sys2Proof.Machine.execOri d a imm s
  | .xori d a imm => Sys2Proof.Machine.execXori d a imm s
  | .shfiShl d a n => Sys2Proof.Machine.execShfiShl d a n s
  | .shfiShr d a n => Sys2Proof.Machine.execShfiShr d a n s
  | .shfiSar d a n => Sys2Proof.Machine.execShfiSar d a n s
  | .shfiRotl d a n => Sys2Proof.Machine.execShfiRotl d a n s
  | .movi d imm => Sys2Proof.Machine.execMovi d imm s
  | .movh d imm => Sys2Proof.Machine.execMovh d imm s
  | .icmp p m a b c t => Sys2Proof.Machine.execIcmp p m a b c t s
  | .icmpi p c a imm => Sys2Proof.Machine.execIcmpi p c a imm s
  | .sel d a b g => Sys2Proof.Machine.execSel d a b g s
  | .imad d a b => Sys2Proof.Machine.execImad d a b s
  | .imadw d a b => Sys2Proof.Machine.execImadw d a b s
  | .imadwz d a b => Sys2Proof.Machine.execImadwz d a b s
  | .bfe d a p l => Sys2Proof.Machine.execBfe d a p l s
  | .bfez d a p l => Sys2Proof.Machine.execBfez d a p l s
  | .bfi d a p l => Sys2Proof.Machine.execBfi d a p l s
  | .bmsk d p l => Sys2Proof.Machine.execBmsk d p l s
  | .padd d a b => Sys2Proof.Machine.execPadd d a b s
  | .ptag d a b => Sys2Proof.Machine.execPtag d a b s
  | .prank d a b => Sys2Proof.Machine.execPrank d a b s
  | .pinfo d a => Sys2Proof.Machine.execPinfo d a s
  | .phnd d a => Sys2Proof.Machine.execPhnd d a s
  | .fadd d a b => Sys2Proof.Machine.execFadd d a b s
  | .fsub d a b => Sys2Proof.Machine.execFsub d a b s
  | .fmul d a b => Sys2Proof.Machine.execFmul d a b s
  | .fmin d a b => Sys2Proof.Machine.execFmin d a b s
  | .fmax d a b => Sys2Proof.Machine.execFmax d a b s
  | .fabs d a => Sys2Proof.Machine.execFabs d a s
  | .fneg d a => Sys2Proof.Machine.execFneg d a s
  | .fcpys d a b => Sys2Proof.Machine.execFcpys d a b s
  | .frndN d a => Sys2Proof.Machine.execFrndN d a s
  | .frndZ d a => Sys2Proof.Machine.execFrndZ d a s
  | .frndP d a => Sys2Proof.Machine.execFrndP d a s
  | .frndM d a => Sys2Proof.Machine.execFrndM d a s
  | .hadd2F16 d a b => Sys2Proof.Machine.execHadd2F16 d a b s
  | .hsub2F16 d a b => Sys2Proof.Machine.execHsub2F16 d a b s
  | .hmul2F16 d a b => Sys2Proof.Machine.execHmul2F16 d a b s
  | .hmin2F16 d a b => Sys2Proof.Machine.execHmin2F16 d a b s
  | .hmax2F16 d a b => Sys2Proof.Machine.execHmax2F16 d a b s
  | .hadd2Bf16 d a b => Sys2Proof.Machine.execHadd2Bf16 d a b s
  | .hsub2Bf16 d a b => Sys2Proof.Machine.execHsub2Bf16 d a b s
  | .hmul2Bf16 d a b => Sys2Proof.Machine.execHmul2Bf16 d a b s
  | .hmin2Bf16 d a b => Sys2Proof.Machine.execHmin2Bf16 d a b s
  | .hmax2Bf16 d a b => Sys2Proof.Machine.execHmax2Bf16 d a b s
  | .ffma d a b => Sys2Proof.Machine.execFfma d a b s
  | .ffms d a b => Sys2Proof.Machine.execFfms d a b s
  | .fnma d a b => Sys2Proof.Machine.execFnma d a b s
  | .hfma2F16 d a b => Sys2Proof.Machine.execHfma2F16 d a b s
  | .hfma2Bf16 d a b => Sys2Proof.Machine.execHfma2Bf16 d a b s
  | .fcmp p m a b c t => Sys2Proof.Machine.execFcmp p m a b c t s
  | .rcp d a => Sys2Proof.Machine.execRcp d a s
  | .rsq d a => Sys2Proof.Machine.execRsq d a s
  | .sqrt d a => Sys2Proof.Machine.execSqrt d a s
  | .exp2 d a => Sys2Proof.Machine.execExp2 d a s
  | .log2 d a => Sys2Proof.Machine.execLog2 d a s
  | .sinpi d a => Sys2Proof.Machine.execSinpi d a s
  | .cospi d a => Sys2Proof.Machine.execCospi d a s
  | .tanh d a => Sys2Proof.Machine.execTanh d a s
  | .cvtF32F16 d a => Sys2Proof.Machine.execCvtF32F16 d a s
  | .cvtF16F32 d a => Sys2Proof.Machine.execCvtF16F32 d a s
  | .cvtF32Bf16 d a => Sys2Proof.Machine.execCvtF32Bf16 d a s
  | .cvtBf16F32 d a => Sys2Proof.Machine.execCvtBf16F32 d a s
  | .cvtS32F32 d a => Sys2Proof.Machine.execCvtS32F32 d a s
  | .cvtZ32F32 d a => Sys2Proof.Machine.execCvtZ32F32 d a s
  | .cvtF32S32 d a => Sys2Proof.Machine.execCvtF32S32 d a s
  | .cvtF32Z32 d a => Sys2Proof.Machine.execCvtF32Z32 d a s
  | .pack2 d a b => Sys2Proof.Machine.execPack2 d a b s
  | .shfl d a g => Sys2Proof.Machine.execShfl d a g s
  | .shflup d a g => Sys2Proof.Machine.execShflup d a g s
  | .shfldn d a g => Sys2Proof.Machine.execShfldn d a g s
  | .shflx d a g => Sys2Proof.Machine.execShflx d a g s
  | .bcst d a g => Sys2Proof.Machine.execBcst d a g s
  | .prev d a g => Sys2Proof.Machine.execPrev d a g s
  | .scanAdd d a g => Sys2Proof.Machine.execScanAdd d a g s
  | .scanMin d a g => Sys2Proof.Machine.execScanMin d a g s
  | .scanMax d a g => Sys2Proof.Machine.execScanMax d a g s
  | .scanMinz d a g => Sys2Proof.Machine.execScanMinz d a g s
  | .scanMaxz d a g => Sys2Proof.Machine.execScanMaxz d a g s
  | .scanAnd d a g => Sys2Proof.Machine.execScanAnd d a g s
  | .scanOr d a g => Sys2Proof.Machine.execScanOr d a g s
  | .scanFadd d a g => Sys2Proof.Machine.execScanFadd d a g s
  | .redAdd d a g => Sys2Proof.Machine.execRedAdd d a g s
  | .redMin d a g => Sys2Proof.Machine.execRedMin d a g s
  | .redMax d a g => Sys2Proof.Machine.execRedMax d a g s
  | .redMinz d a g => Sys2Proof.Machine.execRedMinz d a g s
  | .redMaxz d a g => Sys2Proof.Machine.execRedMaxz d a g s
  | .redAnd d a g => Sys2Proof.Machine.execRedAnd d a g s
  | .redOr d a g => Sys2Proof.Machine.execRedOr d a g s
  | .redFadd d a g => Sys2Proof.Machine.execRedFadd d a g s
  | .voteAny d a g => Sys2Proof.Machine.execVoteAny d a g s
  | .voteAll d a g => Sys2Proof.Machine.execVoteAll d a g s
  | .voteUni d a g => Sys2Proof.Machine.execVoteUni d a g s
  | .ballot d a g => Sys2Proof.Machine.execBallot d a g s
  | .matchEq d a g => Sys2Proof.Machine.execMatchEq d a g s
  | .uadd d a b => Sys2Proof.Machine.execUadd d a b s
  | .usub d a b => Sys2Proof.Machine.execUsub d a b s
  | .uand d a b => Sys2Proof.Machine.execUand d a b s
  | .uor d a b => Sys2Proof.Machine.execUor d a b s
  | .uxor d a b => Sys2Proof.Machine.execUxor d a b s
  | .ushl d a b => Sys2Proof.Machine.execUshl d a b s
  | .ushr d a b => Sys2Proof.Machine.execUshr d a b s
  | .usar d a b => Sys2Proof.Machine.execUsar d a b s
  | .umul d a b => Sys2Proof.Machine.execUmul d a b s
  | .umin d a b => Sys2Proof.Machine.execUmin d a b s
  | .umax d a b => Sys2Proof.Machine.execUmax d a b s
  | .uminz d a b => Sys2Proof.Machine.execUminz d a b s
  | .umaxz d a b => Sys2Proof.Machine.execUmaxz d a b s
  | .uaddi d a imm => Sys2Proof.Machine.execUaddi d a imm s
  | .umovi d imm => Sys2Proof.Machine.execUmovi d imm s
  | .umovh d imm => Sys2Proof.Machine.execUmovh d imm s
  | .rdg x g => Sys2Proof.Machine.execRdg x g s
  | .wrgf x g => Sys2Proof.Machine.execWrgf x g s
  | .wrgt x g n => Sys2Proof.Machine.execWrgt x g n s
  | .ldb d a l o => Sys2Proof.Machine.execLdb d a l o s
  | .ldbs d a l o => Sys2Proof.Machine.execLdbs d a l o s
  | .ldh d a l o => Sys2Proof.Machine.execLdh d a l o s
  | .ldhs d a l o => Sys2Proof.Machine.execLdhs d a l o s
  | .ldw d a l o => Sys2Proof.Machine.execLdw d a l o s
  | .ldd d a l o => Sys2Proof.Machine.execLdd d a l o s
  | .ldq d a l o => Sys2Proof.Machine.execLdq d a l o s
  | .stb y a g o => Sys2Proof.Machine.execStb y a g o s
  | .sth y a g o => Sys2Proof.Machine.execSth y a g o s
  | .stw y a g o => Sys2Proof.Machine.execStw y a g o s
  | .std y a g o => Sys2Proof.Machine.execStd y a g o s
  | .stq y a g o => Sys2Proof.Machine.execStq y a g o s
  | .uldw d a l o => Sys2Proof.Machine.execUldw d a l o s
  | .uldd d a l o => Sys2Proof.Machine.execUldd d a l o s
  | .atomAdd d a g r y w => Sys2Proof.Machine.execAtomAdd d a g r y w s
  | .atomMin d a g r y w => Sys2Proof.Machine.execAtomMin d a g r y w s
  | .atomMax d a g r y w => Sys2Proof.Machine.execAtomMax d a g r y w s
  | .atomMinz d a g r y w => Sys2Proof.Machine.execAtomMinz d a g r y w s
  | .atomMaxz d a g r y w => Sys2Proof.Machine.execAtomMaxz d a g r y w s
  | .atomAnd d a g r y w => Sys2Proof.Machine.execAtomAnd d a g r y w s
  | .atomOr d a g r y w => Sys2Proof.Machine.execAtomOr d a g r y w s
  | .atomXor d a g r y w => Sys2Proof.Machine.execAtomXor d a g r y w s
  | .atomxExch d a g r y w => Sys2Proof.Machine.execAtomxExch d a g r y w s
  | .atomxCas d a g r y w => Sys2Proof.Machine.execAtomxCas d a g r y w s
  | .atomxFadd d a g r y => Sys2Proof.Machine.execAtomxFadd d a g r y s
  | .fence m y => Sys2Proof.Machine.execFence m y s
  | .setclr c => Sys2Proof.Machine.execSetclr c s
  | .mon a => Sys2Proof.Machine.execMon a s
  | .monClr => Sys2Proof.Machine.execMonClr s
  | .mwait d t => Sys2Proof.Machine.execMwait d t s
  | .cede n => Sys2Proof.Machine.execCede n s
  | .invl1 y => Sys2Proof.Machine.execInvl1 y s
  | .pref a v => Sys2Proof.Machine.execPref a v s
  | .qfence q => Sys2Proof.Machine.execQfence q s
  | .clkrd d => Sys2Proof.Machine.execClkrd d s
  | .binit a b => Sys2Proof.Machine.execBinit a b s
  | .bexp a b => Sys2Proof.Machine.execBexp a b s
  | .barv a b => Sys2Proof.Machine.execBarv a b s
  | .bwait a b c l => Sys2Proof.Machine.execBwait a b c l s
  | .btest a b c l => Sys2Proof.Machine.execBtest a b c l s
  | .rinit a b c => Sys2Proof.Machine.execRinit a b c s
  | .awaitf a b c l => Sys2Proof.Machine.execAwaitf a b c l s
  | .rels a => Sys2Proof.Machine.execRels a s
  | .rstat a c l => Sys2Proof.Machine.execRstat a c l s
  | .awaitfEmpty a b c l => Sys2Proof.Machine.execAwaitfEmpty a b c l s
  | .cpy a b c => Sys2Proof.Machine.execCpy a b c s
  | .cpyt a b c => Sys2Proof.Machine.execCpyt a b c s
  | .cpys a b c => Sys2Proof.Machine.execCpys a b c s
  | .cpym a b c => Sys2Proof.Machine.execCpym a b c s
  | .cpyr a b c => Sys2Proof.Machine.execCpyr a b c s
  | .bra g j d => Sys2Proof.Machine.execBra g j d s
  | .call g j d => Sys2Proof.Machine.execCall g j d s
  | .calli a => Sys2Proof.Machine.execCalli a s
  | .bri a => Sys2Proof.Machine.execBri a s
  | .ret => Sys2Proof.Machine.execRet s
  | .join j => Sys2Proof.Machine.execJoin j s
  | .jmrk j => Sys2Proof.Machine.execJmrk j s
  | .jclr j => Sys2Proof.Machine.execJclr j s
  | .jsav j x => Sys2Proof.Machine.execJsav j x s
  | .jrst j x => Sys2Proof.Machine.execJrst j x s
  | .exit => Sys2Proof.Machine.execExit s
  | .yield => Sys2Proof.Machine.execYield s
  | .nop => Sys2Proof.Machine.execNop s
  | .mma c y t a b z => Sys2Proof.Machine.execMma c y t a b z s
  | .mma2 c y t a b z => Sys2Proof.Machine.execMma2 c y t a b z s
  | .acqa c => Sys2Proof.Machine.execAcqa c s
  | .rela c => Sys2Proof.Machine.execRela c s
  | .lda c y a => Sys2Proof.Machine.execLda c y a s
  | .sta c y a => Sys2Proof.Machine.execSta c y a s
  | .drain c y t a => Sys2Proof.Machine.execDrain c y t a s
  | .zacc c => Sys2Proof.Machine.execZacc c s
  | .accrd c x a => Sys2Proof.Machine.execAccrd c x a s
  | .accwr c x a => Sys2Proof.Machine.execAccwr c x a s
  | .srd x imm => Sys2Proof.Machine.execSrd x imm s
  | .swr x imm => Sys2Proof.Machine.execSwr x imm s
  | .trap n => Sys2Proof.Machine.execTrap n s
  | .bkpt n => Sys2Proof.Machine.execBkpt n s
  | .emit x n => Sys2Proof.Machine.execEmit x n s
  | .migr x => Sys2Proof.Machine.execMigr x s
  | .launch x g => Sys2Proof.Machine.execLaunch x g s
  | .haltctx c g => Sys2Proof.Machine.execHaltctx c g s
  | .rft => Sys2Proof.Machine.execRft s
  | .cycrd x => Sys2Proof.Machine.execCycrd x s
  | .trapDelivery g => Sys2Proof.Machine.execTrapDelivery g s
  | .workgroupStart gd team core => Sys2Proof.Machine.execWorkgroupStart gd team core s
  | .roundApply dom => Sys2Proof.Machine.execRoundApply dom s
  | .groupWake g => Sys2Proof.Machine.execGroupWake g s
  | .mwaitTimeout g => Sys2Proof.Machine.execMwaitTimeout g s
  | .cedeExpiry g => Sys2Proof.Machine.execCedeExpiry g s
  | .deadlock dom => Sys2Proof.Machine.execDeadlock dom s
  | .externalWriteLand imm => Sys2Proof.Machine.execExternalWriteLand imm s
  | .hostBarWrite addr data => Sys2Proof.Machine.execHostBarWrite addr data s
  | .hostCompletion g status data => Sys2Proof.Machine.execHostCompletion g status data s
  | .loadResponse g k => Sys2Proof.Machine.execLoadResponse g k s
  | .storePerform g k => Sys2Proof.Machine.execStorePerform g k s
  | .atomicPerform g k => Sys2Proof.Machine.execAtomicPerform g k s
  | .copyPerform imm status => Sys2Proof.Machine.execCopyPerform imm status s
  | .mxuComplete core => Sys2Proof.Machine.execMxuComplete core s
  | .migrArrival g core => Sys2Proof.Machine.execMigrArrival g core s
  | .haltctxComplete g => Sys2Proof.Machine.execHaltctxComplete g s
  | .tierMigration pte frame => Sys2Proof.Machine.execTierMigration pte frame s
  | .wayMove slice src dst => Sys2Proof.Machine.execWayMove slice src dst s
  | .timeSliceSwitch => Sys2Proof.Machine.execTimeSliceSwitch s
  | .machineCheck unit loc => Sys2Proof.Machine.execMachineCheck unit loc s
  | .faultRingWrite imm => Sys2Proof.Machine.execFaultRingWrite imm s
  | .tinvPage f va => Sys2Proof.Machine.execTinvPage f va s
  | .tinvAsid f asid => Sys2Proof.Machine.execTinvAsid f asid s
  | .tinvFunction f => Sys2Proof.Machine.execTinvFunction f s
  | .tinvComplete f => Sys2Proof.Machine.execTinvComplete f s
  | .facmdBaseFrame frame => Sys2Proof.Machine.execFacmdBaseFrame frame s
  | .facmdHugeFrame frame => Sys2Proof.Machine.execFacmdHugeFrame frame s
  | .facmdTableFrame frame => Sys2Proof.Machine.execFacmdTableFrame frame s
  | .facmdRelease => Sys2Proof.Machine.execFacmdRelease s
  | .freplyRetry f id => Sys2Proof.Machine.execFreplyRetry f id s
  | .freplyFail f id => Sys2Proof.Machine.execFreplyFail f id s
  | .qctlEnable q v => Sys2Proof.Machine.execQctlEnable q v s
  | .qctlDisable q v => Sys2Proof.Machine.execQctlDisable q v s
  | .qtailDoorbell q v => Sys2Proof.Machine.execQtailDoorbell q v s
  | .packetFetch q => Sys2Proof.Machine.execPacketFetch q s
  | .nopPacket q seq => Sys2Proof.Machine.execNopPacket q seq s
  | .launchPacket q seq => Sys2Proof.Machine.execLaunchPacket q seq s
  | .waitseq q seq => Sys2Proof.Machine.execWaitseq q seq s
  | .signal q seq => Sys2Proof.Machine.execSignal q seq s
  | .quiesceStop q seq => Sys2Proof.Machine.execQuiesceStop q seq s
  | .quiesceResume q seq => Sys2Proof.Machine.execQuiesceResume q seq s
  | .quiesceStopAndSave q seq => Sys2Proof.Machine.execQuiesceStopAndSave q seq s
  | .domainQuiesced dom => Sys2Proof.Machine.execDomainQuiesced dom s
  | .telemAttach q seq => Sys2Proof.Machine.execTelemAttach q seq s
  | .telemDetach q seq => Sys2Proof.Machine.execTelemDetach q seq s
  | .gridComplete gd => Sys2Proof.Machine.execGridComplete gd s
  | .pctlSave q => Sys2Proof.Machine.execPctlSave q s
  | .saveDone q => Sys2Proof.Machine.execSaveDone q s
  | .pctlRestore q => Sys2Proof.Machine.execPctlRestore q s
  | .pctlDiscard q => Sys2Proof.Machine.execPctlDiscard q s
  | .pcrEnable f v => Sys2Proof.Machine.execPcrEnable f v s
  | .pcrDisable f v => Sys2Proof.Machine.execPcrDisable f v s
  | .pcrFlr f v => Sys2Proof.Machine.execPcrFlr f v s
  | .pcieFlr f => Sys2Proof.Machine.execPcieFlr f s
  | .flrDone f => Sys2Proof.Machine.execFlrDone f s
  | .pfResourceWrite off v => Sys2Proof.Machine.execPfResourceWrite off v s
  | .tbudWrite f v => Sys2Proof.Machine.execTbudWrite f v s
  | .mergeSum f v => Sys2Proof.Machine.execMergeSum f v s
  | .mergeMax f v => Sys2Proof.Machine.execMergeMax f v s
  | .registerWrite off size v => Sys2Proof.Machine.execRegisterWrite off size v s
  | .tcoRecordIntake t => Sys2Proof.Machine.execTcoRecordIntake t s
  | .tcoRun t f => Sys2Proof.Machine.execTcoRun t f s
  | .budgetWindow t => Sys2Proof.Machine.execBudgetWindow t s
  | .fabricFlitReceive w0 w1 data => Sys2Proof.Machine.execFabricFlitReceive w0 w1 data s
  | .reductionResult w o => Sys2Proof.Machine.execReductionResult w o s
  | .boot images => Sys2Proof.Machine.execBoot images s
  | .spdmRequest req => Sys2Proof.Machine.execSpdmRequest req s
  | .copySourceReadDone imm => Sys2Proof.Machine.execCopySourceReadDone imm s
  | .barrierNetworkArrival imm => Sys2Proof.Machine.execBarrierNetworkArrival imm s
  | .nackRetry g => Sys2Proof.Machine.execNackRetry g s
  | .correctableError unit loc => Sys2Proof.Machine.execCorrectableError unit loc s
  | .mergeComplete f => Sys2Proof.Machine.execMergeComplete f s
  | .tdispRequest f msg => Sys2Proof.Machine.execTdispRequest f msg s

end Sys2Proof.Machine
end

