-- ==== Sys2Proof/Machine/Turn.lean ====
section
/-!
DEFINITION. The issue of a group as one step: who may issue, the fetch with an XT prefix (R257, R258, R266, R269), the
illegal word (R272), and the halt point of HALTCTX in ORDERED mode (R385).
-/
namespace Sys2Proof.Machine

/-! ### Who may issue -/

/-- Group `i` may issue: its grid runs, it is not asleep, parked or on its way, and no trap waits to be delivered; in
ORDERED mode its round is the next of its domain, and not beyond a quiesce (R121, R232). No register write waits (R50), and
no load is to be sent again first (R400). -/
def State.canIssue (s : State) (i : Nat) : Bool :=
  let g := s.grp i
  let root := s.rootOf i
  s.posted.isEmpty && (s.gridOf i).st == .running && root.st == .running && (s.gridOf i).status.isNone && g.issuing &&
    (!(s.gridOf i).ordered || (g.round ≤ root.applied && root.quiesce.all (fun q => g.round ≤ q.1))) && !s.trapDue i &&
    (g.priv == 1 || !g.resending)

/-- A load of group `i` is to be sent again: the group would issue next (R400). -/
def State.resendDue (s : State) (i : Nat) : Bool :=
  let g := s.grp i
  (s.gridOf i).st == .running && (s.rootOf i).st == .running && (s.gridOf i).status.isNone && g.issuing && g.priv != 1 &&
    g.resending

/-! ### The fetch -/

/-- The state in which group `i` issues: the word in flight is not known yet. -/
def State.startIssue (s : State) (i : Nat) : State :=
  { s with cur := i, at' := (s.grp i).sel, pfx := none, ir := 0 }

/-- The thread at which a fetch fault falls: the lowest of the path, or of those the walk still has to visit (R110). -/
def State.fetchThread (s : State) : Nat := s.allWalkers.headD s.me.lowest

/-- The word is an XT. -/
def isXt (w : Word) : Bool := (w.extractLsb' 26 6).toNat == 0x3F

/-- Fetches the word at the path's PC, and with an XT the word behind it (R266, R269). -/
def State.fetchPair (s : State) : State × Except Stop (Word × Option Word) :=
  match s.fetchWord s.cur s.at' s.fetchThread with
  | (s1, .error y) => (s1, .error y)
  | (s1, .ok w) =>
    if isXt w then
      match s1.fetchWord s1.cur (s1.at' + 4) s1.fetchThread with
      | (s2, .error y) => (s2, .error y)
      | (s2, .ok v) => (s2, .ok (w, some v))
    else (s1, .ok (w, none))

/-! ### Illegal words (R209, R269, R272) -/

/-- An illegal word of the full-group majors BAR, RING, COPY, MMA and MXO, or of SYS MIGR and LAUNCH, records its fault
at the lowest non-exited thread (R209, R264). -/
def fullWord (w : Word) : Bool :=
  let maj := (w.extractLsb' 26 6).toNat
  let fn := (w.extractLsb' 20 6).toNat
  (0x2C ≤ maj && maj ≤ 0x2E) || maj == 0x32 || maj == 0x33 || (maj == 0x34 && (fn == 5 || fn == 6))

/-- Such a word, and one of major XCH (R321), is performed whole. -/
def wholeWord (w : Word) : Bool := fullWord w || (w.extractLsb' 26 6).toNat == 0x15

/-- ILLEGAL at the word in flight. -/
def State.illegalWord (s : State) : State :=
  let g := s.me
  s.deliver s.cur { s.illegalTrap (if fullWord s.ir then g.lowestAlive else g.lowest) with whole := wholeWord s.ir }

/-- Runs the word in flight. -/
def State.runWord (s : State) (w : Word) : Host.Outcome State Fault Refusal :=
  match decodeWord w with
  | .ok i => exec i { s with ir := w }
  | .error _ => .next ({ s with ir := w } : State).illegalWord

/-- Runs an instruction with its prefix: the XT latches, then the word behind it runs; behind an XT another XT is
illegal, and so is any word behind an illegal XT (R266, R269). -/
def State.runPair (s : State) (w v : Word) : Host.Outcome State Fault Refusal :=
  match decodeWord w with
  | .error _ => .next ({ s with ir := v, pfx := some w } : State).illegalWord
  | .ok x =>
    match exec x { s with ir := w } with
    | .next s1 => if isXt v then .next ({ s1 with ir := v } : State).illegalWord else s1.runWord v
    | o => o

/-- Group `i` issues one instruction. -/
def State.issueGroup (s : State) (i : Nat) : Host.Outcome State Fault Refusal :=
  let s0 := s.startIssue i
  if s0.me.path = [] then .next (s0.selectPath i [] 0)
  else
    match s0.fetchPair with
    | (s1, .error y) => .next (s1.stopAt i false y)
    | (s1, .ok (w, none)) => s1.runWord w
    | (s1, .ok (w, some v)) => s1.runPair w v

/-! ### The halt point of HALTCTX in ORDERED mode (R385) -/

/-- A HALTCTX of another group in round h is in effect, and group `i` is in round h + 2. -/
def State.atHaltRound (s : State) (i : Nat) : Bool :=
  (s.gridOf i).ordered && (s.rootOf i).halt.any (fun h => h.2 != i && (s.grp i).round == h.1 + 2)

/-- What the group did would close the round, or would reach host, peer or MMIO space. -/
def Group.leftRound (g after : Group) : Bool :=
  g.round < after.round || after.closing.isSome || after.hostReq.isSome || after.st == .sleeping ||
    after.st == .migrating || (after.st == .retired && !after.halted)

/-- The group halts; what it buffered in the round is discarded and its copies of the round are cancelled. -/
def State.haltGroup (s : State) (i : Nat) : State :=
  let r := (s.grp i).round
  let ks := (s.openCopies (s.gridOf i).root).filter (fun k => s.copies[k]?.any (fun c => c.group == i && c.round == r))
  (s.cancelCopies ks).modGrp i (fun g => { g.stopWalk.halt with take := [], ops := [] })

/-- The issue would leave the round. -/
def State.issueLeaves (s : State) (i : Nat) : Bool :=
  match s.issueGroup i with
  | .next t => (s.grp i).leftRound (t.grp i)
  | _ => false

/-- The same of the instruction's walk of thread `t` alone, or, for 32, of its completion. -/
def State.threadLeaves (s : State) (i t : Nat) : Bool :=
  ({ s.modGrp i (fun g => { g with walkFrom := some t }) with cut := some (t + 1) } : State).issueLeaves i

/-- The next instruction of group `i` would close its round, whichever thread of it a fault or a SAVE may stop first: by its
weight, by what it is, or by what any of its threads reaches (R385). -/
def State.wouldLeave (s : State) (i : Nat) : Bool :=
  ({ s with cut := none } : State).issueLeaves i ||
    ((s.grp i).walkFrom.isNone && ((List.range 33).any (s.threadLeaves i)))

/-- An issue under HALTCTX: the instruction that would close round h + 2 is not issued. -/
def State.issueOrHalt (s : State) (i : Nat) : Host.Outcome State Fault Refusal :=
  if s.atHaltRound i && s.wouldLeave i then .next (s.haltGroup i) else s.issueGroup i

/-- The turn of group `i`, whose walk stops before thread `c` (R399). -/
def State.turnTo (s : State) (i c : Nat) : Host.Outcome State Fault Refusal :=
  let s1 : State := { s with cut := some c }
  if s1.canIssue i then
    match s1.issueOrHalt i with
    | .next t => .next { t with cut := none }
    | o => o
  else .next s

/-- The turn of group `i`: it issues, or one of its loads is sent again first. -/
def State.turn (s : State) (i : Nat) : Host.Outcome State Fault Refusal :=
  if s.canIssue i then s.issueOrHalt i else .next (if s.resendDue i then s.resend i else s)

end Sys2Proof.Machine
end

