-- ==== Sys2Proof/Machine/Policy.lean ====
section
/-!
DEFINITION. What a step does: an accepted register write is performed first (R50, R163); then the agent moves that the
agenda names; with an empty agenda, the first agent that can move in a fixed order. The order is the model's own; the
agenda gives every other one (log 7).
-/
namespace Sys2Proof.Machine

/-- What a step comes to. -/
abbrev Next := Host.Outcome State Fault Refusal

/-! ### Register writes -/

/-- Performs a register write as the row that bears its name. -/
def State.performRow (s : State) (c : Command) : Next :=
  match c with
  | .tinvPage f va => execTinvPage f va s
  | .tinvAsid f asid => execTinvAsid f asid s
  | .tinvFunction f => execTinvFunction f s
  | .freplyRetry f id => execFreplyRetry f id s
  | .freplyFail f id => execFreplyFail f id s
  | .qctlEnable q v => execQctlEnable q v s
  | .qctlDisable q v => execQctlDisable q v s
  | .qtail q v => execQtailDoorbell q v s
  | .pctlSave q => execPctlSave q s
  | .pctlRestore q => execPctlRestore q s
  | .pctlDiscard q => execPctlDiscard q s
  | .pcrEnable f v => execPcrEnable f v s
  | .pcrDisable f v => execPcrDisable f v s
  | .pcrFlr f v => execPcrFlr f v s
  | .pfResource off v => execPfResourceWrite off v s
  | .tbud f v => execTbudWrite f v s
  | .mergeSum f v => execMergeSum f v s
  | .mergeMax f v => execMergeMax f v s
  | .register off size v => .next (s.writeRegister off size v)

/-- The row of a register write: a write of MMIO space is decoded as it is performed, when the half that it does not carry
has its present value (R50; log 21). -/
def State.rowOf (s : State) (c : Command) : Option Command :=
  match c with
  | .register off size v => s.registerCommand off size v
  | c => some c

/-- Performs an accepted register write. -/
def State.perform (s : State) (c : Command) : Next := (s.rowOf c).elim (.next s) s.performRow

/-- An accepted register write can be performed: the records of the packets that it cancels can be written (R133, R218), and
contexts that stand on clusters which it takes from the pool can leave them (R441). -/
def State.commandOpen (s : State) (c : Command) : Bool :=
  match s.rowOf c with
  | some (.qctlDisable q _) => !s.queueOn q || s.cancelOpen q
  | some (.pcrEnable f v) => s.enableOpen f v
  | some (.pcrFlr f v) => !v.getLsbD 0 || s.enableOpen f v
  | some (.pfResource off v) => s.evictOpen (s.clusterChange (off - partBase 0) (v &&& partMask (off - partBase 0)))
  | _ => true

/-! ### The agenda -/

/-- A word of an instruction that groups issue: those are not events. -/
def isEvent (i : Instr) : Bool := (encode i).isNone

/-- The host writes its memory, or hardware drops a cached sector or translation (R57, R75, R91). -/
def State.byItself (s : State) (it : Item) : State :=
  match it with
  | .hostWrite a data => { s with host := writeBytes s.host a data }
  | .hostErr rs => { s with hostErr := rs }
  | .evictL1 c k => { s with l1 := s.l1.filter (fun x => !(x.owner == c && x.sector == k)) }
  | .evictRdc d k => { s with rdc := s.rdc.filter (fun x => !(x.owner == d && x.sector == k)) }
  | .evictL2 k => { s with l2 := s.l2.filter (fun x => x.sector != k) }
  | .evictTlb k => { s with tlb := s.tlb.eraseIdx k }
  | _ => s

/-- The agent of an agenda item moves. -/
def State.runItem (s : State) (it : Item) : Next :=
  match it with
  | .issue i => s.turn i
  | .issueTo i c => s.turnTo i c
  | .event e => if isEvent e then exec e s else .next s
  | x => .next (s.byItself x)

/-! ### The fixed order -/

/-- The first of some agents that may move, and its move. -/
def firstOf {α : Type} (xs : List α) (p : α → Bool) (f : α → State → Next) (s : State) : Option Next :=
  (xs.find? p).map (fun x => f x s)

/-- The move of the first kind of agent that has one. -/
def State.pick (s : State) : List (State → Option Next) → Next
  | [] => .next s
  | c :: r =>
    match c s with
    | some o => o
    | none => s.pick r

/-- A SAVE whose bytes can be written now. -/
def State.saveReady (s : State) (j : SaveJob) : Bool :=
  let gds := s.savedGrids j.queue
  s.saveOpen gds && (!s.copiesOpen gds || !(s.finishCopies gds).copiesOpen gds)

/-- A RESTORE that waits finds its resources now. -/
def State.restoreReady (s : State) (q : Nat) : Bool := !(s.restoreQueue q).restores.contains q

/-- Accesses in flight: group, place, kind. -/
def State.flights (s : State) : List (Nat × Nat × Nat) :=
  s.groupIds.flatMap (fun i => (List.range (s.grp i).flight.length).flatMap (fun k => [(i, k, 0), (i, k, 1), (i, k, 2)]))

/-- An access in flight may be performed, and has an effect. -/
def State.flightReady (s : State) (x : Nat × Nat × Nat) : Bool :=
  s.flightDue x.1 x.2.1 x.2.2 && (x.2.2 != 0 || (s.grp x.1).flight[x.2.1]?.any (fun f => f.gen == (s.grp x.1).gen))

/-- Performs an access in flight. -/
def performMove (x : Nat × Nat × Nat) : State → Next :=
  if x.2.2 = 0 then execLoadResponse x.1 x.2.1 else if x.2.2 = 1 then execStorePerform x.1 x.2.1 else execAtomicPerform x.1 x.2.1

/-- A free run of frames for an allocation of a function, when there is one at the start of a tier or of a channel, or
behind the frames held. -/
def State.freeRun (s : State) (f die : Nat) (cellar : Bool) (n : Nat) : Nat :=
  let b := tierBase die cellar
  let starts := if cellar then (s.channels f die).map (98304 * ·) else [0]
  ((starts ++ (s.heldIn die cellar).map (fun x => (x + n) / n * n)).map (b + ·)).find? (fun x => s.runFree f die cellar x n)
    |>.getD b

/-- The run that the fixed order takes for the allocator's command, and its length. -/
def State.allocRun (s : State) : Nat × Nat :=
  let c := s.facmd
  let n := if faOp c = 1 then 8192 else 1
  let t := match s.allocTier c n with
    | .ok t => t
    | .error _ => false
  (s.freeRun ((s.tenantFn (faTenant c)).getD 0) (faDie c) t n, n)

/-- The allocator's command can be performed: nothing is left that it waits for (R92, R99, R133, R212). -/
def State.allocOpen (s : State) : Bool :=
  let mine := s.framesOf s.fapte
  let (f, n) := s.allocRun
  s.allocBusy &&
    if faOp s.facmd = 3 then
      faPref s.facmd == 3 || !pteP (readPte s.tables s.fapte) || mine == [] || (s.framesQuiet mine && s.entryOpen s.fapte)
    else (match s.allocTier s.facmd n with
      | .ok t => s.runFree ((s.tenantFn (faTenant s.facmd)).getD 0) (faDie s.facmd) t f n && s.framesOk f n && s.entryOpen s.fapte
      | .error _ => true)

/-- The allocator performs its command. -/
def allocMove (s : State) : Next :=
  let c := s.facmd
  let f := s.allocRun.1
  if faOp c = 0 then execFacmdBaseFrame f s
  else if faOp c = 1 then execFacmdHugeFrame f s
  else if faOp c = 2 then execFacmdTableFrame f s
  else execFacmdRelease s

/-- Queues whose EN is set. -/
def State.liveQueues (s : State) : List Nat :=
  ((s.regs.filter (fun e => 0x200000 ≤ 4 * e.1 && 4 * e.1 < 0x300000 && 4 * e.1 % 64 == 8 && e.2.getLsbD 0)).map
    (fun e => (4 * e.1 - 0x200000) / 64))

/-- A packet may begin now. -/
def State.mayBegin (s : State) (p : Packet) : Bool :=
  p.live && p.st != .done && p.st != .begun && s.ready p && s.topPrio p && s.packetOpen p

/-- A packet begins. -/
def beginMove (p : Packet) : State → Next :=
  match p.kind with
  | 1 => execLaunchPacket p.queue p.seq
  | 2 => execWaitseq p.queue p.seq
  | 3 => execSignal p.queue p.seq
  | 4 =>
    match (p.word 3).toNat % 4 with
    | 1 => execQuiesceResume p.queue p.seq
    | 2 => execQuiesceStopAndSave p.queue p.seq
    | _ => execQuiesceStop p.queue p.seq
  | 5 => if p.telDetach then execTelemDetach p.queue p.seq else execTelemAttach p.queue p.seq
  | _ => execNopPacket p.queue p.seq

/-- No workgroup of a running context holds a core, nor the second core of its pair. -/
def State.coreIdle (s : State) (gd c : Nat) : Bool :=
  s.coreWgs c == [] && (!(s.grd gd).twoshot || s.coreWgs (c + 1) == [])

/-- A placement of a team in a cluster: each member on its own core, or on the first that takes it. With `idle`, a
logical core that is bound to none takes an idle core only. -/
def State.placeIn (s : State) (gd t : Nat) (idle : Bool) (cluster : Nat) : Option Nat :=
  let g := s.grd gd
  let cores := ((List.range 24).map (fun c => 24 * cluster + c)).filter (s.memberFits gd)
  let takes := fun k c => s.boundTo gd (t * g.team + k) c &&
    (!idle || s.coreIdle gd c || s.residents gd ((t * g.team + k) % g.lcores) != [])
  ((List.range g.team).foldl (fun (a : Option (List Nat)) k => a.bind (fun cs =>
    (cores.find? (fun c => !cs.contains c && takes k c)).map (fun c => cs ++ [c]))) (some [])).map
    (fun cs => cs.foldr (fun c m => c + 1152 * m) 0)

/-- The placement the fixed order takes: in ORDERED mode, where every slot is live (R212), a logical core that is bound to
none looks for an idle core in every cluster first, so that the core has room for its other slots. -/
def State.teamPlacement (s : State) (gd t : Nat) : Option Nat :=
  (if (s.grd gd).ordered then [true, false] else [false]).findSome? (fun idle =>
    (List.range 48).findSome? (fun k => (s.placeIn gd t idle k).filter (s.startDue gd t)))

/-- The first team of a grid that waits and may start, with the place that it takes. -/
def State.nextStart (s : State) (gd : Nat) : Option (Nat × Nat) :=
  (s.waitingTeams gd).findSome? (fun t =>
    if s.teamDue gd t then (s.teamPlacement gd t).map (fun c => (t, c)) else none)

/-- A team starts. -/
def startMove (s : State) : Option Next :=
  (List.range s.grids.length).findSome? (fun gd =>
    if (s.grd gd).st != .running || (s.grd gd).status.isSome then none
    else (s.nextStart gd).map (fun x => execWorkgroupStart gd x.1 x.2 s))

/-- A group on its way arrives at a core that takes it. -/
def arrivalMove (s : State) : Option Next :=
  s.groupIds.findSome? (fun i =>
    if (s.grp i).st != .migrating then none
    else (((List.range 144).map (fun c => 144 * (s.grp i).target + c) ++ [(s.grp i).core]).find? (fun c => s.arrivalOk i c)).map
      (fun c => execMigrArrival i c s))

/-- A grid may complete. -/
def State.mayComplete (s : State) (gd : Nat) : Bool := s.drained gd && s.completionOpen gd

/-- The turn of group `i`: it issues, or a load of it is sent again, or its sleep of FREE mode ends. -/
def groupTurn (i : Nat) (s : State) : Next :=
  if s.canIssue i || s.resendDue i then s.turn i else if (s.grp i).inMwait then execMwaitTimeout i s else execCedeExpiry i s

/-- Every kind of agent, in the fixed order. -/
def State.agents (s : State) : List (State → Option Next) :=
  let gs := s.groupIds
  let ds := List.range s.grids.length
  let n := gs.length
  [ firstOf s.saves s.saveReady (fun j => execSaveDone j.queue),
    firstOf s.restores s.restoreReady execPctlRestore,
    firstOf gs s.trapDue execTrapDelivery,
    firstOf (List.range s.copies.length) s.sourceDue execCopySourceReadDone,
    firstOf gs s.wakeDue execGroupWake,
    firstOf (List.range s.faults.length) s.recordDue execFaultRingWrite,
    firstOf (List.range s.ext.length) s.externalDue execExternalWriteLand,
    firstOf s.flights s.flightReady performMove,
    firstOf (List.range s.copies.length) (fun k => s.copies[k]?.any (fun c => s.copyDue k c || s.cancelDue c))
      (fun k => execCopyPerform k 0),
    firstOf s.mxu (fun o => (s.gridOf o.group).st != .saved) (fun o => execMxuComplete o.core),
    arrivalMove,
    firstOf (List.range s.barNet.length) s.messageDue execBarrierNetworkArrival,
    firstOf gs s.haltSettled execHaltctxComplete,
    firstOf gs s.retryOpen execNackRetry,
    firstOf (List.range 32) (fun f => (s.reg (transBase f + 0x20)).getLsbD 0 && s.settled f) execTinvComplete,
    firstOf s.flr (fun _ => true) execFlrDone,
    firstOf s.merges (fun _ => true) (fun m => execMergeComplete m.1),
    firstOf [()] (fun _ => s.allocOpen) (fun _ => allocMove),
    firstOf s.tcoIn (fun _ => true) (fun r => execTcoRecordIntake r.tco),
    firstOf s.tcoRuns (fun r => 0 < s.cyclesLeft r.tco r.fn) (fun r => execTcoRun r.tco r.fn),
    firstOf s.packets (fun p => p.detaching && s.detachOpen p) (fun p => execTelemDetach p.queue p.seq),
    firstOf s.reduce (fun r => (s.wholeNode r.win r.off).isSome) (fun r => execReductionResult r.win r.off),
    firstOf ds s.quiesced execDomainQuiesced,
    firstOf ds s.mayComplete execGridComplete,
    firstOf s.liveQueues s.fetchDue execPacketFetch,
    firstOf s.packets s.mayBegin beginMove,
    startMove,
    firstOf ds s.roundDue execRoundApply,
    firstOf ((List.range n).map (fun k => (s.cur + 1 + k) % n)) (fun i => s.canIssue i || s.resendDue i || s.timing i) groupTurn,
    firstOf ds s.deadlocked execDeadlock,
    firstOf [()] (fun _ => s.nextSlice.isSome && s.switchOpen) (fun _ => execTimeSliceSwitch) ]

/-- The default move. -/
def State.idle (s : State) : Next := s.pick s.agents

/-- What the agenda names, or the default move. -/
def State.follow (s : State) : Next :=
  match s.agenda with
  | it :: r => ({ s with agenda := r } : State).runItem it
  | [] => s.idle

/-- What happens next. -/
def State.advance (s : State) : Next :=
  match s.posted with
  | c :: r => if s.commandOpen c then ({ s with posted := r } : State).perform c else s.follow
  | [] => s.follow

end Sys2Proof.Machine
end

