-- ==== Sys2Proof/Machine/Step.lean ====
section
/-!
DEFINITION. One step of the package: an accepted register write, else the agent that the agenda names, else the
agent that the default order finds. Also where a program stands so that the next step runs its first instruction.
-/
namespace Sys2Proof.Machine

/-- One step. -/
def step (s : State) : Host.Outcome State Fault Refusal := s.advance

/-- The launch record of a one-thread-group program: one workgroup of one group, every register, every tile and 64 KiB
of scratchpad, FREE mode, entry at the second page (R192). -/
def fetchRecord : List Byte :=
  leBytes 8 0x10000 ++ leBytes 8 0x20000 ++ leBytes 4 1 ++ leBytes 4 1 ++ leBytes 4 1 ++ leBytes 4 1 ++
    leBytes 2 1 ++ [16, 1] ++ leBytes 4 65536 ++ [8, 16, 0, 0] ++ List.replicate 212 0

/-- Page tables for two pages at 0x10000 and 0x20000 of an address space, in frames 1 to 3 of die 0; code in frame 4,
data in frame 5 (R84, R85). -/
def fetchTables (m : Sparse 8) : Sparse 8 :=
  let m1 := writeBytes m 0x10000 (leBytes 8 0x20001)
  let m2 := writeBytes m1 0x20000 (leBytes 8 0x30001)
  writeBytes m2 0x30008 (leBytes 8 0x40219 ++ leBytes 8 0x50209)

/-- The grid of that program, whose instructions are fetched from `code`. -/
def fetchGrid (index : Nat) (code : Sparse 8) : Grid :=
  { Grid.blank with
    lrec := fetchRecord, dies := [0], root := index, table := 0x10000, asid := 0xFFF, code := code, nextTeam := 1,
    st := .running }

/-- Its workgroup. -/
def fetchWorkgroup (grid index : Nat) : Workgroup :=
  ⟨grid, 0, 0, index, 0, List.replicate 8 (.mxu 0), false, 0, [], []⟩

/-- Its group: all 32 threads at the entry. -/
def fetchGroup (grid wg : Nat) : Group :=
  { Group.blank with
    grid := grid, wg := wg, st := .running, exited := 0, sel := 0x10000,
    pc := (List.range 32).map (fun t => (t, 0x10000#64)) }

/-- The state with an instruction placed where the next step fetches it: a program that stands at the entry of a
launched grid, in a package whose dies have booted, and whose turn it is. -/
def State.withFetchWord (s : State) (_nbits w : Nat) : State :=
  let m := writeBytes (fetchTables s.mem) 0x40000 (leBytes 4 w)
  { s with
    mem := m
    tlb := s.tlb.filter (fun t => t.asid != 0xFFF)
    dies := s.dies.map (fun d => { d with up := true })
    grids := s.grids ++ [fetchGrid s.grids.length m]
    wgs := s.wgs ++ [fetchWorkgroup s.grids.length s.wgs.length]
    groups := s.groups ++ [fetchGroup s.grids.length s.wgs.length]
    posted := []
    agenda := [.issue s.groups.length] }

end Sys2Proof.Machine
end

