-- ==== Sys2Proof/Safety.lean ====
section
/-!
DEFINITION. The terms in which claims are stated: a run that does not stop, a group that is ready to issue, and what an
instruction leaves as it was.
-/
namespace Sys2Proof

/-- A step answers a next state. -/
def Runs (s : Machine.State) : Prop := ∃ t, Machine.step s = .next t

/-- `n` steps from a state answer next states. -/
def SafeFor : Nat → Machine.State → Prop
  | 0, _ => True
  | n + 1, s => ∃ t, Machine.step s = .next t ∧ SafeFor n t

namespace Machine

/-- Memories, register files of the package and tiles are in their canonical form. -/
abbrev Canonical (s : State) : Prop :=
  Memory.wf s.mem = true ∧ Memory.wf s.host = true ∧ Memory.wf s.scratch = true ∧ Sparse.wf s.tiles = true ∧
    Sparse.wf s.regs = true ∧ Sparse.wf s.tcoMem = true ∧ Sparse.wf s.tcoCycles = true ∧ Sparse.wf s.faultNext = true ∧
    Sparse.wf s.tickets = true

/-! ### Before an instruction -/

/-- The group in issue issues an instruction from its start to its end: it exists and runs, in its handler or not; some
thread is active; it waits for nothing; no walk of it is interrupted and none is to be stopped; no access of it is in
flight; and the PC stays within the address space (R211, R200, R110). -/
abbrev Ready (s : State) : Prop :=
  s.cur < s.groups.length ∧ (s.me.st = .running ∨ s.me.st = .handler) ∧ s.me.path ≠ [] ∧ s.held = false ∧ s.cut = none ∧
    s.me.walkFrom = none ∧ s.me.walk = .none ∧ s.me.flight = [] ∧ s.wordPc + 4 < 2 ^ 55

/-- An instruction of weight `w` leaves the group in its round: FREE mode, or the clock stays below the next multiple of
64 (R113). -/
abbrev InRound (s : State) (w : Nat) : Prop := (s.gridOf s.cur).ordered = true → s.me.lc % 64 + w < 64

/-- Two register ranges have no register in common. -/
abbrev Apart (a n b m : Nat) : Prop := a + n ≤ b ∨ b + m ≤ a

/-- Registers `r` to `r + n - 1` of a thread may be named: the group has them, `r` is a multiple of `n`, and no open
lookahead window covers one (R196, R256, R264). -/
abbrev ThreadRegs (s : State) (r n : Nat) : Prop :=
  r % n = 0 ∧ r + n ≤ (s.gridOf s.cur).nregs ∧ r + n ≤ 128 ∧
    ∀ w ∈ s.me.windows, w.uni = false → Apart w.reg w.count r n

/-- Uniform registers `r` to `r + n - 1` may be named. -/
abbrev UniformRegs (s : State) (r n : Nat) : Prop :=
  r % n = 0 ∧ r + n ≤ 32 ∧ ∀ w ∈ s.me.windows, w.uni = true → Apart w.reg w.count r n

/-- The window that an instruction with lookahead `la` opens over its destination (R263). -/
def opened (uni : Bool) (r n la : Nat) : List Window := if la = 0 then [] else [⟨r, uni, n, la⟩]

/-- State of copy `k`: 0 outstanding, 1 landed, 2 cancelled, 3 abandoned, 4 waits for a fault reply, 5 its ring slots are
filled and not landed yet, 6 its bytes are written and some of its credits are refused; 7 there is no such copy. -/
def State.copySt (s : State) (k : Nat) : Nat := (s.copies[k]?.map Copy.st).getD 7

/-- Copy `k` belongs to a context. -/
def State.copyIn (s : State) (root k : Nat) : Bool := s.copies[k]?.any (fun c => (s.gridOf c.group).root == root)

/-! ### After an instruction -/

/-- Everything but the groups is as it was, and so are the other groups. -/
def OutsideKept (s t : State) : Prop :=
  { t with groups := s.groups } = s ∧ t.groups.length = s.groups.length ∧ ∀ i, i ≠ s.cur → t.grp i = s.grp i

/-- Every copy that an L1 or an RDC holds is the sector at its home, and no access is in flight: a load finds the value of
memory in any cache (R53, R57). -/
abbrev Coherent (s : State) : Prop :=
  (∀ x ∈ s.l1 ++ s.rdc, x.data = s.homeSector x.sector) ∧ ∀ g ∈ s.groups, g.flight = []

/-- What loads leave besides the group: lines brought into the caches and the L2, free choices of the lines that leave
them, and the lines that the domain has read in its round and in its life (R53, R57, R133, R134). Everything else is as it was, and so are the
other groups. -/
def LoadKept (s t : State) : Prop :=
  { t with groups := s.groups, grids := s.grids, l1 := s.l1, rdc := s.rdc, l2 := s.l2, fv := s.fv } = s ∧
    t.groups.length = s.groups.length ∧ (∀ i, i ≠ s.cur → t.grp i = s.grp i) ∧
    (∀ k, { t.grd k with reads := (s.grd k).reads, seen := (s.grd k).seen } = s.grd k) ∧ ∀ x ∈ t.l1 ++ t.rdc, x.data = t.homeSector x.sector

/-- A group with clock, PCs, selected path and windows put back. -/
def Group.undoProgress (a b : Group) : Group :=
  { a with lc := b.lc, pc := b.pc, sel := b.sel, windows := b.windows }

/-- The group has gone on to the next instruction: its clock by the weight (R108), the PCs of the path by one word
(R257), the windows by one issue with its own opened (R263), and the next path is the one with the lowest PC
(R200). -/
def GoneOn (s t : State) (weight : Nat) (own : List Window) : Prop :=
  t.me.lc = s.me.lc + weight ∧
    (∀ k, t.me.pcOf k = if k ∈ s.me.path then s.wordPc + 4 else s.me.pcOf k) ∧
    t.me.windows = ((s.me.windows.map (fun w => { w with left := w.left - 1 })).filter (fun w => 0 < w.left)) ++ own ∧
    (∃ k ∈ t.me.eligible, t.me.sel = t.me.pcOf k) ∧ ∀ k ∈ t.me.eligible, t.me.sel ≤ t.me.pcOf k

/-- The windows of `s` after one more issue that opens none (R263). -/
def ticked (s : State) : List Window :=
  (s.me.windows.map (fun w => { w with left := w.left - 1 })).filter (fun w => 0 < w.left)

/-- The value of a guard for a thread: bit 3 negates the predicate that bits 2 to 0 name (R262). -/
abbrev Holds (s : State) (gd : BitVec 4) (k : Nat) : Prop := s.me.rp k (gd.toNat % 8) = decide (gd.toNat < 8)

/-- The path that issues next after `path` has issued at address `p` (R200): the lowest PC above `p`, if a thread of the
path has gone to `p` or below it or has parked and there is a PC above; else the lowest of all. -/
def NextPath (g : Group) (path : List Nat) (p : Nat) : Prop :=
  let back := ∃ k ∈ path, (k ∈ g.eligible ∧ g.pcOf k ≤ p) ∨ inMask g.parked k = true
  let counts := fun k => back → (∃ j ∈ g.eligible, p < g.pcOf j) → p < g.pcOf k
  (∃ k ∈ g.eligible, g.sel = g.pcOf k ∧ counts k) ∧ ∀ k ∈ g.eligible, counts k → g.sel ≤ g.pcOf k

/-- A control instruction has been issued: one more on the clock, the PCs `pcs`, the windows counted, and the next path
chosen. -/
def Steered (s t : State) (pcs : Nat → Nat) : Prop :=
  t.me.lc = s.me.lc + 1 ∧ (∀ k, t.me.pcOf k = pcs k) ∧ t.me.windows = ticked s ∧ NextPath t.me s.me.path s.at'

/-- Nothing holds the close of the group's round back: no copy, no MXU work (R113, R126, R369). -/
abbrev Settled (s : State) : Prop := s.copies = [] ∧ s.mxu = [] ∧ (s.gridOf s.cur).root < s.grids.length

/-- The ORDERED group has closed its round behind an instruction (R113, R114, R120): what it has buffered and done in the
round is its contribution, with `ops` as the last operations; it goes on in the next round with the group `g'` that the
instruction leaves, but for clock, PCs and windows, and with the flags of its MXU work. Nothing else changes. -/
def Closes (s t : State) (own : List Window) (ops : List OrdOp) (g' : Group) : Prop :=
  t.me.lc = 64 * (s.me.lc / 64 + 1) ∧
    (∀ k, t.me.pcOf k = if k ∈ s.me.path then s.wordPc + 4 else s.me.pcOf k) ∧ t.me.windows = ticked s ++ own ∧
    t.me.undoProgress s.me = { g' with take := [], ops := [], fx := g'.fx ||| s.me.fxLater, fxLater := 0 } ∧
    (∀ k, k ≠ s.cur → t.grp k = s.grp k) ∧ { t with groups := s.groups, grids := s.grids } = s ∧
    (t.grd (s.gridOf s.cur).root).contribs =
      (s.grd (s.gridOf s.cur).root).contribs ++ [⟨s.me.lc / 64, s.cur, s.me.take, s.me.ops ++ ops⟩] ∧
    ∀ k, k ≠ (s.gridOf s.cur).root → t.grd k = s.grd k

/-- An instruction completes and writes uniform registers `c` to `c + n - 1` with `v`, and may make the group's caches
forget lines, as an acquire does (R59). Nothing else changes. -/
def Reports (s : State) (i : Instr) (own : List Window) (c n : Nat) (v : Nat → Word) : Prop :=
  ∃ t, exec i s = .next t ∧ GoneOn s t 1 own ∧
    { t with groups := s.groups, grids := s.grids, l1 := s.l1, rdc := s.rdc } = s ∧ (∀ k, k ≠ s.cur → t.grp k = s.grp k) ∧
    t.l1.Sublist s.l1 ∧ t.rdc.Sublist s.rdc ∧ { t.me.undoProgress s.me with g := s.me.g } = s.me ∧
    ∀ r, t.me.rg r = if r ≠ 0 ∧ c ≤ r ∧ r < c + n then v (r - c) else s.me.rg r

/-- An instruction of a FREE group completes and stores `bytes` at the handle `h`: nothing else of the group but a ticket and its
refusals (R189), of memory, of the register file or of the tiles changes. -/
def StoresObject (s : State) (i : Instr) (h : Word) (bytes : List Byte) : Prop :=
  ∃ t, exec i s = .next t ∧ GoneOn s t 1 [] ∧ { t.me.undoProgress s.me with ticket := s.me.ticket, nack := s.me.nack } = s.me ∧
    t.mem = s.mem ∧ t.regs = s.regs ∧ t.host = s.host ∧ t.tiles = s.tiles ∧ t.wgs = s.wgs ∧ t.copies = s.copies ∧
    ∀ a, t.scratch.get a =
      if s.handleKey s.cur h ≤ a ∧ a < s.handleKey s.cur h + bytes.length then bytes.getD (a - s.handleKey s.cur h) 0
      else s.scratch.get a

/-- The FP32 sum of values in their order: the first rounded, each later one added with one rounding (R323). -/
def sumFadd (fpcr : Word) : List Word → Rounded
  | [] => ⟨0, 0⟩
  | v :: r => r.foldl (fun acc x =>
      let o := finish fpcr .f32 ((decodeFp .f32 acc.code).add (fpcrRm fpcr) (decodeFtzi fpcr .f32 x.toNat))
      ⟨o.code, acc.fx ||| o.fx⟩) (roundVec fpcr .f32 (decodeFtzi fpcr .f32 v.toNat))

/-- The flags that the threads of a path raise (R241). -/
def raised (path : List Nat) (fx : Nat → Fx) : Fx := path.foldl (fun m k => m ||| fx k) 0

/-- An instruction completes and writes `n` thread registers from `d` on, for every active thread: word `j` of thread `k`
becomes `v k j`, and thread `k` raises the flags `fx k`. Nothing else changes, but what `kept` leaves open. -/
def WritesThread (s : State) (i : Instr) (weight : Nat) (own : List Window) (d n : Nat) (v : Nat → Nat → Word)
    (fx : Nat → Fx := fun _ => 0) (kept : State → State → Prop := OutsideKept) : Prop :=
  ∃ t, exec i s = .next t ∧ kept s t ∧ GoneOn s t weight own ∧
    { t.me.undoProgress s.me with x := s.me.x, fx := s.me.fx } = s.me ∧ t.me.fx = s.me.fx ||| raised s.me.path fx ∧
    ∀ k r, r < 128 → t.me.rx k r = if k ∈ s.me.path ∧ d ≤ r ∧ r < d + n then v k (r - d) else s.me.rx k r

/-- An exchange instruction completes: as above, but it leaves its snapshot behind as well (R321), and raises `fx`. -/
def Exchanges (s : State) (i : Instr) (own : List Window) (d : Nat) (v : Nat → Word) (fx : Fx) : Prop :=
  ∃ t, exec i s = .next t ∧ OutsideKept s t ∧ GoneOn s t 1 own ∧
    { t.me.undoProgress s.me with x := s.me.x, fx := s.me.fx, snap := s.me.snap } = s.me ∧
    t.me.fx = s.me.fx ||| fx ∧
    ∀ k r, r < 128 → t.me.rx k r = if k ∈ s.me.path ∧ r = d then v k else s.me.rx k r

/-- An instruction completes and writes predicate `p` of every active thread `k` with `v k`, which raises the flags
`fx k`. Nothing else changes. -/
def WritesPredicate (s : State) (i : Instr) (weight : Nat) (p : Nat) (v : Nat → Bool)
    (fx : Nat → Fx := fun _ => 0) : Prop :=
  ∃ t, exec i s = .next t ∧ OutsideKept s t ∧ GoneOn s t weight [] ∧
    { t.me.undoProgress s.me with p := s.me.p, fx := s.me.fx } = s.me ∧ t.me.fx = s.me.fx ||| raised s.me.path fx ∧
    ∀ k q, k < 32 → q < 8 → t.me.rp k q = if k ∈ s.me.path ∧ q = p then v k else s.me.rp k q

/-- An instruction completes and writes uniform register `d` with `v`; g0 discards it. Nothing else changes. -/
def WritesUniform (s : State) (i : Instr) (weight : Nat) (d : Nat) (v : Word) : Prop :=
  ∃ t, exec i s = .next t ∧ OutsideKept s t ∧ GoneOn s t weight [] ∧
    { t.me.undoProgress s.me with g := s.me.g } = s.me ∧
    ∀ r, t.me.rg r = if r = d ∧ d ≠ 0 then v else s.me.rg r

/-- Only the 64-bit control registers at the offsets of a list have changed, each to its value. -/
def RegsSet (s t : State) (l : List (Nat × Dword)) : Prop :=
  ∀ a, t.reg a = match l.find? (fun e => e.1 / 4 == a / 4 || e.1 / 4 + 1 == a / 4) with
    | some e => if e.1 / 4 = a / 4 then e.2.extractLsb' 0 32 else e.2.extractLsb' 32 32
    | none => s.reg a

/-- Packet `ix` of a queue whose completion ring lies in host memory has completed (R223, R230, R231): its record stands in
the slot of its sequence number, QDONE is the watermark of what is done, INT has raised VEC, and nothing else has changed
but what telemetry receives. -/
def PacketEnds (u t : State) (ix : Nat) (p : Packet) (status : Nat) (detail : Dword) : Prop :=
  let b := 0x00200000 + 64 * p.queue
  let slot := (u.reg64 (b + 0x18)).toNat % 2 ^ 53 + 64 * ((p.seq - 1) % 2 ^ ((u.reg64 (b + 8)).toNat / 16 % 16 + 4))
  let fn := (u.queueOwner p.queue).getD 0
  let isDone := fun (j : Nat) => ∃ x ∈ t.packets, x.live = true ∧ x.queue = p.queue ∧ x.seq = j ∧ x.st = .done
  { t with regs := u.regs, host := u.host, packets := u.packets, irqs := u.irqs, tcoIn := u.tcoIn, tv := u.tv } = u ∧
    t.packets = u.packets.set ix { p with st := .done } ∧
    t.irqs = u.irqs ++ (if (p.word 0).getLsbD 9 = true then [(fn, ((p.word 0).extractLsb' 16 11).toNat)] else []) ∧
    (u.watched 8 0x50 (u.fnTenant fn) = false → t.tcoIn = u.tcoIn ∧ t.tv = u.tv) ∧
    (∃ m, (u.reg64 (b + 0x30)).toNat ≤ m ∧ (∀ j, (u.reg64 (b + 0x30)).toNat < j → j ≤ m → isDone j) ∧ ¬isDone (m + 1) ∧
      RegsSet u t [(b + 0x30, BitVec.ofNat 64 m)]) ∧
    readBytes t.host slot 4 = status ∧ readBytes t.host (slot + 4) 2 = u.localQueue fn p.queue % 65536 ∧
    readBytes t.host (slot + 8) 8 = p.seq % 2 ^ 64 ∧ readBytes t.host (slot + 40) 8 = detail.toNat ∧
    ∀ a, a < slot ∨ slot + 64 ≤ a → t.host.get a = u.host.get a

/-- The completion ring of a queue lies in host memory (SPACE 4), and the host answers without errors. -/
abbrev HostRing (s : State) (q : Nat) : Prop :=
  q < 16384 ∧ (s.reg64 (0x00200000 + 64 * q + 0x18)).toNat / 2 ^ 53 = 2 ^ 9 ∧ s.hostErr = []

/-- An instruction completes and changes of its group only what `f` changes, its clock and its PCs. -/
def Changes (s : State) (i : Instr) (weight : Nat) (own : List Window) (f : Group → Group) : Prop :=
  ∃ t, exec i s = .next t ∧ OutsideKept s t ∧ GoneOn s t weight own ∧ t.me.undoProgress s.me = f s.me

end Machine

end Sys2Proof
end

