-- ==== Sys2Proof/Certificates/Slice0/Obligations.lean ====
section
/-!
DEFINITION. The statements for the provers: one proposition each, written from the numbered rules of the spec in the
terms of Sys2Proof/Safety.lean.
-/
open Sys2Proof Sys2Proof.Machine

/-! ### Integer instructions -/

/-- R285, the forms with two single sources, and PACK2 (R318). A shift amount is the low five bits of b. -/
def Obligations.IntegerTwoSourceResults : Prop :=
  ∀ (s : State) (d a b : BitVec 7), Ready s → InRound s 1 → pfxOpd false s.pfx = true →
    ThreadRegs s d.toNat 1 → ThreadRegs s a.toNat 1 → ThreadRegs s b.toNat 1 →
    let W := fun (i : Instr) (op : Word → Word → Word) =>
      WritesThread s i 1 (opened false d.toNat 1 (pfxLa s.pfx)) d.toNat 1
        (fun k _ => op (s.me.rx k a.toNat) (s.me.rx k b.toNat))
    W (.add d a b) (fun x y => BitVec.ofNat 32 (x.toNat + y.toNat)) ∧
    W (.sub d a b) (fun x y => BitVec.ofInt 32 ((x.toNat : Int) - y.toNat)) ∧
    W (.and d a b) (fun x y => x &&& y) ∧ W (.or d a b) (fun x y => x ||| y) ∧
    W (.xor d a b) (fun x y => x ^^^ y) ∧ W (.andn d a b) (fun x y => x &&& ~~~y) ∧
    W (.shl d a b) (fun x y => BitVec.ofNat 32 (x.toNat * 2 ^ (y.toNat % 32))) ∧
    W (.shr d a b) (fun x y => BitVec.ofNat 32 (x.toNat / 2 ^ (y.toNat % 32))) ∧
    W (.sar d a b) (fun x y => BitVec.ofInt 32 (x.toInt / 2 ^ (y.toNat % 32))) ∧
    W (.rotl d a b) (fun x y => x.rotateLeft (y.toNat % 32)) ∧
    W (.min d a b) (fun x y => BitVec.ofInt 32 (min x.toInt y.toInt)) ∧
    W (.max d a b) (fun x y => BitVec.ofInt 32 (max x.toInt y.toInt)) ∧
    W (.minz d a b) (fun x y => BitVec.ofNat 32 (min x.toNat y.toNat)) ∧
    W (.maxz d a b) (fun x y => BitVec.ofNat 32 (max x.toNat y.toNat)) ∧
    W (.mul d a b) (fun x y => BitVec.ofNat 32 (x.toNat * y.toNat)) ∧
    W (.mulh d a b) (fun x y => BitVec.ofInt 32 (x.toInt * y.toInt / 2 ^ 32)) ∧
    W (.mulhz d a b) (fun x y => BitVec.ofNat 32 (x.toNat * y.toNat / 2 ^ 32)) ∧
    W (.absd d a b) (fun x y => BitVec.ofNat 32 (x.toInt - y.toInt).natAbs) ∧
    W (.sadd d a b) (fun x y => BitVec.ofInt 32 (max (-2 ^ 31) (min (2 ^ 31 - 1) (x.toInt + y.toInt)))) ∧
    W (.ssub d a b) (fun x y => BitVec.ofInt 32 (max (-2 ^ 31) (min (2 ^ 31 - 1) (x.toInt - y.toInt)))) ∧
    W (.pack2 d a b) (fun x y => BitVec.ofNat 32 (y.toNat % 2 ^ 16 * 2 ^ 16 + x.toNat % 2 ^ 16))

/-- R285, the pair forms, and the forms with one source. -/
def Obligations.IntegerPairAndUnaryResults : Prop :=
  ∀ (s : State) (d a b : BitVec 7), Ready s → InRound s 1 → pfxOpd false s.pfx = true →
    (ThreadRegs s d.toNat 2 → ThreadRegs s a.toNat 2 → ThreadRegs s b.toNat 2 →
      let W := fun (i : Instr) (v : Dword → Dword → Dword) =>
        WritesThread s i 1 (opened false d.toNat 2 (pfxLa s.pfx)) d.toNat 2
          (fun k j => (v (s.me.rx64 k a.toNat) (s.me.rx64 k b.toNat)).extractLsb' (32 * j) 32)
      W (.add64 d a b) (fun x y => BitVec.ofNat 64 (x.toNat + y.toNat)) ∧
      W (.sub64 d a b) (fun x y => BitVec.ofInt 64 ((x.toNat : Int) - y.toNat))) ∧
    (ThreadRegs s d.toNat 1 → ThreadRegs s a.toNat 1 →
      let W := fun (i : Instr) (v : Word → Word) =>
        WritesThread s i 1 (opened false d.toNat 1 (pfxLa s.pfx)) d.toNat 1 (fun k _ => v (s.me.rx k a.toNat))
      W (.popc d a) (fun x => BitVec.ofNat 32 ((List.range 32).countP (fun i => x.getLsbD i))) ∧
      W (.clz d a) (fun x => x.clz) ∧
      W (.brev d a) (fun x => x.reverse))

/-- R291: the addend is the register that XT.OPD names, else d. -/
def Obligations.MultiplyAddResults : Prop :=
  ∀ (s : State) (d a b : BitVec 7), Ready s → InRound s 1 → pfxOpd true s.pfx = true →
    ThreadRegs s a.toNat 1 → ThreadRegs s b.toNat 1 →
    let c := (s.pfx.map (fun w => (w.extractLsb' 0 7).toNat)).getD d.toNat
    (ThreadRegs s d.toNat 1 → ThreadRegs s c 1 →
      WritesThread s (.imad d a b) 1 (opened false d.toNat 1 (pfxLa s.pfx)) d.toNat 1
        (fun k _ => BitVec.ofNat 32 ((s.me.rx k a.toNat).toNat * (s.me.rx k b.toNat).toNat + (s.me.rx k c).toNat))) ∧
    (ThreadRegs s d.toNat 2 → ThreadRegs s c 2 →
      WritesThread s (.imadw d a b) 1 (opened false d.toNat 2 (pfxLa s.pfx)) d.toNat 2
        (fun k j => (BitVec.ofInt 64 ((s.me.rx k a.toNat).toInt * (s.me.rx k b.toNat).toInt +
          (s.me.rx64 k c).toNat)).extractLsb' (32 * j) 32) ∧
      WritesThread s (.imadwz d a b) 1 (opened false d.toNat 2 (pfxLa s.pfx)) d.toNat 2
        (fun k j => (BitVec.ofNat 64 ((s.me.rx k a.toNat).toNat * (s.me.rx k b.toNat).toNat +
          (s.me.rx64 k c).toNat)).extractLsb' (32 * j) 32))

/-- R286, R287 and R288: with XT.IMM the operand is the 32 bits of R267. -/
def Obligations.ImmediateResults : Prop :=
  ∀ (s : State) (d a : BitVec 7), Ready s → InRound s 1 → ThreadRegs s d.toNat 1 → ThreadRegs s a.toNat 1 →
    let W := fun (i : Instr) (v : Nat → Word) => WritesThread s i 1 [] d.toNat 1 (fun k _ => v k)
    (∀ i : BitVec 12, s.pfx = none →
      W (.addi d a i) (fun k => BitVec.ofInt 32 ((s.me.rx k a.toNat).toNat + i.toInt)) ∧
      W (.andi d a i) (fun k => s.me.rx k a.toNat &&& BitVec.ofNat 32 i.toNat) ∧
      W (.ori d a i) (fun k => s.me.rx k a.toNat ||| BitVec.ofNat 32 i.toNat) ∧
      W (.xori d a i) (fun k => s.me.rx k a.toNat ^^^ BitVec.ofNat 32 i.toNat)) ∧
    (∀ (i : BitVec 12) (x : BitVec 20), s.pfx = some (0xFC0#12 ++ x) →
      W (.addi d a i) (fun k => s.me.rx k a.toNat + (x ++ i)) ∧ W (.andi d a i) (fun k => s.me.rx k a.toNat &&& (x ++ i)) ∧
      W (.ori d a i) (fun k => s.me.rx k a.toNat ||| (x ++ i)) ∧ W (.xori d a i) (fun k => s.me.rx k a.toNat ^^^ (x ++ i))) ∧
    (∀ n : BitVec 5, s.pfx = none →
      W (.shfiShl d a n) (fun k => BitVec.ofNat 32 ((s.me.rx k a.toNat).toNat * 2 ^ n.toNat)) ∧
      W (.shfiShr d a n) (fun k => BitVec.ofNat 32 ((s.me.rx k a.toNat).toNat / 2 ^ n.toNat)) ∧
      W (.shfiSar d a n) (fun k => BitVec.ofInt 32 ((s.me.rx k a.toNat).toInt / 2 ^ n.toNat)) ∧
      W (.shfiRotl d a n) (fun k => (s.me.rx k a.toNat).rotateLeft n.toNat)) ∧
    (∀ i : BitVec 19, s.pfx = none →
      W (.movi d i) (fun _ => BitVec.ofInt 32 i.toInt) ∧
      W (.movh d i) (fun k => BitVec.ofNat 32 (i.toNat * 2 ^ 13 + (s.me.rx k d.toNat).toNat % 2 ^ 13)))

/-- R290 and R292: a field of `n` bits at bit `p`, and the guard of SEL (R262). -/
def Obligations.FieldAndSelectResults : Prop :=
  ∀ (s : State) (d a b : BitVec 7), Ready s → InRound s 1 → ThreadRegs s d.toNat 1 → ThreadRegs s a.toNat 1 →
    (∀ p l : BitVec 5, p.toNat + (l.toNat + 1) ≤ 32 → pfxOpd false s.pfx = true →
      let n := l.toNat + 1
      let W := fun (i : Instr) (v : Word → Word → Word) =>
        WritesThread s i 1 (opened false d.toNat 1 (pfxLa s.pfx)) d.toNat 1
          (fun k _ => v (s.me.rx k d.toNat) (s.me.rx k a.toNat))
      W (.bfe d a p l) (fun _ x => ((x.extractLsb' p.toNat n).signExtend 32)) ∧
      W (.bfez d a p l) (fun _ x => ((x.extractLsb' p.toNat n).setWidth 32)) ∧
      W (.bfi d a p l) (fun o x => BitVec.ofNat 32 (o.toNat % 2 ^ p.toNat + x.toNat % 2 ^ n * 2 ^ p.toNat +
        o.toNat / 2 ^ (p.toNat + n) * 2 ^ (p.toNat + n))) ∧
      W (.bmsk d p l) (fun _ _ => BitVec.ofNat 32 ((2 ^ n - 1) * 2 ^ p.toNat))) ∧
    (∀ g : BitVec 4, ThreadRegs s b.toNat 1 → s.pfx = none →
      WritesThread s (.sel d a b g) 1 [] d.toNat 1 (fun k _ =>
        if (s.me.rp k (g.toNat % 8)) = decide (g.toNat < 8) then s.me.rx k a.toNat else s.me.rx k b.toNat))

/-- R289: the condition, and how it meets the old predicate. -/
def Obligations.IntegerCompareResults : Prop :=
  ∀ (s : State) (p : BitVec 3) (c : BitVec 4) (a b : BitVec 7), Ready s → InRound s 1 → p.toNat < 7 →
    let cond := fun (w : Nat) (x y : BitVec w) => match c.toNat with
      | 0 => decide (x = y)
      | 1 => decide (x ≠ y)
      | 2 => decide (x.toInt < y.toInt)
      | 3 => decide (x.toInt ≤ y.toInt)
      | 4 => decide (y.toInt < x.toInt)
      | 5 => decide (y.toInt ≤ x.toInt)
      | 6 => decide (x.toNat < y.toNat)
      | 7 => decide (x.toNat ≤ y.toNat)
      | 8 => decide (y.toNat < x.toNat)
      | _ => decide (y.toNat ≤ x.toNat)
    let into := fun (m : BitVec 2) (k : Nat) (r : Bool) => match m.toNat with
      | 0 => r
      | 1 => s.me.rp k p.toNat && r
      | 2 => s.me.rp k p.toNat || r
      | _ => !r
    c.toNat < 10 →
    (∀ m : BitVec 2, s.pfx = none →
      (ThreadRegs s a.toNat 1 → ThreadRegs s b.toNat 1 →
        WritesPredicate s (.icmp p m a b c 0) 1 p.toNat
          (fun k => into m k (cond 32 (s.me.rx k a.toNat) (s.me.rx k b.toNat)))) ∧
      (ThreadRegs s a.toNat 2 → ThreadRegs s b.toNat 2 →
        WritesPredicate s (.icmp p m a b c 1) 1 p.toNat
          (fun k => into m k (cond 64 (s.me.rx64 k a.toNat) (s.me.rx64 k b.toNat))))) ∧
    (∀ i : BitVec 12, ThreadRegs s a.toNat 1 →
      (s.pfx = none → WritesPredicate s (.icmpi p c a i) 1 p.toNat
        (fun k => cond 32 (s.me.rx k a.toNat) (BitVec.ofInt 32 i.toInt))) ∧
      ∀ x : BitVec 20, s.pfx = some (0xFC0#12 ++ x) →
        WritesPredicate s (.icmpi p c a i) 1 p.toNat (fun k => cond 32 (s.me.rx k a.toNat) (x ++ i)))

/-! ### Pointers -/

/-- R293 and R294: the pointer instructions, where none of the path raises. Readings of the model: log 36. -/
def Obligations.PointerResults : Prop :=
  ∀ (s : State) (d a b : BitVec 7), Ready s → InRound s 1 → pfxOpd false s.pfx = true → ThreadRegs s a.toNat 2 →
    let p := fun k => s.me.rx64 k a.toNat
    let n := fun k => s.me.rx k b.toNat
    (ThreadRegs s d.toNat 2 → ThreadRegs s b.toNat 1 →
      let W := fun (i : Instr) (v : Nat → Dword) =>
        WritesThread s i 1 (opened false d.toNat 2 (pfxLa s.pfx)) d.toNat 2 (fun k j => (v k).extractLsb' (32 * j) 32)
      ((∀ k ∈ s.me.path, 0 ≤ ((p k).toNat % 2 ^ 55 : Int) + (n k).toInt ∧
          ((p k).toNat % 2 ^ 55 : Int) + (n k).toInt < 2 ^ 55) →
        W (.padd d a b) (fun k =>
          BitVec.ofInt 64 ((p k).toNat / 2 ^ 55 * 2 ^ 55 + ((p k).toNat % 2 ^ 55 + (n k).toInt)))) ∧
      W (.ptag d a b) (fun k => BitVec.ofNat 64
        ((n k).toNat % 16 * 2 ^ 60 + (n k).toNat / 16 % 32 * 2 ^ 55 + (p k).toNat % 2 ^ 55)) ∧
      ((∀ k ∈ s.me.path, (p k).toNat / 2 ^ 60 = 1 ∧ (n k).toNat < (s.gridOf s.cur).teamCores) →
        W (.prank d a b) (fun k => BitVec.ofNat 64 (2 ^ 60 + (n k).toNat % 32 * 2 ^ 55 + (p k).toNat % 2 ^ 55)))) ∧
    (ThreadRegs s d.toNat 1 →
      let W := fun (i : Instr) (v : Nat → Word) =>
        WritesThread s i 1 (opened false d.toNat 1 (pfxLa s.pfx)) d.toNat 1 (fun k _ => v k)
      W (.pinfo d a) (fun k => BitVec.ofNat 32 ((if s.pointerOk s.cur (p k) then 512 else 0) +
        (p k).toNat / 2 ^ 55 % 32 * 16 + (p k).toNat / 2 ^ 60)) ∧
      ((∀ k ∈ s.me.path, (p k).toNat / 2 ^ 60 = 1 ∧ (p k).toNat / 2 ^ 19 % 2 ^ 36 = 0) →
        W (.phnd d a) (fun k => BitVec.ofNat 32 ((p k).toNat / 2 ^ 55 % 32 * 2 ^ 27 + (p k).toNat % 2 ^ 19))))

/-! ### Uniform registers -/

/-- R295 to R297 and R255: what each uniform instruction writes; g0 reads as zero and discards the write. -/
def Obligations.UniformResults : Prop :=
  ∀ (s : State) (d a b : BitVec 5), Ready s → InRound s 1 → UniformRegs s d.toNat 1 → UniformRegs s a.toNat 1 →
    UniformRegs s b.toNat 1 →
    let x := s.me.rg a.toNat
    let y := s.me.rg b.toNat
    let W := fun (i : Instr) (v : Word) => WritesUniform s i 1 d.toNat v
    s.me.rg 0 = 0 ∧
    (s.pfx = none →
      W (.uadd d a b) (BitVec.ofNat 32 (x.toNat + y.toNat)) ∧
      W (.usub d a b) (BitVec.ofInt 32 ((x.toNat : Int) - y.toNat)) ∧
      W (.uand d a b) (x &&& y) ∧ W (.uor d a b) (x ||| y) ∧ W (.uxor d a b) (x ^^^ y) ∧
      W (.ushl d a b) (BitVec.ofNat 32 (x.toNat * 2 ^ (y.toNat % 32))) ∧
      W (.ushr d a b) (BitVec.ofNat 32 (x.toNat / 2 ^ (y.toNat % 32))) ∧
      W (.usar d a b) (BitVec.ofInt 32 (x.toInt / 2 ^ (y.toNat % 32))) ∧
      W (.umul d a b) (BitVec.ofNat 32 (x.toNat * y.toNat)) ∧
      W (.umin d a b) (BitVec.ofInt 32 (min x.toInt y.toInt)) ∧
      W (.umax d a b) (BitVec.ofInt 32 (max x.toInt y.toInt)) ∧
      W (.uminz d a b) (BitVec.ofNat 32 (min x.toNat y.toNat)) ∧
      W (.umaxz d a b) (BitVec.ofNat 32 (max x.toNat y.toNat)) ∧
      (∀ i : BitVec 16, W (.uaddi d a i) (BitVec.ofInt 32 (x.toNat + i.toInt)) ∧
        W (.umovi d i) (BitVec.ofInt 32 i.toInt) ∧
        W (.umovh d i) (BitVec.ofNat 32 (i.toNat * 2 ^ 16 + (s.me.rg d.toNat).toNat % 2 ^ 16))) ∧
      ∀ r : BitVec 7, ThreadRegs s r.toNat 1 →
        (∀ t ∈ s.me.path, (∀ k ∈ s.me.path, t ≤ k) → W (.wrgf r d) (s.me.rx t r.toNat)) ∧
        (∀ n : BitVec 5, W (.wrgt r d n) (s.me.rx n.toNat r.toNat)) ∧
        WritesThread s (.rdg r a) 1 [] r.toNat 1 (fun _ _ => x)) ∧
    ∀ (i h : BitVec 16), s.pfx = some (0xFC00#16 ++ h) →
      W (.uaddi d a i) (x + (h ++ i)) ∧ W (.umovi d i) (h ++ i)

/-! ### Floating point -/

/-- R310 to R318: the code and the flags that each form writes, under the FPCR of the grid. Readings of the model: log
12. -/
def Obligations.FloatResults : Prop :=
  ∀ (s : State) (d a b : BitVec 7), Ready s → InRound s 1 → ThreadRegs s d.toNat 1 → ThreadRegs s a.toNat 1 →
    let fpcr := (s.gridOf s.cur).fpcr
    let A := fun k => s.me.rx k a.toNat
    let B := fun k => s.me.rx k b.toNat
    let el := fun (j : Nat) (x : Word) => x.toNat / 2 ^ (16 * j) % 2 ^ 16
    let W := fun (i : Instr) (r : Nat → Rounded) =>
      WritesThread s i 1 (opened false d.toNat 1 (pfxLa s.pfx)) d.toNat 1
        (fun k _ => BitVec.ofNat 32 (r k).code) (fun k => (r k).fx)
    let two := fun (op : Nat → Nat → Rounded) (k : Nat) =>
      let lo := op (el 0 (A k)) (el 0 (B k))
      let hi := op (el 1 (A k)) (el 1 (B k))
      (⟨hi.code * 2 ^ 16 + lo.code, lo.fx ||| hi.fx⟩ : Rounded)
    (pfxOpd false s.pfx = true →
      (ThreadRegs s b.toNat 1 →
        W (.fadd d a b) (fun k => fpAdd fpcr .f32 (A k).toNat (B k).toNat) ∧
        W (.fsub d a b) (fun k => fpSub fpcr .f32 (A k).toNat (B k).toNat) ∧
        W (.fmul d a b) (fun k => fpMul fpcr .f32 (A k).toNat (B k).toNat) ∧
        W (.fmin d a b) (fun k => fpMinMax fpcr .f32 false (A k).toNat (B k).toNat) ∧
        W (.fmax d a b) (fun k => fpMinMax fpcr .f32 true (A k).toNat (B k).toNat) ∧
        W (.fcpys d a b) (fun k => fpCpys fpcr (A k) (B k)) ∧
        W (.hadd2F16 d a b) (two (fpAdd fpcr .f16)) ∧ W (.hadd2Bf16 d a b) (two (fpAdd fpcr .bf16)) ∧
        W (.hsub2F16 d a b) (two (fpSub fpcr .f16)) ∧ W (.hsub2Bf16 d a b) (two (fpSub fpcr .bf16)) ∧
        W (.hmul2F16 d a b) (two (fpMul fpcr .f16)) ∧ W (.hmul2Bf16 d a b) (two (fpMul fpcr .bf16)) ∧
        W (.hmin2F16 d a b) (two (fpMinMax fpcr .f16 false)) ∧ W (.hmin2Bf16 d a b) (two (fpMinMax fpcr .bf16 false)) ∧
        W (.hmax2F16 d a b) (two (fpMinMax fpcr .f16 true)) ∧ W (.hmax2Bf16 d a b) (two (fpMinMax fpcr .bf16 true))) ∧
      W (.fabs d a) (fun k => fpAbs fpcr (A k)) ∧ W (.fneg d a) (fun k => fpNeg fpcr (A k)) ∧
      W (.frndN d a) (fun k => fpRnd .rne fpcr (A k)) ∧ W (.frndZ d a) (fun k => fpRnd .rtz fpcr (A k)) ∧
      W (.frndP d a) (fun k => fpRnd .rup fpcr (A k)) ∧ W (.frndM d a) (fun k => fpRnd .rdn fpcr (A k)) ∧
      W (.rcp d a) (fun k => sfuRcp fpcr (A k)) ∧ W (.rsq d a) (fun k => sfuRsq fpcr (A k)) ∧
      W (.sqrt d a) (fun k => sfuSqrt fpcr (A k)) ∧ W (.exp2 d a) (fun k => sfuExp2 fpcr (A k)) ∧
      W (.log2 d a) (fun k => sfuLog2 fpcr (A k)) ∧ W (.sinpi d a) (fun k => sfuSinpi fpcr (A k)) ∧
      W (.cospi d a) (fun k => sfuCospi fpcr (A k)) ∧ W (.tanh d a) (fun k => sfuTanh fpcr (A k)) ∧
      W (.cvtF32F16 d a) (fun k => roundVec fpcr .f32 (decodeFtzi fpcr .f16 (el 0 (A k)))) ∧
      W (.cvtF16F32 d a) (fun k => roundVec fpcr .f16 (decodeFtzi fpcr .f32 (A k).toNat)) ∧
      W (.cvtF32Bf16 d a) (fun k => roundVec fpcr .f32 (decodeFtzi fpcr .bf16 (el 0 (A k)))) ∧
      W (.cvtBf16F32 d a) (fun k => roundVec fpcr .bf16 (decodeFtzi fpcr .f32 (A k).toNat)) ∧
      W (.cvtS32F32 d a) (fun k => fpCvtInt (-2 ^ 31) (2 ^ 31 - 1) fpcr (A k)) ∧
      W (.cvtZ32F32 d a) (fun k => fpCvtInt 0 (2 ^ 32 - 1) fpcr (A k)) ∧
      W (.cvtF32S32 d a) (fun k => roundVec fpcr .f32 (ofInt (A k).toInt)) ∧
      W (.cvtF32Z32 d a) (fun k => roundVec fpcr .f32 (ofInt (A k).toNat))) ∧
    (pfxOpd true s.pfx = true → ThreadRegs s b.toNat 1 →
      let c := (s.pfx.map (fun w => (w.extractLsb' 0 7).toNat)).getD d.toNat
      let C := fun k => s.me.rx k c
      let two3 := fun (f : Fmt) (k : Nat) =>
        let lo := fpFma fpcr f false false (el 0 (A k)) (el 0 (B k)) (el 0 (C k))
        let hi := fpFma fpcr f false false (el 1 (A k)) (el 1 (B k)) (el 1 (C k))
        (⟨hi.code * 2 ^ 16 + lo.code, lo.fx ||| hi.fx⟩ : Rounded)
      ThreadRegs s c 1 →
      W (.ffma d a b) (fun k => fpFma fpcr .f32 false false (A k).toNat (B k).toNat (C k).toNat) ∧
      W (.ffms d a b) (fun k => fpFma fpcr .f32 false true (A k).toNat (B k).toNat (C k).toNat) ∧
      W (.fnma d a b) (fun k => fpFma fpcr .f32 true false (A k).toNat (B k).toNat (C k).toNat) ∧
      W (.hfma2F16 d a b) (two3 .f16) ∧ W (.hfma2Bf16 d a b) (two3 .bf16))

/-- R316: the condition of FCMP on the values after FTZI, element by element, and how it meets the old predicate. -/
def Obligations.FloatCompareResults : Prop :=
  ∀ (s : State) (p ty : BitVec 3) (m : BitVec 2) (c : BitVec 4) (a b : BitVec 7), Ready s → InRound s 1 →
    s.pfx = none → p.toNat < 7 → c.toNat < 8 → ty.toNat < 3 → ThreadRegs s a.toNat 1 → ThreadRegs s b.toNat 1 →
    let fpcr := (s.gridOf s.cur).fpcr
    let cond := fun (f : Fmt) (x y : Nat) =>
      let u := decodeFtzi fpcr f x
      let v := decodeFtzi fpcr f y
      let nan := u = .nan ∨ v = .nan
      match c.toNat with
      | 0 => decide (¬nan ∧ u.lt v = false ∧ v.lt u = false)
      | 1 => decide (nan ∨ u.lt v = true ∨ v.lt u = true)
      | 2 => decide (¬nan ∧ u.lt v = true)
      | 3 => decide (¬nan ∧ v.lt u = false)
      | 4 => decide (¬nan ∧ v.lt u = true)
      | 5 => decide (¬nan ∧ u.lt v = false)
      | 6 => decide nan
      | _ => decide (¬nan)
    let holds := fun (x y : Word) => match ty.toNat with
      | 0 => cond .f32 x.toNat y.toNat
      | 1 => cond .f16 (x.toNat % 2 ^ 16) (y.toNat % 2 ^ 16) && cond .f16 (x.toNat / 2 ^ 16) (y.toNat / 2 ^ 16)
      | _ => cond .bf16 (x.toNat % 2 ^ 16) (y.toNat % 2 ^ 16) && cond .bf16 (x.toNat / 2 ^ 16) (y.toNat / 2 ^ 16)
    WritesPredicate s (.fcmp p m a b c ty) 1 p.toNat (fun k =>
      let r := holds (s.me.rx k a.toNat) (s.me.rx k b.toNat)
      match m.toNat with
      | 0 => r
      | 1 => s.me.rp k p.toNat && r
      | 2 => s.me.rp k p.toNat || r
      | _ => !r)

/-- R236: where a non-zero value `n / d` rounds to a finite one without flushing or saturation, RNE gives the nearest
representable magnitude, and of two equally near ones that whose least significant significand bit, bit 0 of its code, is 0;
RTZ gives the largest that is not above, and RUP or RDN, away from zero, the smallest that is not below. -/
def Obligations.RoundingIsCorrect : Prop :=
  ∀ (f : Fmt) (rm : Rm) (neg : Bool) (n d : Nat), 0 < n → 0 < d →
    let r := (roundFp f rm false false (.fin neg n d)).code
    ∀ neg' n' d', decodeFp f r = .fin neg' n' d' →
      0 < d' ∧ neg' = neg ∧
      ∀ c n2 d2, c < 2 ^ (f.width - 1) → decodeFp f c = .fin false n2 d2 →
        match rm, neg with
        | .rne, _ =>
          let mine := ((n' : Int) * d - n * d').natAbs * d2
          let other := ((n2 : Int) * d - n * d2).natAbs * d'
          mine ≤ other ∧ (mine = other → n2 * d' ≠ n' * d2 → r % 2 = 0)
        | .rtz, _ | .rup, true | .rdn, false =>
          n' * d ≤ n * d' ∧ (n2 * d ≤ n * d2 → n2 * d' ≤ n' * d2)
        | .rup, false | .rdn, true =>
          n * d' ≤ n' * d ∧ (n * d2 ≤ n2 * d → n' * d2 ≤ n2 * d')

/-- R238 and R239: a NaN operand gives the canonical NaN and no flag; unlike infinities and 0 × ∞ give it with NV. -/
def Obligations.NanAndInvalidResults : Prop :=
  ∀ (fpcr : Word) (f : Fmt) (a b c : Nat),
    let nan := fun x => decodeFp f x = .nan
    let u := decodeFtzi fpcr f a
    let v := decodeFtzi fpcr f b
    (nan a ∨ nan b → fpAdd fpcr f a b = ⟨f.canon, 0⟩ ∧ fpSub fpcr f a b = ⟨f.canon, 0⟩ ∧ fpMul fpcr f a b = ⟨f.canon, 0⟩) ∧
    (∀ sg, u = .inf sg → v = .inf (!sg) → fpAdd fpcr f a b = ⟨f.canon, fxNV⟩) ∧
    (∀ sg, u = .inf sg → v = .inf sg → fpSub fpcr f a b = ⟨f.canon, fxNV⟩) ∧
    (∀ sg t dd, (u = .inf sg ∧ v = .fin t 0 dd) ∨ (u = .fin t 0 dd ∧ v = .inf sg) →
      fpMul fpcr f a b = ⟨f.canon, fxNV⟩ ∧
      ∀ np nc, fpFma fpcr f np nc a b c = ⟨f.canon, fxNV⟩) ∧
    (nan a ∧ ¬nan b → f ≠ .e4m3 → fpMinMax fpcr f false a b = roundVec fpcr f v ∧ fpMinMax fpcr f true a b = roundVec fpcr f v)

/-! ### Exchange -/

/-- R319 to R324: what each active thread receives, from the registers as they stand before the instruction; the
threads that take part are those of the member mask, and an exited one sets XM. Readings of the model: logs 19 and 72.
-/
def Obligations.ExchangeResults : Prop :=
  ∀ (s : State) (d a : BitVec 7) (gm : BitVec 5), Ready s → InRound s 1 → pfxOpd false s.pfx = true →
    ThreadRegs s d.toNat 1 → ThreadRegs s a.toNat 1 → UniformRegs s gm.toNat 1 →
    let m := if gm = 0 then maskOf s.me.path else s.me.rg gm.toNat
    let gone := s.me.exited
    let A := fun k => s.me.rx k a.toNat
    let δ := fun k => (s.me.rx k d.toNat).toNat % 32
    let live := (List.range 32).filter (fun k => m.getLsbD k && !gone.getLsbD k)
    let fpcr := (s.gridOf s.cur).fpcr
    let own := opened false d.toNat 1 (pfxLa s.pfx)
    let xm : Fx := if m &&& gone = 0 then 0 else fxXM
    let X := fun (i : Instr) (v : Nat → Word) => Exchanges s i own d.toNat v xm
    let from' := fun (k : Nat) (src : Int) =>
      if src < 0 ∨ 31 < src ∨ m.getLsbD src.toNat = false then A k
      else if gone.getLsbD src.toNat then 0 else A src.toNat
    let comb := fun (op : Word → Word → Word) (e : Word) (l : List Nat) => l.foldl (fun r t => op r (A t)) e
    let sum := fun (l : List Nat) => sumFadd fpcr (l.map A)
    let smin := fun (x y : Word) => BitVec.ofInt 32 (min x.toInt y.toInt)
    let smax := fun (x y : Word) => BitVec.ofInt 32 (max x.toInt y.toInt)
    let umin := fun (x y : Word) => BitVec.ofNat 32 (min x.toNat y.toNat)
    let umax := fun (x y : Word) => BitVec.ofNat 32 (max x.toNat y.toNat)
    let scan := fun (i : Instr) (op : Word → Word → Word) (e : Word) => X i (fun k => comb op e (live.filter (· ≤ k)))
    let red := fun (i : Instr) (op : Word → Word → Word) (e : Word) => X i (fun _ => comb op e live)
    let bit := fun (b : Bool) => if b then (1 : Word) else 0
    ((∀ k ∈ s.me.path, m.getLsbD k = true) →
      X (.shfl d a gm) (fun k => from' k (δ k)) ∧ X (.shflup d a gm) (fun k => from' k (k - δ k)) ∧
      X (.shfldn d a gm) (fun k => from' k (k + δ k)) ∧ X (.shflx d a gm) (fun k => from' k ((k ^^^ δ k : Nat))) ∧
      X (.prev d a gm) (fun k => match ((List.range k).filter (fun j => m.getLsbD j)).getLast? with
        | some j => if gone.getLsbD j then 0 else A j
        | none => 0) ∧
      scan (.scanAdd d a gm) (· + ·) 0 ∧ scan (.scanMin d a gm) smin 0x7FFFFFFF ∧ scan (.scanMax d a gm) smax 0x80000000 ∧
      scan (.scanMinz d a gm) umin 0xFFFFFFFF ∧ scan (.scanMaxz d a gm) umax 0 ∧
      scan (.scanAnd d a gm) (· &&& ·) 0xFFFFFFFF ∧ scan (.scanOr d a gm) (· ||| ·) 0 ∧
      red (.redAdd d a gm) (· + ·) 0 ∧ red (.redMin d a gm) smin 0x7FFFFFFF ∧ red (.redMax d a gm) smax 0x80000000 ∧
      red (.redMinz d a gm) umin 0xFFFFFFFF ∧ red (.redMaxz d a gm) umax 0 ∧
      red (.redAnd d a gm) (· &&& ·) 0xFFFFFFFF ∧ red (.redOr d a gm) (· ||| ·) 0 ∧
      Exchanges s (.scanFadd d a gm) own d.toNat (fun k => BitVec.ofNat 32 (sum (live.filter (· ≤ k))).code) (xm ||| (sum live).fx) ∧
      Exchanges s (.redFadd d a gm) own d.toNat (fun _ => BitVec.ofNat 32 (sum live).code) (xm ||| (sum live).fx) ∧
      X (.voteAny d a gm) (fun _ => bit (live.any (fun k => A k ≠ 0))) ∧
      X (.voteAll d a gm) (fun _ => bit (live.all (fun k => A k ≠ 0))) ∧
      X (.voteUni d a gm) (fun _ => bit (live.all (fun k => live.all (fun j => A k = A j)))) ∧
      X (.ballot d a gm) (fun _ => maskOf (live.filter (fun k => A k ≠ 0))) ∧
      X (.matchEq d a gm) (fun t => maskOf (live.filter (fun k => A k = A t)))) ∧
    Exchanges s (.bcst d a gm) own d.toNat
      (fun _ => let k := (s.me.rg gm.toNat).toNat % 32
        if gone.getLsbD k then 0 else A k)
      (if gone.getLsbD ((s.me.rg gm.toNat).toNat % 32) then fxXM else 0)

/-! ### Control -/

/-- R298, R300 and R203: where a branch sends each thread, the mask it adds to, and the path that follows. -/
def Obligations.BranchResults : Prop :=
  ∀ (s : State), Ready s → InRound s 1 → s.pfx = none →
    (∀ (g j : BitVec 4) (d : BitVec 18),
      let target : Int := s.at' + 4 * d.toInt
      let taken := s.me.path.filter (fun k => decide (Holds s g k))
      let kept := s.me.path.filter (fun k => !decide (Holds s g k))
      (0 ≤ target ∧ target < 2 ^ 55) ∨ taken = [] →
      ∃ t, exec (.bra g j d) s = .next t ∧ OutsideKept s t ∧ { t.me.undoProgress s.me with j := s.me.j } = s.me ∧
        Steered s t (fun k => if k ∈ taken then target.toNat else if k ∈ kept then s.at' + 4 else s.me.pcOf k) ∧
        ∀ q, t.me.rj q = if q = j.toNat ∧ j ≠ 15 ∧ taken ≠ [] ∧ kept ≠ [] then s.me.rj q ||| maskOf kept else s.me.rj q) ∧
    ∀ a : BitVec 7, ThreadRegs s a.toNat 2 →
      (∀ k ∈ s.me.path, (s.me.rx64 k a.toNat).toNat < 2 ^ 55 ∧ (s.me.rx64 k a.toNat).toNat % 4 = 0) →
      ∃ t, exec (.bri a) s = .next t ∧ OutsideKept s t ∧ t.me.undoProgress s.me = s.me ∧
        Steered s t (fun k => if k ∈ s.me.path then (s.me.rx64 k a.toNat).toNat else s.me.pcOf k)

/-- R206, R299 and R300, where the entries stay on chip: a call pushes the address of the next word, and a return
takes the newest entry. -/
def Obligations.CallAndReturnResults : Prop :=
  ∀ (s : State), Ready s → InRound s 1 → s.pfx = none →
    let depth := fun k => (s.me.rsd.get k).toNat
    let newest := fun k => s.me.rst.get (4 * k + (depth k - 1) % 4)
    let pushed := fun (t : State) (l : List Nat) =>
      (∀ k, t.me.rsd.get k = if k ∈ l then s.me.rsd.get k + 1 else s.me.rsd.get k) ∧
      ∀ e, t.me.rst.get e = if e / 4 ∈ l ∧ e % 4 = depth (e / 4) % 4 then BitVec.ofNat 64 (s.at' + 4) else s.me.rst.get e
    (∀ (g j : BitVec 4) (d : BitVec 18),
      let target : Int := s.at' + 4 * d.toInt
      let taken := s.me.path.filter (fun k => decide (Holds s g k))
      let kept := s.me.path.filter (fun k => !decide (Holds s g k))
      (0 ≤ target ∧ target < 2 ^ 55) ∨ taken = [] → (∀ k ∈ taken, depth k < 4) →
      ∃ t, exec (.call g j d) s = .next t ∧ OutsideKept s t ∧ pushed t taken ∧
        { t.me.undoProgress s.me with j := s.me.j, rst := s.me.rst, rsd := s.me.rsd } = s.me ∧
        Steered s t (fun k => if k ∈ taken then target.toNat else if k ∈ kept then s.at' + 4 else s.me.pcOf k) ∧
        ∀ q, t.me.rj q = if q = j.toNat ∧ j ≠ 15 ∧ taken ≠ [] ∧ kept ≠ [] then s.me.rj q ||| maskOf kept else s.me.rj q) ∧
    (∀ a : BitVec 7, ThreadRegs s a.toNat 2 →
      (∀ k ∈ s.me.path, (s.me.rx64 k a.toNat).toNat < 2 ^ 55 ∧ (s.me.rx64 k a.toNat).toNat % 4 = 0 ∧ depth k < 4) →
      ∃ t, exec (.calli a) s = .next t ∧ OutsideKept s t ∧ pushed t s.me.path ∧
        { t.me.undoProgress s.me with rst := s.me.rst, rsd := s.me.rsd } = s.me ∧
        Steered s t (fun k => if k ∈ s.me.path then (s.me.rx64 k a.toNat).toNat else s.me.pcOf k)) ∧
    ((∀ k ∈ s.me.path, 0 < depth k ∧ depth k ≤ 4 ∧ (newest k).toNat < 2 ^ 55 ∧ (newest k).toNat % 4 = 0) →
      ∃ t, exec .ret s = .next t ∧ OutsideKept s t ∧
        { t.me.undoProgress s.me with rsd := s.me.rsd } = s.me ∧
        (∀ k, t.me.rsd.get k = if k ∈ s.me.path then s.me.rsd.get k - 1 else s.me.rsd.get k) ∧
        Steered s t (fun k => if k ∈ s.me.path then (newest k).toNat else s.me.pcOf k))

/-- R200, R203, R204, R214, R302, R304, R338, R339 and R348: the rejoin masks, a JOIN that releases or parks its
threads, and the instructions that change nothing, one field of their group, or two registers. -/
def Obligations.RejoinAndPlainControlResults : Prop :=
  ∀ (s : State) (j : BitVec 4), Ready s → InRound s 1 → s.pfx = none →
    let path := s.me.path
    let waiting := s.me.alive.filter (fun k => inMask s.me.parked k && s.me.pcOf k == s.at')
    let met := ∀ k ∈ s.me.alive, inMask (s.me.rj j.toNat) k = true → k ∈ path ∨ k ∈ waiting
    let setsMask := fun (i : Instr) (v : Word) =>
      ∃ t, exec i s = .next t ∧ OutsideKept s t ∧ GoneOn s t 1 [] ∧ { t.me.undoProgress s.me with j := s.me.j } = s.me ∧
        ∀ q, t.me.rj q = if q = j.toNat then v else s.me.rj q
    (j ≠ 15 →
      setsMask (.jmrk j) (s.me.rj j.toNat ||| maskOf path) ∧ setsMask (.jclr j) 0 ∧
      ∀ x : BitVec 7, ThreadRegs s x.toNat 1 →
        setsMask (.jrst j x) (s.me.rx (path.headD 0) x.toNat) ∧
        WritesThread s (.jsav j x) 1 [] x.toNat 1 (fun _ _ => s.me.rj j.toNat)) ∧
    (j = 15 → ∃ t, exec (.join j) s = .next t ∧ OutsideKept s t ∧ t.me.undoProgress s.me = s.me ∧
      Steered s t (fun k => if k ∈ path then s.at' + 4 else s.me.pcOf k)) ∧
    (j ≠ 15 → met → ∃ t, exec (.join j) s = .next t ∧ OutsideKept s t ∧
      { t.me.undoProgress s.me with j := s.me.j, parked := s.me.parked } = s.me ∧
      (∀ k, k < 32 → inMask t.me.parked k = (inMask s.me.parked k && !waiting.contains k)) ∧
      (∀ q, t.me.rj q = if q = j.toNat then 0 else s.me.rj q) ∧
      Steered s t (fun k => if k ∈ path ∨ k ∈ waiting then s.at' + 4 else s.me.pcOf k)) ∧
    (j ≠ 15 → ¬met → (∃ k ∈ s.me.eligible, k ∉ path) → ∃ t, exec (.join j) s = .next t ∧ OutsideKept s t ∧
      { t.me.undoProgress s.me with parked := s.me.parked } = s.me ∧ t.me.parked = s.me.parked ||| maskOf path ∧
      Steered s t (fun k => s.me.pcOf k)) ∧
    Changes s .nop 1 [] id ∧ Changes s .yield 1 [] id ∧
    (∀ c, Changes s (.setclr c) 1 [] (fun g => { g with clr := c })) ∧
    Changes s .monClr 1 [] (fun g => { g with armed := [] }) ∧
    (∀ d : BitVec 5, d ≠ 0 → UniformRegs s d.toNat 2 →
      ∃ t, exec (.clkrd d) s = .next t ∧ OutsideKept s t ∧ GoneOn s t 1 [] ∧
        { t.me.undoProgress s.me with g := s.me.g } = s.me ∧
        t.me.rg d.toNat = BitVec.ofNat 32 s.me.lc ∧ t.me.rg (d.toNat + 1) = BitVec.ofNat 32 (s.me.lc / 2 ^ 32) ∧
        ∀ r, r ≠ d.toNat → r ≠ d.toNat + 1 → t.me.rg r = s.me.rg r)

/-- R303, R191 and R339: EXIT in FREE mode; the last thread of a group retires it and its workgroup with the last
group. -/
def Obligations.ExitResults : Prop :=
  ∀ (s : State), Ready s → (s.gridOf s.cur).ordered = false → s.pfx = none →
    let out := s.me.exited ||| maskOf s.me.path
    ((∃ k ∈ s.me.eligible, k ∉ s.me.path) → ∃ t, exec .exit s = .next t ∧ OutsideKept s t ∧
      { t.me.undoProgress s.me with exited := s.me.exited } = s.me ∧ t.me.exited = out ∧ Steered s t s.me.pcOf) ∧
    ((∀ k ∈ s.me.alive, k ∈ s.me.path) → s.me.grid < s.grids.length → s.me.wg < s.wgs.length →
      ∃ t, exec .exit s = .next t ∧ t.me.exited = out ∧ t.me.st = .retired ∧ t.me.halted = s.me.halted ∧
        t.me.lc = s.me.lc + 1 ∧ t.me.armed = [] ∧ t.me.windows = [] ∧ t.me.x = s.me.x ∧
        (∀ i, i ≠ s.cur → t.grp i = s.grp i) ∧
        { t with groups := s.groups, grids := s.grids, wgs := s.wgs } = s ∧
        (t.grd s.me.grid).fx = (s.grd s.me.grid).fx ||| s.me.fx ∧
        (∀ w, w ≠ s.me.wg → t.wgp w = s.wgp w) ∧ (t.wgp s.me.wg).lastLc = max (s.wgp s.me.wg).lastLc (s.me.lc + 1) ∧
        ((t.wgp s.me.wg).retired = true ↔ ∀ i, i < s.groups.length → (s.grp i).wg = s.me.wg → i ≠ s.cur →
          (s.grp i).st = .retired))

/-! ### Memory -/

/-- R329, R142 and R159: what a thread load writes, from scratchpad and from device memory, where the copies in the
caches are those of the home; a byte of the group's own take buffer comes first. `X k` is where the access of thread `k`
goes after all checks of R33. Readings of the model: logs 85, 89, 99 and 110. -/
def Obligations.LoadResults : Prop :=
  ∀ (s : State) (d a : BitVec 7) (la : BitVec 4) (o : BitVec 8) (X : Nat → Target), Ready s → InRound s 1 →
    s.late = false → s.poison = [] → s.slots = [] → (∀ q ∈ s.mxu, q.group ≠ s.cur) → Coherent s →
    (s.rootOf s.cur).extLines = [] → (s.rootOf s.cur).extFrames = [] → (s.rootOf s.cur).old = [] →
    ThreadRegs s a.toNat 2 →
    let ordered := (s.gridOf s.cur).ordered
    let byte := fun (k q : Nat) =>
      let m := ((s.store ((X k).reach == .scratch)).get ((X k).addr + q)).toNat
      if ordered then
        match takeByte s.me.take ((X k).reach == .scratch) (X k).rank ((X k).off + q) with
        | some b => b.toNat
        | none => m
      else m
    let L := fun (i : Instr) (n own : Nat) (sx : Bool) =>
      let v := fun k => (List.range n).foldr (fun q acc => byte k q + 256 * acc) 0
      let ext := fun k => if sx = true ∧ 2 ^ (8 * n - 1) ≤ v k then v k + 2 ^ 32 - 2 ^ (8 * n) else v k
      pfxLoad own s.pfx = true → ThreadRegs s d.toNat ((n + 3) / 4) →
      (∀ k ∈ s.me.path, s.check s.cur k .load (s.me.rx64 k a.toNat) (dispL s.pfx o n) n (pfxAtomicity s.pfx ≠ 0) =
          (s, .ok (X k)) ∧ ((X k).reach = .scratch ∨ (X k).reach = .glob)) →
      WritesThread s i 1 (opened false d.toNat ((n + 3) / 4) la.toNat) d.toNat ((n + 3) / 4)
        (fun k j => BitVec.ofNat 32 (ext k / 2 ^ (32 * j))) (fun _ => 0) LoadKept
    L (.ldb d a la o) 1 0 false ∧ L (.ldbs d a la o) 1 0 true ∧ L (.ldh d a la o) 2 0 false ∧
    L (.ldhs d a la o) 2 0 true ∧ L (.ldw d a la o) 4 0 false ∧ L (.ldd d a la o) 8 1 false ∧ L (.ldq d a la o) 16 2 false

/-- R333: a uniform load, once for the path, in the name of its lowest thread; into g0 it discards the value. Readings
of the model: logs 85, 86, 89, 99 and 110. -/
def Obligations.UniformLoadResults : Prop :=
  ∀ (s : State) (d a : BitVec 5) (la : BitVec 4) (o : BitVec 12) (x : Target), Ready s → InRound s 1 →
    s.late = false → s.poison = [] → s.slots = [] → (∀ q ∈ s.mxu, q.group ≠ s.cur) → Coherent s →
    (s.rootOf s.cur).extLines = [] → (s.rootOf s.cur).extFrames = [] → (s.rootOf s.cur).old = [] →
    UniformRegs s a.toNat 2 →
    pfxUload s.pfx = true → (d = 0 → la = 0) →
    let ordered := (s.gridOf s.cur).ordered
    let byte := fun (q : Nat) =>
      let m := ((s.store (x.reach == .scratch)).get (x.addr + q)).toNat
      if ordered then
        match takeByte s.me.take (x.reach == .scratch) x.rank (x.off + q) with
        | some b => b.toNat
        | none => m
      else m
    let L := fun (i : Instr) (n : Nat) =>
      let v := (List.range (4 * n)).foldr (fun q acc => byte q + 256 * acc) 0
      UniformRegs s d.toNat n →
      s.check s.cur s.me.lowest .uload (s.me.rg64 a.toNat) (dispUl s.pfx o (4 * n)) (4 * n) false = (s, .ok x) →
      (x.reach = .scratch ∨ x.reach = .glob) →
      ∃ t, exec i s = .next t ∧ LoadKept s t ∧ GoneOn s t 1 (opened true d.toNat n la.toNat) ∧
        { t.me.undoProgress s.me with g := s.me.g } = s.me ∧
        ∀ r, t.me.rg r = if d ≠ 0 ∧ d.toNat ≤ r ∧ r < d.toNat + n then BitVec.ofNat 32 (v / 2 ^ (32 * (r - d.toNat)))
          else s.me.rg r
    L (.uldw d a la o) 1 ∧ L (.uldd d a la o) 2

/-- R116, R117, R262 and R331 in ORDERED mode: a store changes no memory; each byte enters the take buffer, of two
threads the higher one's. With too little quota left the round closes first, and the instruction does not begin.
Readings of the model: log 18. -/
def Obligations.OrderedStoreResults : Prop :=
  ∀ (s : State) (v a : BitVec 7) (g : BitVec 4) (o : BitVec 8) (X : Nat → Target), Ready s →
    (s.gridOf s.cur).ordered = true → s.slots = [] → s.posted = [] → ThreadRegs s a.toNat 2 →
    let who := s.me.path.filter (fun k => decide (Holds s g k))
    let byte := fun (k q : Nat) => (s.me.rx k (v.toNat + q / 4)).extractLsb' (8 * (q % 4)) 8
    let fresh := ((who.map (fun k => ((X k).reach == .scratch, (X k).rank, (X k).off / 64))).eraseDups.filter
      (fun l => !(s.me.take.map (fun e => (e.scratch, e.rank, e.line))).contains l)).length
    let S := fun (i : Instr) (n own : Nat) =>
      pfxStore own s.pfx = true → ThreadRegs s v.toNat ((n + 3) / 4) →
      (∀ k ∈ who, s.check s.cur k .store (s.me.rx64 k a.toNat) (dispL s.pfx o n) n (pfxAtomicity s.pfx ≠ 0) =
          (s, .ok (X k)) ∧ ((X k).reach = .scratch ∨ (X k).reach = .glob)) →
      (InRound s 1 → (s.me.take = [] ∨ s.me.take.length + fresh ≤ 16 * (s.gridOf s.cur).takeQuota) →
        ∃ t, exec i s = .next t ∧ OutsideKept s t ∧ GoneOn s t 1 [] ∧
          { t.me.undoProgress s.me with take := s.me.take } = s.me ∧
          ∀ scr rank va, takeByte t.me.take scr rank va =
            match (who.filter (fun k => ((X k).reach == .scratch) == scr && (X k).rank == rank && decide ((X k).off ≤ va) &&
                decide (va < (X k).off + n))).getLast? with
            | some k => some (byte k (va - (X k).off))
            | none => takeByte s.me.take scr rank va) ∧
      (s.me.take ≠ [] → 16 * (s.gridOf s.cur).takeQuota < s.me.take.length + fresh → s.copies = [] → s.mxu = [] →
        (s.gridOf s.cur).root < s.grids.length →
        ∃ t, exec i s = .next t ∧ t.me.lc = 64 * (s.me.lc / 64 + 1) ∧ t.me.take = [] ∧ t.me.ops = [] ∧
          t.me.pc = s.me.pc ∧ t.me.x = s.me.x ∧ (∀ k, k ≠ s.cur → t.grp k = s.grp k) ∧
          { t with groups := s.groups, grids := s.grids } = s ∧
          (t.grd (s.gridOf s.cur).root).contribs =
            (s.grd (s.gridOf s.cur).root).contribs ++ [⟨s.me.lc / 64, s.cur, s.me.take, s.me.ops⟩])
    S (.stb v a g o) 1 0 ∧ S (.sth v a g o) 2 0 ∧ S (.stw v a g o) 4 0 ∧ S (.std v a g o) 8 1 ∧ S (.stq v a g o) 16 2

/-- R53, R70 and R331 in FREE mode, where a store is performed at once: the bytes stored, of two threads the higher
one's, and every other byte of memory as before. Readings of the model: logs 8, 16, 85 and 110. -/
def Obligations.FreeStoreResults : Prop :=
  ∀ (s : State) (v a : BitVec 7) (g : BitVec 4) (o : BitVec 8) (X : Nat → Target), Ready s →
    (s.gridOf s.cur).ordered = false → s.late = false → s.slots = [] → (∀ q ∈ s.mxu, q.group ≠ s.cur) →
    s.posted = [] → ThreadRegs s a.toNat 2 →
    let who := s.me.path.filter (fun k => decide (Holds s g k))
    let byte := fun (k q : Nat) => (s.me.rx k (v.toNat + q / 4)).extractLsb' (8 * (q % 4)) 8
    let S := fun (i : Instr) (n own : Nat) =>
      pfxStore own s.pfx = true → ThreadRegs s v.toNat ((n + 3) / 4) →
      (∀ k ∈ who, s.check s.cur k .store (s.me.rx64 k a.toNat) (dispL s.pfx o n) n (pfxAtomicity s.pfx ≠ 0) =
          (s, .ok (X k)) ∧
        ((X k).reach = .scratch ∨ (X k).reach = .glob ∧ s.linesOk noDomain [(X k).addr / 64] = true)) →
      ∃ t, exec i s = .next t ∧ GoneOn s t 1 [] ∧ t.me.undoProgress s.me = s.me ∧
        t.regs = s.regs ∧ t.host = s.host ∧ t.tiles = s.tiles ∧ t.tlb = s.tlb ∧ t.tcoMem = s.tcoMem ∧ t.wgs = s.wgs ∧
        ∀ scr addr, (t.store scr).get addr =
          match (who.filter (fun k => ((X k).reach == .scratch) == scr && decide ((X k).addr ≤ addr) &&
              decide (addr < (X k).addr + n))).getLast? with
          | some k => byte k (addr - (X k).addr)
          | none => (s.store scr).get addr
    S (.stb v a g o) 1 0 ∧ S (.sth v a g o) 2 0 ∧ S (.stw v a g o) 4 0 ∧ S (.std v a g o) 8 1 ∧ S (.stq v a g o) 16 2

/-- R334, R335 and R336: what each thread's read-modify-write leaves in memory and in its registers, in ascending
thread index; in ORDERED mode the atomics become operations of the round, which closes. Readings of the model: logs 8,
16, 85, 102 and 110. -/
def Obligations.AtomicResults : Prop :=
  ∀ (s : State) (d a : BitVec 7) (g : BitVec 4) (ord scope : BitVec 2) (w : BitVec 1) (X : Nat → Target), Ready s →
    s.slots = [] → s.poison = [] → s.mxu = [] → pfxAtom s.pfx = true → ThreadRegs s a.toNat 2 →
    let wide := w = 1
    let n := if wide then 8 else 4
    let bits := 8 * n
    let who := s.me.path.filter (fun k => decide (Holds s g k))
    let fpcr := (s.gridOf s.cur).fpcr
    let num := fun (k r : Nat) => if wide then (s.me.rx64 k r).toNat else (s.me.rx k r).toNat
    let sgn := fun (x : Nat) => (BitVec.ofNat bits x).toInt
    let A := fun (i : Instr) (op : AtomOp) (named : Nat) (new : Nat → Nat → Nat) (fx : Nat → Nat → Fx) =>
      ThreadRegs s d.toNat named →
      (∀ k ∈ who, s.check s.cur k .atomic (s.me.rx64 k a.toNat) 0 n true = (s, .ok (X k)) ∧
        ((X k).reach = .scratch ∨ (X k).reach = .glob)) →
      ((s.gridOf s.cur).ordered = false → s.late = false → (∀ g ∈ s.groups, g.flight = []) →
        (∀ k ∈ who, (X k).reach = .glob → s.linesOk noDomain [(X k).addr / 64] = true) →
        ∃ t, exec i s = .next t ∧ GoneOn s t 1 (opened false d.toNat (n / 4) (pfxLa s.pfx)) ∧
          { t.me.undoProgress s.me with x := s.me.x, fx := s.me.fx, ticket := s.me.ticket, nack := s.me.nack } = s.me ∧
          t.regs = s.regs ∧ t.host = s.host ∧ t.tiles = s.tiles ∧ t.tlb = s.tlb ∧ t.wgs = s.wgs ∧
          let run := who.foldl (fun (acc : (Bool → Sparse 8) × List (Nat × Nat)) k =>
            let scr := (X k).reach == .scratch
            let old := readBytes (acc.1 scr) (X k).addr n
            (fun b => if b = scr then writeBytes (acc.1 b) (X k).addr (leBytes n (new k old)) else acc.1 b,
              acc.2 ++ [(k, old)])) (s.store, [])
          (∀ scr addr, (t.store scr).get addr = (run.1 scr).get addr) ∧
          t.me.fx = s.me.fx ||| run.2.foldl (fun f e => f ||| fx e.1 e.2) 0 ∧
          ∀ k r, r < 128 → t.me.rx k r =
            match run.2.find? (fun e => e.1 == k) with
            | some e => if d.toNat ≤ r ∧ r < d.toNat + n / 4 then BitVec.ofNat 32 (e.2 / 2 ^ (32 * (r - d.toNat)))
              else s.me.rx k r
            | none => s.me.rx k r) ∧
      ((s.gridOf s.cur).ordered = true → Settled s →
        ∃ t ops, exec i s = .next t ∧ Closes s t (opened false d.toNat (n / 4) (pfxLa s.pfx)) ops s.me ∧
            ops.map (fun e => match e with
              | .atom r => some (r.thread, r.op, r.wide, r.scratch, r.addr, r.d, r.v.toNat)
              | _ => none) =
            who.map (fun k => some (k, op, decide wide, (X k).reach == .scratch, (X k).addr, d.toNat, num k d.toNat)))
    let noFx := fun (_ _ : Nat) => (0 : Fx)
    let v := fun k => num k d.toNat
    let one := n / 4
    A (.atomAdd d a g ord scope w) .add one (fun k m => (m + v k) % 2 ^ bits) noFx ∧
    A (.atomMin d a g ord scope w) .min one (fun k m => if sgn (v k) < sgn m then v k else m) noFx ∧
    A (.atomMax d a g ord scope w) .max one (fun k m => if sgn m < sgn (v k) then v k else m) noFx ∧
    A (.atomMinz d a g ord scope w) .minz one (fun k m => min m (v k)) noFx ∧
    A (.atomMaxz d a g ord scope w) .maxz one (fun k m => max m (v k)) noFx ∧
    A (.atomAnd d a g ord scope w) .and one (fun k m => m &&& v k) noFx ∧
    A (.atomOr d a g ord scope w) .or one (fun k m => m ||| v k) noFx ∧
    A (.atomXor d a g ord scope w) .xor one (fun k m => m ^^^ v k) noFx ∧
    A (.atomxExch d a g ord scope w) .exch one (fun k _ => v k) noFx ∧
    A (.atomxCas d a g ord scope w) .cas (2 * one) (fun k m => if m = v k then num k (d.toNat + one) else m) noFx ∧
    (w = 0 → A (.atomxFadd d a g ord scope) .fadd 1 (fun k m => (fpAdd fpcr .f32 m (v k)).code)
      (fun k m => (fpAdd fpcr .f32 m (v k)).fx))

/-- R33 and R495: the checks of an access in their order; the first that fails is the trap of the lowest thread of the
path, with the step in DETAIL and the effective pointer in INFO, and nothing else happens. Readings of the model: log
36. -/
def Obligations.AccessFaultsInOrder : Prop :=
  ∀ (s : State) (d a : BitVec 7) (la g : BitVec 4) (o : BitVec 8), Ready s → s.pfx = none →
    ThreadRegs s d.toNat 1 → ThreadRegs s a.toNat 2 →
    let k := s.me.path.headD 0
    let p := (s.me.rx64 k a.toNat).toNat
    let space := p / 2 ^ 60
    let rank := p / 2 ^ 55 % 32
    let gr := s.gridOf s.cur
    let fault := fun (store : Bool) (disp : Int) =>
      let eff : Int := (p % 2 ^ 55 : Nat) + disp
      if 6 ≤ space then some (0x03#8, 1#16)
      else if space = 5 ∧ s.me.priv ≠ 2 then some (0x02, 2)
      else if eff < 0 ∨ 2 ^ 55 ≤ eff ∨ (space ≠ 1 ∧ rank ≠ 0) ∨ (space = 1 ∧ 2 ^ 19 ≤ eff) then some (0x03, 3)
      else if (space = 1 ∧ (gr.teamCores ≤ rank ∨ (gr.scratchBytes : Int) ≤ eff)) ∨ (space = 2 ∧ (gr.priv : Int) ≤ eff) ∨
          (space = 3 ∧ 2 ^ 32 ≤ eff) then some (0x03, 4)
      else if 60 < eff % 64 then some (0x05, 5)
      else if store = true ∧ space = 3 then some (0x04, 7)
      else none
    let traps := fun (i : Instr) (c : BitVec 8) (detail : BitVec 16) (disp : Int) =>
      exec i s = .next (s.deliver s.cur (⟨c, k, detail, 0,
        BitVec.ofNat 64 (p / 2 ^ 55 * 2 ^ 55 + (((p % 2 ^ 55 : Nat) + disp) % 2 ^ 55).toNat), 0, false⟩ : Trap))
    space ≠ 4 → (space = 5 → s.me.priv ≠ 2) →
    ((∀ c detail, fault false (4 * o.toInt) = some (c, detail) → traps (.ldw d a la o) c detail (4 * o.toInt)) ∧
     (gr.ordered = false → s.posted = [] → Holds s g k → ∀ c detail, fault true (4 * o.toInt) = some (c, detail) →
        traps (.stw d a g o) c detail (4 * o.toInt)))

/-! ### Fences, monitors, sleep -/

/-- R148, R157, R337, R345, R346 and R347: cache control changes no value and no register; in FREE mode an acquire at
its scope, or an invalidation, drops the tenant's cached lines but those of read-only-shared pages; QFENCE marks the
copies before it. That only the tenant's lines go is the model's reading of R345 beside R444 (log 99). -/
def Obligations.FenceAndCacheResults : Prop :=
  ∀ (s : State), Ready s → InRound s 1 →
    let gr := s.gridOf s.cur
    let drops := fun (i : Instr) (l1 rdc : Bool) => ∃ t, exec i s = .next t ∧ GoneOn s t 1 [] ∧
      t.me.undoProgress s.me = s.me ∧ (∀ k, k ≠ s.cur → t.grp k = s.grp k) ∧
      { t with groups := s.groups, grids := s.grids, l1 := s.l1, rdc := s.rdc } = s ∧
      t.l1 = s.l1.filter (fun x => !l1 || x.owner != s.me.core || x.tenant != gr.tenant || x.ros) ∧
      t.rdc = s.rdc.filter (fun x => !rdc || x.owner != s.me.core / 144 || x.tenant != gr.tenant || x.ros)
    (s.pfx = none → (∀ q ∈ s.mxu, q.group ≠ s.cur) → ∀ (m : BitVec 8) (sc : BitVec 2),
      (gr.ordered = true → Changes s (.fence m sc) 1 [] id ∧ Changes s (.invl1 sc) 1 [] id) ∧
      (gr.ordered = false →
        drops (.fence m sc) (sc.toNat ≠ 0 || gr.twoshot) (decide (2 ≤ sc.toNat)) ∧
        drops (.invl1 sc) true (decide (2 ≤ sc.toNat)))) ∧
    (pfxPref s.pfx = true → ∀ (a : BitVec 7) (v : BitVec 1), ThreadRegs s a.toNat 2 →
      (s.me.priv = 2 ∨ ∀ k ∈ s.me.path, (s.me.rx64 k a.toNat).toNat / 2 ^ 60 ≠ 5) → Changes s (.pref a v) 1 [] id) ∧
    (s.pfx = none → gr.producer = s.me.gix → gr.producer ≠ 0xFF → ∀ q : BitVec 4,
      (q = 0 ∨ gr.ordered = true → Changes s (.qfence q) 1 [] id) ∧
      (q ≠ 0 → gr.ordered = false → s.me.wg < s.wgs.length →
        ∃ t, exec (.qfence q) s = .next t ∧ GoneOn s t 1 [] ∧ t.me.undoProgress s.me = s.me ∧
          { t with groups := s.groups, wgs := s.wgs } = s ∧ (∀ k, k ≠ s.cur → t.grp k = s.grp k) ∧
          (∀ w, w ≠ s.me.wg → t.wgp w = s.wgp w) ∧
          t.wgp s.me.wg = { s.wgp s.me.wg with qfences := (s.wgp s.me.wg).qfences ++ [(q, s.copies.length)] }))

/-- R127, R339, R340 and R344: arming lines, and falling asleep on them or for a time. Readings of the model: logs
25, 42, 91, 99, 102 and 119. -/
def Obligations.MonitorAndSleepResults : Prop :=
  ∀ (s : State), Ready s → s.pfx = none →
    let gr := s.gridOf s.cur
    let mask := maskOf s.me.path
    let round := s.me.lc / 64
    let sleeps := fun (k : SleepKind) (w : Option Nat) =>
      ({ s.me with st := .sleeping, sleep := some ⟨k, s.at', mask⟩, wake := w } : Group)
    let falls := fun (i : Instr) (k : SleepKind) (w : Option Nat) =>
      (gr.ordered = false → ∃ t, exec i s = .next t ∧ OutsideKept s t ∧ GoneOn s t 1 [] ∧
        t.me.undoProgress s.me = sleeps k w) ∧
      (gr.ordered = true → Settled s → s.me.pend = [] → ∃ t, exec i s = .next t ∧ Closes s t [] [] (sleeps k w))
    (∀ n : BitVec 16,
      (gr.ordered = true → falls (.cede n) .cede (some (round + 1 + n.toNat))) ∧
      (gr.ordered = false → s.me.pend = [] → n ≠ 0 → falls (.cede n) .cede (some n.toNat)) ∧
      (gr.ordered = false → n = 0 → Changes s (.cede n) 1 [] id)) ∧
    (∀ d g : BitVec 5, UniformRegs s d.toNat 1 → UniformRegs s g.toNat 1 →
      let n := s.me.rg g.toNat
      (s.me.armed = [] → n = 0 →
        (gr.ordered = false → WritesUniform s (.mwait d g) 1 d.toNat 2) ∧
        (gr.ordered = true → Settled s → ∃ t, exec (.mwait d g) s = .next t ∧ Closes s t [] [] (s.me.wg' d.toNat 2))) ∧
      ((∃ l ∈ s.me.armed, l.fired = true) →
        let g' := ({ s.me with armed := s.me.armed.map (fun l => { l with fired := false }), monRound := round + 1 } : Group)
        (gr.ordered = false → Changes s (.mwait d g) 1 [] (fun _ => g'.wg' d.toNat 0)) ∧
        (gr.ordered = true → Settled s → ∃ t, exec (.mwait d g) s = .next t ∧ Closes s t [] [] (g'.wg' d.toNat 0))) ∧
      ((∀ l ∈ s.me.armed, l.fired = false) → ¬(s.me.armed = [] ∧ n = 0) → s.me.pend = [] →
        falls (.mwait d g) (.mwait d.toNat)
          (if n = 0 then none else if gr.ordered then some (round + 1 + n.toNat) else some n.toNat))) ∧
    (∀ (a : BitVec 7) (X : Nat → Target), InRound s 1 → ThreadRegs s a.toNat 2 → (s.rootOf s.cur).wrote = [] →
      (∀ k ∈ s.me.path, s.check s.cur k .mon (s.me.rx64 k a.toNat) 0 1 false = (s, .ok (X k))) →
      let line := fun k => (⟨(X k).reach == .scratch, (X k).rank, (X k).off / 64, (X k).addr / 64, false, false⟩ : ArmedLine)
      let armed := s.me.path.foldl (fun l k =>
        if l.any (fun e => e.scratch == (line k).scratch && e.rank == (line k).rank && e.line == (line k).line) then l
        else l ++ [line k]) s.me.armed
      armed.length ≤ 4 → armed ≠ s.me.armed →
      (gr.ordered = false → s.syncQuota gr.fn = none ∧ (s.monitorsUsed s.me.core).length + 4 ≤ 63) →
      ∃ t, exec (.mon a) s = .next t ∧ GoneOn s t 1 [] ∧
        { t with groups := s.groups, grids := s.grids, l1 := s.l1, rdc := s.rdc } = s ∧
        (∀ k, k ≠ s.cur → t.grp k = s.grp k) ∧
        t.me.undoProgress s.me = { s.me with
          armed := armed, ticket := none, nack := none, monRound := if s.me.armed = [] then round else s.me.monRound })

/-! ### Barriers and rings -/

/-- R182, R183, R185 and R350: the barrier instructions of a FREE group, performed at once, and what an ORDERED group
adds to its round. Readings of the model: log 34. -/
def Obligations.BarrierResults : Prop :=
  (∀ (s : State) (a b c : BitVec 5) (la : BitVec 4), Ready s → s.pfx = none → s.me.path = s.me.alive → s.poison = [] →
      s.mxu = [] → (s.late = false ∨ handleRank (s.me.rg a.toNat) = s.trank s.cur) →
      UniformRegs s a.toNat 1 → UniformRegs s b.toNat 1 →
      let h := s.me.rg a.toNat
      let v := (s.me.rg b.toNat).toNat
      let count := v % 2 ^ 11
      let old := Barrier.ofNat (s.seeObj s.cur h 16)
      let ordered := (s.gridOf s.cur).ordered
      let adds := fun (i : Instr) (op : OrdOp) => ordered = true → InRound s 1 →
        Changes s i 1 [] (fun g => { g with ops := g.ops ++ [op] })
      let own := opened true c.toNat 1 la.toNat
      s.checkHandle s.cur s.me.lowestAlive h 16 16 = none →
      (0 < count → count ≤ 1024 → v / 2 ^ 11 % 2 ^ 5 = 0 → v / 2 ^ 17 = 0 →
        adds (.binit a b) (.binit h count (decide (v / 2 ^ 16 % 2 = 1))) ∧
        (ordered = false → StoresObject s (.binit a b) h
          (leBytes 16 (count % 1024 + 2 ^ 28 + (if v / 2 ^ 16 % 2 = 1 then 2 ^ 29 else 0))))) ∧
      (v < 2 ^ 31 →
        adds (.bexp a b) (.bexp h v) ∧ adds (.barv a b) (.barv h v) ∧
        (ordered = false → old.valid = true →
          StoresObject s (.bexp a b) h (leBytes 16 (old.bexp v).toNat) ∧
          StoresObject s (.barv a b) h (leBytes 16 (old.barv v).toNat))) ∧
      (old.valid = true → UniformRegs s c.toNat 1 → (c = 0 → la = 0) →
        let passed := old.phase ≠ decide (v % 2 = 1)
        let status : Word := if old.ovr then 1 else 0
        (InRound s 1 → (¬passed → Reports s (.btest a b c la) own c.toNat 1 (fun _ => 2)) ∧
          (passed → ¬(old.ovr = true ∧ old.tovr = true) → Reports s (.btest a b c la) own c.toNat 1 (fun _ => status))) ∧
        (ordered = false → passed → ¬(old.ovr = true ∧ old.tovr = true) →
          Reports s (.bwait a b c la) own c.toNat 1 (fun _ => status)) ∧
        (ordered = true → Settled s → s.me.pend = [] → ∃ t, exec (.bwait a b c la) s = .next t ∧
          Closes s t own [] { s.me with
            st := .sleeping, sleep := some ⟨.bwait c.toNat h (decide (v % 2 = 1)), s.at', maskOf s.me.path⟩, wake := none }))) ∧
  ∀ (b : Barrier) (n : Nat), 0 < n → n ≤ 1024 → b.arrived = 0 → b.pend = 0 → b.expect = n % 1024 →
      let after := fun (k : Nat) => (List.range k).foldl (fun b _ => b.barv 0) b
      (∀ k, k < n → (after k).arrived = k ∧ (after k).phase = b.phase ∧ (after k).phases = b.phases) ∧
      (after n).arrived = 0 ∧ (after n).pend = 0 ∧ (after n).phase = !b.phase ∧ (after n).phases = b.phases + 1 ∧
      (after n).ovr = false ∧
      ∀ x, 0 < x → x < 2 ^ 31 → (b.bexp x).pend = x ∧ (b.bexp x).phase = b.phase ∧ (b.bexp x).credit x = b

/-- R179, R180 and R352: the ring instructions of a FREE group, performed at once, and what an ORDERED group adds to
its round. Readings of the model: logs 34, 41 and 103. -/
def Obligations.RingResults : Prop :=
  ∀ (s : State) (a b c : BitVec 5) (la : BitVec 4), Ready s → s.pfx = none → s.me.path = s.me.alive → s.poison = [] →
    s.mxu = [] → UniformRegs s a.toNat 1 → UniformRegs s b.toNat 1 →
    let h := s.me.rg a.toNat
    let n := s.me.rg b.toNat
    let ordered := (s.gridOf s.cur).ordered
    let old := Ring.ofNat (s.seeObj s.cur h 32)
    let good := old.valid = true ∧ old.err = false
    let own := opened true c.toNat 1 la.toNat
    s.checkHandle s.cur s.me.lowestAlive h 32 32 = none →
    (UniformRegs s c.toNat 1 →
      let cfg := s.me.rg c.toNat
      s.checkHandle s.cur s.me.lowestAlive (h.extractLsb' 27 5 ++ n.extractLsb' 0 27) 1 1 = none →
      cfgBad cfg (handleOff n) (s.gridOf s.cur).scratchBytes = false →
      (ordered = true → InRound s 1 → Changes s (.rinit a b c) 1 [] (fun g => { g with ops := g.ops ++ [.rinit h n cfg] })) ∧
      (ordered = false → StoresObject s (.rinit a b c) h (leBytes 32 (Ring.init n cfg).toNat))) ∧
    (ordered = true → Settled s → ∃ t, exec (.rels a) s = .next t ∧ Closes s t [] [.rels h] s.me) ∧
    (ordered = false → good → old.widx ≠ old.ridx → StoresObject s (.rels a) h (leBytes 32 old.rels.toNat)) ∧
    (good → c ≠ 0 → UniformRegs s c.toNat 4 → InRound s 1 →
      Reports s (.rstat a c la) (opened true c.toNat 4 la.toNat) c.toNat 4 (fun j => match j with
        | 0 => old.widx
        | 1 => old.ridx
        | 2 => old.filled.extractLsb' 0 32
        | _ => old.filled.extractLsb' 32 32)) ∧
    (good → UniformRegs s c.toNat 1 → (c = 0 → la = 0) →
      let slot := old.slotHandle (handleRank h) n
      let sleeps := fun (e : Bool) => ({ s.me with
        st := .sleeping, sleep := some ⟨.awaitf c.toNat h n e, s.at', maskOf s.me.path⟩, wake := none } : Group)
      (ordered = false →
        (0 < (old.widx - n).toNat → (old.widx - n).toNat < 2 ^ 31 → Reports s (.awaitf a b c la) own c.toNat 1 (fun _ => slot)) ∧
        ((n - old.ridx).toNat < 2 ^ old.lcount → Reports s (.awaitfEmpty a b c la) own c.toNat 1 (fun _ => slot))) ∧
      (ordered = true → Settled s → s.me.pend = [] →
        (∃ t, exec (.awaitf a b c la) s = .next t ∧ Closes s t own [] (sleeps false)) ∧
        ∃ t, exec (.awaitfEmpty a b c la) s = .next t ∧ Closes s t own [] (sleeps true)))

/-! ### Copies -/

/-- R166, R168, R173 and R353: an accepted copy is one more record, with the descriptor as it stood at issue; an
ORDERED one is an operation of its round. `late` leaves its reads and writes to events. Readings of the model: logs 85
and 105. -/
def Obligations.CopyAccepted : Prop :=
  ∀ (s : State) (a b c : BitVec 5) (v : BitVec 512), Ready s → InRound s 2 → s.pfx = none → s.me.path = s.me.alive →
    s.late = true → s.mxu = [] → (s.gridOf s.cur).producer = s.me.gix → (s.gridOf s.cur).producer ≠ 0xFF →
    (s.copies.filter (fun x => x.wg == s.me.wg && copyOpen x.st)).length < 64 →
    UniformRegs s a.toNat 1 → UniformRegs s b.toNat 1 → UniformRegs s c.toNat 1 →
    (∀ p ∈ [(Desc.ofBits v).src, (Desc.ofBits v).dst], p.toNat / 2 ^ 60 < 4) →
    let h := s.me.rg a.toNat
    let k := s.me.rg b.toNat
    let n := s.me.rg c.toNat
    let starts := fun (i : Instr) (form : Nat) => s.copyCheck s.cur form h k n = .ok v →
      ∃ t, exec i s = .next t ∧ GoneOn s t 2 [] ∧
        t.copies = s.copies ++ [⟨s.cur, s.me.wg, form, v, h, k, n, s.me.lc / 64, s.me.lowestAlive, none, [], [], 0, [], none⟩] ∧
        { t with groups := s.groups, grids := s.grids, copies := s.copies } = s ∧
        (∀ x, x ≠ s.cur → t.grp x = s.grp x) ∧
        t.me.undoProgress s.me = (if (s.gridOf s.cur).ordered then { s.me with ops := s.me.ops ++ [.land s.copies.length] }
          else s.me)
    starts (.cpy a b c) 0 ∧ starts (.cpyt a b c) 1 ∧ starts (.cpys a b c) 2 ∧ starts (.cpym a b c) 3 ∧
      starts (.cpyr a b c) 4

/-! ### Matrix and system instructions -/

/-- R357, R359, R362 to R368, R370 and R371: acceptance by the MXU, with the operand bytes as they stand; in ORDERED
mode STA writes at the place of its issue. A token that is not at the MXU for the group traps. Readings of the model:
log 39. -/
def Obligations.MatrixAccepted : Prop :=
  ∀ (s : State) (c sa sb : BitVec 3) (a b : BitVec 5) (z : BitVec 1), Ready s → InRound s 4 → s.pfx = none →
    s.me.path = s.me.alive → s.poison = [] → s.follower s.cur = false → c.toNat < (s.gridOf s.cur).accs →
    (∀ q ∈ s.mxu, q.group ≠ s.cur ∨ (q.kind ≠ 3 ∧ q.kind ≠ 4)) → s.mxuDepth (s.homeCore s.cur) < 4 →
    UniformRegs s a.toNat 1 → UniformRegs s b.toNat 1 →
    let gr := s.gridOf s.cur
    let token := (s.tokens s.cur).getD c.toNat (.mxu 0)
    let halves := if gr.twoshot = true then 2 else 1
    let ha := s.me.rg a.toNat
    let hb := s.me.rg b.toNat
    let bytes := fun (h : Word) (n : Nat) => s.handleBytes s.cur h n
    let queued := fun (i : Instr) (weight : Nat) (op : MxuOp) =>
      ∃ t, exec i s = .next t ∧ OutsideKept { s with mxu := s.mxu ++ [op] } t ∧ GoneOn s t weight [] ∧
        t.me.undoProgress s.me = s.me
    let va := gr.fmt sa.toNat
    let vb := gr.fmt sb.toNat
    let k := mmaK (slotType va) (slotType vb)
    let nb := operandBytes vb k
    (token = .mxu s.me.gix →
      (∀ m, m = 1 ∨ (m = 2 ∧ gr.twoshot = true) → s.operandTrap sa.toNat sb.toNat = none →
        s.rangeTrap [operandRange va k 1 ha, operandRange vb k m hb] = none →
        queued (if m = 1 then .mma c sa sb a b z else .mma2 c sa sb a b z) 4
          ⟨s.homeCore s.cur, s.cur, m - 1, c.toNat, z == 1, sa.toNat, sb.toNat, ha, hb,
            bytes (operandHandle va k ha) (operandBytes va k),
            (List.range m).map (fun h => ((bytes (operandHandle vb k hb) (m * nb)).drop (nb * h)).take nb), s.me.clr, s.ir⟩) ∧
      (slotBad 4 va 0 = false → s.rangeTrap [⟨ha, ha, 16384 * halves, 16⟩] = none →
        queued (.lda c sa a) 1 ⟨s.homeCore s.cur, s.cur, 2, c.toNat, false, sa.toNat, 0, ha, 0, bytes ha (16384 * halves), [],
          s.me.clr, s.ir⟩ ∧
        (gr.ordered = false →
          queued (.sta c sa a) 1 ⟨s.homeCore s.cur, s.cur, 3, c.toNat, false, sa.toNat, 0, ha, 0, [], [], s.me.clr, s.ir⟩) ∧
        (gr.ordered = true → s.mxu = [] →
          Changes s (.sta c sa a) 1 [] (fun g => { g with ops := g.ops ++ [.bytes (s.handleKey s.cur ha)
            ((List.range halves).flatMap (fun h => (List.range 4096).flatMap (fun q =>
              leBytes 4 (s.tiles.get (elementKey s.me.wg c.toNat (4096 * h +
                (if slotTrn va = true then 64 * (q % 64) + q / 64 else q)))).toNat)))] }))) ∧
      (s.drainTrap sa.toNat sb.toNat = none → gr.ordered = false →
        s.rangeTrap [⟨ha, ha, drainBytes va * halves, operandAlign va⟩] = none →
        queued (.drain c sa sb a) 1 ⟨s.homeCore s.cur, s.cur, 4, c.toNat, false, sa.toNat, sb.toNat, ha, 0, [], [],
          s.me.clr, s.ir⟩) ∧
      queued (.zacc c) 1 ⟨s.homeCore s.cur, s.cur, 5, c.toNat, false, 0, 0, 0, 0, [], [], s.me.clr, s.ir⟩) ∧
    (token ≠ .mxu s.me.gix → ∀ i ∈ ([.mma c sa sb a b z, .lda c sa a, .sta c sa a, .drain c sa sb a, .zacc c] : List Instr),
      exec i s = .next (s.deliver s.cur
        (⟨0x09, s.me.lowestAlive, BitVec.ofNat 16 c.toNat, 0, 0, 0, true⟩ : Trap)))

/-- R359 to R361 and R373: who holds the token of a tile, and the elements that its holder reads and writes. -/
def Obligations.TokenResults : Prop :=
  ∀ (s : State) (c : BitVec 3), Ready s → InRound s 1 → s.pfx = none → s.me.path = s.me.alive → s.mxu = [] →
    s.follower s.cur = false → c.toNat < (s.gridOf s.cur).accs → s.me.wg < s.wgs.length →
    let gr := s.gridOf s.cur
    let gix := s.me.gix
    let token := (s.tokens s.cur).getD c.toNat (.mxu 0)
    let moves := fun (i : Instr) (place : Token) =>
      ∃ t, exec i s = .next t ∧ GoneOn s t 1 [] ∧ t.me.undoProgress s.me = s.me ∧
        { t with groups := s.groups, wgs := s.wgs } = s ∧ (∀ k, k ≠ s.cur → t.grp k = s.grp k) ∧
        (∀ w, w ≠ s.me.wg → t.wgp w = s.wgp w) ∧
        t.wgp s.me.wg = { s.wgp s.me.wg with tokens := (s.wgp s.me.wg).tokens.set c.toNat place }
    let adds := fun (i : Instr) (op : OrdOp) => Changes s i 1 [] (fun g => { g with ops := g.ops ++ [op] })
    (token = .held gix → Changes s (.acqa c) 1 [] id ∧ (gr.ordered = true → adds (.rela c) (.rela c.toNat)) ∧
      (gr.ordered = false → moves (.rela c) (.mxu gix))) ∧
    (gr.ordered = true → token = .mxu gix → adds (.acqa c) (.acqa c.toNat)) ∧
    (gr.ordered = true → ∀ k, k ≠ gix → token = .mxu k → adds (.acqa c) (.acqaLate c.toNat)) ∧
    (gr.ordered = false → ∀ k, token = .mxu k → moves (.acqa c) (.held gix)) ∧
    (token = .held gix → ∀ (x : BitVec 6) (a : BitVec 5), ThreadRegs s x.toNat 1 → UniformRegs s a.toNat 1 →
      let v := (s.me.rg a.toNat).toNat
      let halves := if gr.twoshot = true then 2 else 1
      let el := fun k => elementKey s.me.wg c.toNat (32 * v + k)
      (v < 128 * halves →
        WritesThread s (.accrd c x a) 1 [] x.toNat 1 (fun k _ => s.tiles.get (el k)) ∧
        ∃ t, exec (.accwr c x a) s = .next t ∧ OutsideKept { s with tiles := t.tiles } t ∧ GoneOn s t 1 [] ∧
          t.me.undoProgress s.me = s.me ∧
          (∀ k ∈ s.me.path, t.tiles.get (el k) = s.me.rx k x.toNat) ∧
          ∀ e, (∀ k ∈ s.me.path, e ≠ el k) → t.tiles.get e = s.tiles.get e) ∧
      (128 * halves ≤ v → ∀ i ∈ ([.accrd c x a, .accwr c x a] : List Instr),
        exec i s = .next (s.deliver s.cur
          (⟨0x03, s.me.lowestAlive, 0, 0, (s.me.rg a.toNat).setWidth 64, 0, true⟩ : Trap))))

/-- R26, R105, R108, R194, R213, R214 and R241: what each system register reads as, what SWR writes, and the privilege
that the trap record asks for. -/
def Obligations.SystemRegisterResults : Prop :=
  ∀ (s : State) (x : BitVec 7), Ready s → InRound s 1 → s.pfx = none → ThreadRegs s x.toNat 1 →
    let g := s.me
    let gr := s.gridOf s.cur
    let w := s.wgOf s.cur
    let bit := fun (b : Bool) => if b = true then 1 else 0
    let gsr := g.rix.toNat + 2 ^ 10 * g.clr.toNat +
      2 ^ 16 * ((List.range 8).map (fun k => 2 ^ k * bit (decide ((s.tokens s.cur).getD k (.mxu 0) = .held g.gix)))).sum +
      2 ^ 27 * bit g.jf + 2 ^ 28 * bit gr.twoshot + 2 ^ 29 * bit gr.ordered + 2 ^ 30 * g.priv.toNat
    let pc := fun k => if g.priv = 1 then (g.savedPc.get k).toNat else s.at'
    let reads := fun (n : BitVec 10) (v : Nat → Nat) =>
      WritesThread s (.srd x n) 1 [] x.toNat 1 (fun k _ => BitVec.ofNat 32 (v k))
    let v := g.rx (g.path.headD 0) x.toNat
    reads 0x000 (fun k => k) ∧ reads 0x001 (fun _ => g.gix) ∧ reads 0x002 (fun _ => w.id % gr.gx) ∧
    reads 0x003 (fun _ => w.id / gr.gx % gr.gy) ∧ reads 0x004 (fun _ => w.id / (gr.gx * gr.gy)) ∧
    reads 0x005 (fun _ => s.trank s.cur) ∧ reads 0x006 (fun _ => w.id % gr.lcores) ∧ reads 0x007 (fun _ => w.id % gr.team) ∧
    reads 0x008 (fun _ => gr.ngrp) ∧ reads 0x009 (fun _ => gr.gx) ∧ reads 0x00A (fun _ => gr.gy) ∧
    reads 0x00B (fun _ => gr.gz) ∧ reads 0x010 (fun _ => g.lc) ∧ reads 0x011 (fun _ => g.lc / 2 ^ 32) ∧
    reads 0x020 (fun _ => gsr) ∧ reads 0x021 (fun _ => gr.fpcr.toNat) ∧ reads 0x022 (fun _ => g.fx.toNat) ∧
    reads 0x030 pc ∧ reads 0x033 (fun k => pc k / 2 ^ 32 % 2 ^ 23) ∧
    reads 0x031 (fun k => (g.spb.get k).toNat) ∧ reads 0x032 (fun k => (g.rsd.get k).toNat) ∧
    (∀ q : Nat, q < 4 →
      (g.priv ≠ 0 → reads (BitVec.ofNat 10 (0x040 + q)) (fun _ => g.trapRec.toNat / 2 ^ (32 * q))) ∧
      (g.priv = 0 → ∀ i ∈ ([.srd x (BitVec.ofNat 10 (0x040 + q)), .swr x (BitVec.ofNat 10 (0x040 + q))] : List Instr),
        exec i s = .next (s.deliver s.cur (⟨0x02, g.path.headD 0, 1, 0, 0, 0, false⟩ : Trap)))) ∧
    Changes s (.swr x 0x020) 1 [] (fun g => { g with
      clr := v.extractLsb' 10 3, jf := g.jf && !v.getLsbD 27, rix := if g.priv = 0 then g.rix else v.extractLsb' 0 5 }) ∧
    (g.priv ≠ 0 → Changes s (.swr x 0x022) 1 [] (fun g => { g with fx := v.extractLsb' 0 7 })) ∧
    ∃ t, exec (.swr x 0x031) s = .next t ∧ OutsideKept s t ∧ GoneOn s t 1 [] ∧
      { t.me.undoProgress s.me with spb := s.me.spb } = s.me ∧
      ∀ k, t.me.spb.get k = if k ∈ g.path then g.rx k x.toNat else g.spb.get k

/-- R389 to R391 and R377: TRAP and BKPT complete, and enter the handler: what is saved, the trap record, the
privilege and the PC; everything else of the group is shared with the handler. Readings of the model: log 96. -/
def Obligations.SoftwareTrapEntersHandler : Prop :=
  ∀ (s : State) (n : BitVec 10), Ready s → InRound s 1 → s.pfx = none → s.slots = [] → s.me.priv = 0 →
    (s.gridOf s.cur).handler = true → (s.gridOf s.cur).hpc < 2 ^ 55 →
    let hpc := (s.gridOf s.cur).hpc
    let enters := fun (i : Instr) (code : BitVec 8) =>
      ∃ t, exec i s = .next t ∧ OutsideKept s t ∧ t.me.lc = s.me.lc + 1 ∧ t.me.priv = 1 ∧ t.me.st = .handler ∧
        t.me.trapRec = BitVec.ofNat 128 (code.toNat + 2 ^ 16 * n.toNat) ∧ t.me.rix = 0 ∧ t.me.windows = [] ∧
        (∀ k, (t.me.savedPc.get k).toNat = if k ∈ s.me.path then s.at' + 4 else s.me.pcOf k) ∧
        t.me.savedParked = s.me.parked ∧ t.me.parked = 0 ∧ t.me.path = s.me.alive ∧ t.me.sel = hpc ∧
        (∀ k, t.me.pcOf k = if k ∈ s.me.alive then hpc else s.me.pcOf k) ∧
        { t.me.undoProgress s.me with
          priv := s.me.priv, st := s.me.st, trapRec := s.me.trapRec, rix := s.me.rix, savedPc := s.me.savedPc,
          savedParked := s.me.savedParked, parked := s.me.parked, savedSel := s.me.savedSel, savedWalk := s.me.savedWalk,
          savedFrom := s.me.savedFrom, sleep := s.me.sleep, wake := s.me.wake } = s.me
    enters (.trap n) 0x10 ∧ enters (.bkpt n) 0x11

/-- R389 and R391: taking any trap that has a handler: the record, the resume index, the saved PCs and the entry, with
nothing else of the machine changed. Readings of the model: log 96. -/
def Obligations.TrapEntry : Prop :=
  ∀ (s : State) (i : Nat) (t : Trap), i < s.groups.length → (s.grp i).priv = 0 → (s.gridOf i).handler = true →
    s.slots = [] → t.code ≠ 0x12 → t.thread < 32 → (s.gridOf i).hpc < 2 ^ 55 →
    let u := s.takeTrap i t
    let g := u.grp i
    let old := s.grp i
    { u with groups := s.groups } = s ∧ u.groups.length = s.groups.length ∧ (∀ k, k ≠ i → u.grp k = s.grp k) ∧
    g.trapRec.toNat = t.code.toNat + 2 ^ 8 * t.thread + 2 ^ 13 * t.src.toNat + (if t.whole = true then 2 ^ 15 else 0) +
      2 ^ 16 * t.detail.toNat + 2 ^ 32 * t.aux.toNat + 2 ^ 64 * t.info.toNat ∧
    g.rix.toNat = t.thread ∧ g.priv = 1 ∧ g.st = .handler ∧ g.savedPc = old.pc ∧ g.savedParked = old.parked ∧
    g.parked = 0 ∧ (∀ k, g.pcOf k = if k ∈ old.alive then (s.gridOf i).hpc else old.pcOf k) ∧ g.path = old.alive ∧
    g.lc = old.lc ∧ g.x = old.x ∧ g.p = old.p ∧ g.g = old.g ∧ g.j = old.j ∧ g.rst = old.rst ∧ g.rsd = old.rsd ∧
    g.spb = old.spb ∧ g.fx = old.fx ∧ g.clr = old.clr ∧ g.jf = old.jf ∧ g.exited = old.exited ∧ g.take = old.take ∧
    g.ops = old.ops ∧ g.armed = old.armed

/-- R392, R395 and R396: a trap without a handler, at supervisor privilege or in the handler ends the context: at once
in FREE mode, after its round in ORDERED mode. Readings of the model: log 14. -/
def Obligations.TrapEndsContext : Prop :=
  ∀ (s : State) (i : Nat) (t : Trap), i < s.groups.length → (s.gridOf i).root < s.grids.length → (s.grp i).st ≠ .retired →
    s.slots = [] → t.code ≠ 0x12 → t.thread < 32 →
    let double := (s.grp i).priv = 1
    let plain := (s.grp i).priv ≠ 1 ∧ ((s.gridOf i).handler = false ∨ (s.grp i).priv = 2)
    let root := (s.gridOf i).root
    let u := s.takeTrap i t
    (plain ∨ double) →
      ((u.grp i).st = .retired ∧ (u.grp i).halted = true ∧ u.mem = s.mem ∧ u.scratch = s.scratch ∧ u.host = s.host ∧
        u.tiles = s.tiles ∧ u.regs = s.regs) ∧
      (plain → (u.grp i).trapRec = t.record ∧ (u.grp i).rix.toNat = t.thread) ∧
      (double → (u.grp i).trapRec = (s.grp i).trapRec) ∧
      ((s.gridOf i).ordered = true → (∀ k, k ≠ i → u.grp k = s.grp k) ∧
        { u with groups := s.groups, grids := s.grids } = s ∧
        ∃ e, (u.grd root).ending = (s.grd root).ending ++ [e] ∧ e.round = (s.grp i).lc / 64 ∧ e.group = i ∧
          (e.double = true ↔ double) ∧ (plain → e.trap = t) ∧
          (double → e.trap = { t with code := 0x17, detail := t.code ++ (s.grp i).trapRec.extractLsb' 0 8 }) ∧
          { u.grd root with ending := (s.grd root).ending } = s.grd root) ∧
      ((s.gridOf i).ordered = false →
        (∀ k, k < s.groups.length → (s.gridOf k).root = root → (u.grp k).st = .retired) ∧
        (∀ k, k < s.groups.length → (s.gridOf k).root ≠ root → u.grp k = s.grp k) ∧
        (∀ k, k < s.copies.length → u.copySt k =
          if s.copyIn root k = true ∧ (s.copySt k = 0 ∨ 4 ≤ s.copySt k) then 2 else s.copySt k) ∧
        ∀ k, k < s.grids.length → (s.grd k).root = root → (s.grd k).st ≠ .done →
          (u.grd k).status = some (if (s.grd root).mcheck = true then (6, 0) else if double then (2, 0x17)
            else if t.code = 0x0E then (3, t.info) else (2, t.code.setWidth 64)) ∧ (u.grd k).nextTeam = (s.grd k).nwg)

/-- R386 and R393: RFT restores the privilege, the PCs and the parked mask, and the resumed instruction goes on from
thread RIX, or whole; after the trap of a load that was sent again, where it stood; outside a handler it is a PRIVILEGE
trap, and after HALTCTX it is ILLEGAL. Readings of the model: logs 96 and 109. -/
def Obligations.ReturnFromTrapResults : Prop :=
  ∀ (s : State), Ready s → s.pfx = none →
    (s.me.priv = 1 → s.me.halter = false →
      (∃ k ∈ s.me.alive, inMask s.me.savedParked k = false ∧ (s.me.savedPc.get k).toNat = s.me.savedSel) →
      let code := s.me.trapRec.extractLsb' 0 8
      let next := s.me.trapRec.extractLsb' 13 2 ≠ 0 ∨ code = 0x10 ∨ code = 0x11
      ∃ t, exec .rft s = .next t ∧ OutsideKept s t ∧ t.me.priv = 0 ∧ t.me.st = .running ∧ t.me.lc = s.me.lc ∧
        (∀ k, t.me.pcOf k = if k ∈ s.me.alive then (s.me.savedPc.get k).toNat else s.me.pcOf k) ∧
        t.me.parked = s.me.savedParked ∧ t.me.sel = s.me.savedSel ∧ t.me.windows = [] ∧
        (∀ w, s.me.savedFrom = some w → t.me.walkFrom = w) ∧
        (s.me.savedFrom = none → next ∨ s.me.trapRec.getLsbD 15 = true → t.me.walkFrom = none) ∧
        (s.me.savedFrom = none → ¬next → s.me.trapRec.getLsbD 15 = false → t.me.walkFrom = some s.me.rix.toNat) ∧
        { t.me.undoProgress s.me with
          priv := s.me.priv, st := s.me.st, parked := s.me.parked, walkFrom := s.me.walkFrom, walk := s.me.walk,
          savedFrom := s.me.savedFrom } = s.me) ∧
    (s.me.priv ≠ 1 → exec .rft s = .next (s.deliver s.cur (⟨0x02, s.me.path.headD 0, 1, 0, 0, 0, false⟩ : Trap))) ∧
    (s.me.priv = 1 → s.me.halter = true →
      exec .rft s = .next (s.deliver s.cur (⟨0x01, s.me.path.headD 0, 0, 0, s.ir.setWidth 64, 0, false⟩ : Trap)))

/-- R135, R139, R266, R378 and R387: EMIT, CYCRD and the XT words. How far a cycle counter has moved on is a free
value of the model (log 6). Readings of the model: logs 6, 10 and 78. -/
def Obligations.EventCycleAndPrefixResults : Prop :=
  ∀ (s : State) (x : BitVec 7),
    (Ready s → InRound s 1 → s.pfx = none → ThreadRegs s x.toNat 1 → ∀ n : BitVec 10,
      let die := s.me.core / 144
      (s.watched die 0x60 (s.gridOf s.cur).tenant = false → Changes s (.emit x n) 1 [] id) ∧
      (s.watched die 0x60 (s.gridOf s.cur).tenant = true →
        ∃ t r, exec (.emit x n) s = .next t ∧ GoneOn s t 1 [] ∧ t.me.undoProgress s.me = s.me ∧
          OutsideKept { s with tcoIn := s.tcoIn ++ [r], tv := s.tv + 1 } t ∧ r.tco = die ∧
          (r.bits.extractLsb' 24 8).toNat = 0x60 ∧ r.bits.extractLsb' 18 6 = (s.gridOf s.cur).tenant ∧
          r.bits.extractLsb' 64 32 = n.setWidth 32 ∧ r.bits.extractLsb' 96 32 = s.me.rx (s.me.path.headD 0) x.toNat ∧
          ((s.gridOf s.cur).ordered = true → r.bits.extractLsb' 32 24 = BitVec.ofNat 24 (s.me.lc / 64)))) ∧
    (Ready s → InRound s 1 → s.pfx = none → ThreadRegs s x.toNat 2 → s.me.core / 144 < s.dies.length →
      let gr := s.gridOf s.cur
      (gr.ordered = true → gr.timeread = false →
        exec (.cycrd x) s = .next (s.deliver s.cur (⟨0x13, s.me.path.headD 0, 0, 0, 0, 0, false⟩ : Trap))) ∧
      ((gr.ordered = true → gr.timeread = true ∧ gr.root < s.grids.length) →
        ∃ t, exec (.cycrd x) s = .next t ∧ GoneOn s t 1 [] ∧ { t.me.undoProgress s.me with x := s.me.x } = s.me ∧
          { t with groups := s.groups, grids := s.grids, dies := s.dies, fv := s.fv } = s ∧
          (∀ k, k ≠ s.cur → t.grp k = s.grp k) ∧ (gr.ordered = true → (t.grd gr.root).ext = true) ∧
          let die := s.me.core / 144
          let now := ((t.dies.getD die ⟨false, 0, [], 0, 0⟩).cyc)
          let old := ((s.dies.getD die ⟨false, 0, [], 0, 0⟩).cyc)
          0 < (now - old).toNat ∧ (now - old).toNat ≤ 2 ^ 32 ∧
          (∀ d, d ≠ die → t.dies.getD d ⟨false, 0, [], 0, 0⟩ = s.dies.getD d ⟨false, 0, [], 0, 0⟩) ∧
          ∀ k r, r < 128 → t.me.rx k r = if k ∈ s.me.path ∧ r = x.toNat then now.extractLsb' 0 32
            else if k ∈ s.me.path ∧ r = x.toNat + 1 then now.extractLsb' 32 32 else s.me.rx k r)) ∧
    ∀ (p : BitVec 24) (l : BitVec 4) (c : BitVec 7) (e : BitVec 1) (k : BitVec 3) (t' q : BitVec 2),
      ∀ i ∈ ([.xtImm p, .xtOpd l c, .xtMem e k t' q] : List Instr), i.wf = true →
        ∃ w, decodeWord w = .ok i ∧ exec i s = .next { s with pfx := some w }

/-- R379 to R382, R384, R385 and R397: MIGR, LAUNCH and HALTCTX at their issue. Readings of the model: logs 45, 87 and
119. -/
def Obligations.MigrationLaunchAndHaltResults : Prop :=
  ∀ (s : State) (x : BitVec 7) (g : BitVec 5), Ready s → s.pfx = none → s.poison = [] →
    let gr := s.gridOf s.cur
    let p := s.me.rx64 s.me.lowestAlive x.toNat
    (∀ y, s.me.path = s.me.alive → ThreadRegs s x.toNat 2 → p.toNat < 2 ^ 55 →
      s.reachMemory s.cur s.me.lowestAlive .load p = (s, .ok y) →
      let moved := ({ (if s.me.core / 144 = homeDie y.addr then s.me
        else { s.me with st := .migrating, target := homeDie y.addr }) with
        ticket := none, nack := none, landing := s.landingSlot s.cur (homeDie y.addr) == some true } : Group)
      (s.landingRefused s.cur (homeDie y.addr) = false → gr.ordered = false → (∀ q ∈ s.mxu, q.group ≠ s.cur) →
        ∃ t, exec (.migr x) s = .next t ∧ t.me.lc = s.me.lc + 1 ∧ t.me.windows = [] ∧
          (∀ k, t.me.pcOf k = if k ∈ s.me.path then s.at' + 4 else s.me.pcOf k) ∧
          { t with groups := s.groups, grids := s.grids, l1 := s.l1, rdc := s.rdc } = s ∧ (∀ k, k ≠ s.cur → t.grp k = s.grp k) ∧
          t.me.undoProgress s.me = moved) ∧
      (s.landingRefused s.cur (homeDie y.addr) = false → gr.ordered = true → Settled s → s.me.windows = [] →
        ∃ t, exec (.migr x) s = .next t ∧ Closes s t [] [] moved) ∧
      (InRound s 1 → Coherent s → s.slots = [] → (s.rootOf s.cur).extLines = [] → (s.rootOf s.cur).extFrames = [] →
        (s.rootOf s.cur).old = [] →
        p.toNat % 256 = 0 → UniformRegs s g.toNat 1 →
        let r := if gr.ordered = true then (List.range 256).map (fun k =>
            (takeByte s.me.take false 0 (y.off + k)).getD (s.mem.get (y.addr + k))) else byteList s.mem y.addr 256
        let status := if 8 ≤ gr.depth then 1 else if 65536 ≤ s.pendingChildren s.cur then 2
          else if (r.getD 0x02B 0).getLsbD 0 ≠ gr.ordered then 3
          else if leAt r 0x088 8 % 64 ≠ 0 ∨ 2 ^ 55 ≤ leAt r 0x088 8 then 4 else 0
        ∃ t, exec (.launch x g) s = .next t ∧ GoneOn s t 1 [] ∧ (∀ k, k ≠ s.cur → t.grp k = s.grp k) ∧
          { t with groups := s.groups, grids := s.grids, l1 := s.l1, rdc := s.rdc, l2 := s.l2, fv := s.fv } = s ∧
          (∀ k, k < s.grids.length → { t.grd k with reads := (s.grd k).reads, seen := (s.grd k).seen } = s.grd k) ∧
          { t.me.undoProgress s.me with g := s.me.g, nlaunch := s.me.nlaunch, launched := s.me.launched } = s.me ∧
          t.me.nlaunch = s.me.nlaunch + 1 ∧
          (∀ q, t.me.rg q = if q = g.toNat ∧ q ≠ 0 then BitVec.ofNat 32 status else s.me.rg q) ∧
          t.grids.length = s.grids.length + (if status = 0 then 1 else 0) ∧
          (status = 0 →
            let c := t.grd s.grids.length
            c.parent = some s.me.grid ∧ c.root = gr.root ∧ c.depth = gr.depth + 1 ∧ c.fn = gr.fn ∧ c.queue = gr.queue ∧
            c.table = gr.table ∧ c.asid = gr.asid ∧ c.tenant = gr.tenant ∧ c.sup = gr.sup ∧ c.st = .running ∧
            c.code = s.mem ∧ c.key = s.key s.cur ++ [s.me.nlaunch] ∧ c.birth = s.me.lc / 64 + 1 ∧
            (∀ o, o < 256 → o < 0x090 ∨ 0x098 ≤ o → c.lrec.getD o 0 = r.getD o 0)))) ∧
    (∀ c : BitVec 1, UniformRegs s g.toNat 1 →
      (s.me.priv = 0 → exec (.haltctx c g) s =
        .next (s.deliver s.cur (⟨0x02, s.me.path.headD 0, 1, 0, 0, 0, false⟩ : Trap))) ∧
      (s.me.priv ≠ 0 → gr.ordered = true → InRound s 1 → gr.root < s.grids.length → (s.grd gr.root).halt = none →
        (∀ k, k < s.groups.length → (s.gridOf k).root = gr.root → keyLt (s.key k) (s.key s.cur) = true →
          (s.grp k).past (s.me.lc / 64) = true) →
        (∀ k, k < s.grids.length → (s.grd k).root = gr.root → (s.grd k).st ≠ .done → ∀ w ∈ s.waitingTeams k,
          keyLt (s.teamKey k w) (s.key s.cur) = true → ∀ c, s.teamClock k w = some c → s.me.lc / 64 < c / 64) →
        ∃ t, exec (.haltctx c g) s = .next t ∧ GoneOn s t 1 [] ∧ { t with groups := s.groups, grids := s.grids } = s ∧
          (∀ k, k ≠ s.cur → t.grp k = s.grp k) ∧ (t.grd gr.root).halt = some (s.me.lc / 64, s.cur) ∧
          { t.me.undoProgress s.me with g := s.me.g, halter := s.me.halter } = s.me ∧ t.me.halter = true ∧
          ∀ q, t.me.rg q = if q = g.toNat ∧ q ≠ 0 then 0 else s.me.rg q) ∧
      (s.me.priv ≠ 0 → gr.ordered = false →
        let count := fun (p : Nat → Bool) =>
          ((List.range s.copies.length).filter (fun k => s.copyIn gr.root k && p (s.copySt k))).length
        ∃ t, exec (.haltctx c g) s = .next t ∧
          (∀ k, k < s.groups.length → k ≠ s.cur → (s.gridOf k).root = gr.root → (t.grp k).st = .retired) ∧
          (∀ k, k < s.groups.length → (s.gridOf k).root ≠ gr.root → t.grp k = s.grp k) ∧
          { t.me with halter := s.me.halter, walkFrom := none, haltWait := none } = { s.me with haltWait := none } ∧
          t.me.halter = true ∧ t.me.walkFrom = some (s.me.path.headD 0) ∧
          t.me.haltWait = some (g.toNat, count (· == 1), if c = 1 then count (fun x => x == 0 || 4 ≤ x) else 0) ∧
          t.mem = s.mem ∧ t.scratch = s.scratch ∧ t.regs = s.regs ∧ t.tiles = s.tiles ∧
          (c = 0 → t.copies = s.copies) ∧
          (c = 1 → ∀ k, k < s.copies.length → t.copySt k =
            if s.copyIn gr.root k = true ∧ (s.copySt k = 0 ∨ 4 ≤ s.copySt k) then 2 else s.copySt k)))

/-! ### Encoding -/

/-- Words that the spec works out, and what the bytes of each decode to. -/
def Obligations.WorkedWordsDecode : Prop :=
  decode [0xC0, 0x50, 0x20, 0x04] = .ok (.add 4 5 6, []) ∧
  decode [0x0D, 0x54, 0x20, 0x34] = .ok (.bfez 4 5 8 3, []) ∧
  decode [0xB0, 0x81, 0xA0, 0x24] = .ok (.icmp 1 1 2 3 6 0, []) ∧
  decode [0xFD, 0x63, 0x50, 0x80] = .ok (.ldd 10 6 3 0xFD, []) ∧
  decode [0xFE, 0xFF, 0x3F, 0xBC] = .ok (.bra 0 15 0x3FFFE, []) ∧
  decode [0xB7, 0x51, 0x20, 0x54] = .ok (.scanFadd 4 5 3, []) ∧
  decode [0x2C, 0x67, 0x40, 0xA8, 0x00] = .ok (.atomxCas 8 6 7 1 2 0, [0x00]) ∧
  decode [0x83, 0xC6, 0x94, 0xC8] = .ok (.mma2 1 1 2 12 13 1, []) ∧
  decode [0x30, 0x10, 0x70, 0xD0] = .ok (.haltctx 1 6, []) ∧
  decode [0x18, 0x00, 0x00, 0xFC] = .ok (.xtImm 0x18, [])

/-- R259, R270 and R271: every instruction word reads back as the instruction it was made from, with every operand. -/
def Obligations.EncodeDecodeRoundTrip : Prop :=
  ∀ (i : Instr) (w : Word), i.wf = true → encode i = some w → decodeWord w = .ok i

/-- R261 and R272: a word that decodes is the word of that instruction: no other word has its meaning, and its codes
are in range. -/
def Obligations.DecodeEncodeRoundTrip : Prop :=
  ∀ (w : Word) (i : Instr), decodeWord w = .ok i → i.wf = true ∧ encode i = some w

/-! ### Steps -/

/-- R50, R163, R257, R258, R266 and R269: when the agenda names a group that may issue, a step fetches the word at the
PC of its path from the code of its grid, with an XT the word behind it, and runs the instruction that it decodes to.
A group that may not issue leaves the state as it is; an accepted register write is performed before anything else once
it may be; a device event that the agenda names is performed as its row of the opcode table. Readings of the model: logs 7, 78 and
95. -/
def Obligations.StepRunsDecodedInstruction : Prop :=
  (∀ (s : State) (k : Nat) (r : List Item) (e : TlbEntry) (i : Instr), s.posted = [] → s.agenda = .issue k :: r →
    s.canIssue k = true → s.atHaltRound k = false → (s.grp k).path ≠ [] →
    let g := s.gridOf k
    let p := (s.grp k).sel
    let word := fun (e : TlbEntry) (a : Nat) => BitVec.ofNat 32 (readBytes g.code (e.base + a % 65536) 4)
    let u := ({ s with agenda := r, cur := k, at' := p, pfx := none, ir := 0 } : State)
    s.lookup g kindFetch p = .ok e → decodeWord (word e p) = .ok i →
    ((word e p).toNat / 2 ^ 26 ≠ 0x3F → step s = exec i { u.useEntry e kindFetch with ir := word e p }) ∧
    ((word e p).toNat / 2 ^ 26 = 0x3F → ∀ (e' : TlbEntry) (i' : Instr),
      (u.useEntry e kindFetch).lookup g kindFetch (p + 4) = .ok e' → decodeWord (word e' (p + 4)) = .ok i' →
      (word e' (p + 4)).toNat / 2 ^ 26 ≠ 0x3F →
      step s = exec i' { (u.useEntry e kindFetch).useEntry e' kindFetch with
        ir := word e' (p + 4), pfx := some (word e p) })) ∧
  ∀ (s : State),
    (∀ c r, s.posted = c :: r → s.commandOpen c = true → step s = State.perform { s with posted := r } c) ∧
    (∀ e r, s.posted = [] → s.agenda = .event e :: r → encode e = none → step s = exec e { s with agenda := r }) ∧
    ∀ i r, s.posted = [] → s.agenda = .issue i :: r → s.canIssue i = false → step s = .next { s with agenda := r }

/-- R209, R261 and R272: a word that does not decode, and the word ILL, raise ILLEGAL at the lowest thread of the
path, or of the group for the words of the full-group majors, with the word in INFO and nothing performed. Readings of
the model: log 81. -/
def Obligations.IllegalWordTraps : Prop :=
  (∀ (s : State) (w : Word) (e : DecodeError), decodeWord w = .error e → s.pfx = none →
    let maj := w.toNat / 2 ^ 26
    let fn := w.toNat / 2 ^ 20 % 64
    let full := (0x2C ≤ maj ∧ maj ≤ 0x2E) ∨ maj = 0x32 ∨ maj = 0x33 ∨ (maj = 0x34 ∧ (fn = 5 ∨ fn = 6))
    s.runWord w = .next (({ s with ir := w } : State).deliver s.cur
      (⟨0x01, if full then s.me.lowestAlive else s.me.path.headD 0, 0, 0, w.setWidth 64, 0,
        decide (full ∨ maj = 0x15)⟩ : Trap))) ∧
  ∀ s : State, Ready s → s.pfx = none →
    exec .ill s = .next (s.deliver s.cur (⟨0x01, s.me.path.headD 0, 0, 0, s.ir.setWidth 64, 0, false⟩ : Trap))

/-- R256, R264 and R272: a register outside the group's file, or one that a window covers, stops an instruction before
it performs anything: ILLEGAL before LOOKAHEAD. Readings of the model: log 10. -/
def Obligations.RegisterChecksTrap : Prop :=
  ∀ (s : State) (d a b : BitVec 7), Ready s → s.pfx = none →
    let n := (s.gridOf s.cur).nregs
    let t := s.me.path.headD 0
    let checks := fun (i : Instr) (rs : List (Nat × Nat)) =>
      let bad := ∃ r ∈ rs, r.1 % r.2 ≠ 0 ∨ n < r.1 + r.2
      let covered := fun (k : Nat) => (∃ r ∈ rs, r.1 ≤ k ∧ k < r.1 + r.2) ∧
        ∃ w ∈ s.me.windows, w.uni = false ∧ w.reg ≤ k ∧ k < w.reg + w.count
      (bad → exec i s = .next (s.deliver s.cur (⟨0x01, t, 0, 0, s.ir.setWidth 64, 0, false⟩ : Trap))) ∧
      (¬bad → (∃ k, covered k) → ∃ k m, covered k ∧
        exec i s = .next (({ s with fv := s.fv + m } : State).deliver s.cur
          (⟨0x15, t, BitVec.ofNat 16 k, 0, 0, 0, false⟩ : Trap)))
    checks (.add d a b) [(d.toNat, 1), (a.toNat, 1), (b.toNat, 1)] ∧
    checks (.add64 d a b) [(d.toNat, 2), (a.toNat, 2), (b.toNat, 2)] ∧
    checks (.ffma d a b) [(d.toNat, 1), (a.toNat, 1), (b.toNat, 1)] ∧
    checks (.ldq d a 0 0) [(d.toNat, 4), (a.toNat, 2)] ∧
    checks (.stw d a 7 0) [(d.toNat, 1), (a.toNat, 2)] ∧
    checks (.atomAdd d a 7 0 0 1) [(d.toNat, 2), (a.toNat, 2)] ∧
    checks (.bri a) [(a.toNat, 2)]

/-! ### Reset and invariants -/

/-- R14, R216, R398, R437, R438, R451 and R452: right after reset every die waits for its firmware, nothing runs, the
physical function owns every cluster, channel, queue block and telemetry slot, and every other control register
outside its block is 0. Its memories and tables are in their canonical form. -/
def Obligations.ResetLeaves : Prop :=
  (∀ d ∈ State.reset.dies, d.up = false) ∧ State.reset.dies.length = 9 ∧ State.reset.grids = [] ∧
  State.reset.packets = [] ∧ (∀ q, q < 16384 → (State.reset.reg (queueBase q + 8)).getLsbD 0 = false) ∧
  State.reset.reg (partBase 0) = 1 ∧
  State.reset.reg64 (partBase 0 + 0x008) = 0x0000FFFFFFFFFFFF ∧
  (∀ k, k < 3 → State.reset.reg64 (partBase 0 + 0x010 + 8 * k) = 0xFFFFFFFFFFFFFFFF) ∧
  (∀ k, k < 4 → State.reset.reg64 (partBase 0 + 0x028 + 8 * k) = 0xFFFFFFFFFFFFFFFF) ∧
  State.reset.reg64 (partBase 0 + 0x048) = 0x1010 ∧ State.reset.reg64 (partBase 0 + 0x050) = 65536 ∧
  (∀ d, d < 8 → State.reset.reg64 (partBase 0 + 0x080 + 16 * d) = 45056 ∧
    State.reset.reg64 (partBase 0 + 0x088 + 16 * d) = 2359296) ∧
  (∀ t, t < 9 → State.reset.reg64 (partBase 0 + 0x100 + 8 * t) = 0xFFFFFFFFFFFFFFFF) ∧
  (∀ o, o < 0x01000000 ∨ 0x01000300 ≤ o → State.reset.reg o = 0) ∧ Canonical State.reset

/-- Every step keeps the memories and the register file in their canonical form, so equal contents are equal data.
Readings of the model: log 1. -/
def Obligations.StepKeepsCanonical : Prop := ∀ s t : State, Canonical s → step s = .next t → Canonical t

/-! ### Rounds, waking, writes of other agents -/

/-- R61, R62, R116, R120 to R122 and R125: a round of a domain that is due is applied, and the next round is due then.
It performs the buffered bytes of its contributions in key order, so of two groups that stored to one byte the one with
the larger key decides, and a byte that another agent has written behind the round keeps that value (R133); no L1 or RDC
keeps a copy of a line that the round wrote, and every copy that reflects the domain's rounds reflects this one. Readings
of the model: logs 7, 16, 18 and 89. -/
def Obligations.RoundApplicationResults : Prop :=
  (∀ (s : State) (dom : Nat), s.roundDue dom = true → s.endingDue dom = none → ∃ t, exec (.roundApply dom) s = .next t ∧
    (t.grd dom).applied = (s.grd dom).applied + 1 ∧
    ∀ x ∈ t.l1 ++ t.rdc, ∀ r, x.round = some (dom, r) → r = (s.grd dom).applied + 1) ∧
  ∀ (s : State) (dom : Nat), s.roundDue dom = true → (s.grd dom).ending = [] → (s.grd dom).halt = none →
    (s.grd dom).area = none →
    let d := s.grd dom
    (∀ c ∈ d.contribs, c.round = d.applied ∧ c.ops = [] ∧
      c.take.Pairwise (fun a b => a.scratch ≠ b.scratch ∨ a.place ≠ b.place)) →
    d.contribs.Pairwise (fun a b => keyLt (s.key a.group) (s.key b.group) = true) →
    let behind := fun (scr : Bool) (a : Nat) => scr = false ∧ ∃ e ∈ d.old, e.1 = a / 64 ∧ e.2.2.getLsbD (a % 64) = true
    let byteOf := fun (c : Contribution) (scr : Bool) (a : Nat) =>
      (c.take.find? (fun e => e.scratch == scr && e.place == a / 64 && e.mask.getLsbD (a % 64))).map
        (fun e => e.data.extractLsb' (8 * (a % 64)) 8)
    ∃ t, exec (.roundApply dom) s = .next t ∧
      (t.grd dom).applied = d.applied + 1 ∧ (t.grd dom).reads = [] ∧ (t.grd dom).contribs = [] ∧
      (∀ scr a, ¬behind scr a → (t.store scr).get a =
        ((d.contribs.reverse.findSome? (fun c => byteOf c scr a)).getD ((s.store scr).get a))) ∧
      (t.grd dom).old = [] ∧ (∀ scr a, behind scr a → (t.store scr).get a = (s.store scr).get a) ∧
      (∀ x ∈ t.l1 ++ t.rdc, ∀ c ∈ d.contribs, ∀ e ∈ c.take, e.scratch = false → e.mask ≠ 0 → x.sector / 2 ≠ e.place) ∧
      t.regs = s.regs ∧ t.host = s.host ∧ t.tiles = s.tiles ∧ t.tcoMem = s.tcoMem ∧ t.wgs = s.wgs ∧ t.copies = s.copies ∧
      t.mxu = s.mxu ∧
      ∀ k, (t.grp k).x = (s.grp k).x ∧ (t.grp k).pc = (s.grp k).pc ∧ (t.grp k).lc = (s.grp k).lc

/-- R127, R128, R340, R344 and R394: what a sleeping group finds when its wake round comes, or when a time runs out,
and DEADLOCK for the sleeper with the smallest key. Readings of the model: log 22. -/
def Obligations.WakeResults : Prop :=
  ∀ (s : State) (i : Nat), s.slots = [] →
    let g := s.grp i
    let back := if g.priv = 1 then GroupState.handler else .running
    let cleared := g.armed.map (fun l => { l with fired := false })
    (∀ w p m, s.wakeDue i = true → g.wake = some w →
      (g.sleep = some ⟨.cede, p, m⟩ → exec (.groupWake i) s = .next { s with
        groups := s.groups.set i { g with st := back, sleep := none, wake := none, lc := 64 * w }, tv := s.tv + 1 }) ∧
      (∀ d, g.sleep = some ⟨.mwait d, p, m⟩ →
        ∃ t, exec (.groupWake i) s = .next t ∧ { t with groups := s.groups, tv := s.tv } = s ∧
          (∀ k, k ≠ i → t.grp k = s.grp k) ∧
          { t.grp i with g := g.g } =
            { g with st := back, sleep := none, wake := none, lc := 64 * w, armed := cleared, monRound := w } ∧
          ∀ r, (t.grp i).rg r = if r = d ∧ d ≠ 0 then (if ∃ l ∈ g.armed, l.fired = true then 0 else 1) else g.rg r)) ∧
    ((s.gridOf i).ordered = false → (s.gridOf i).st = .running → g.st = .sleeping → g.wake ≠ none → ∀ p m,
      (g.sleep = some ⟨.cede, p, m⟩ → exec (.cedeExpiry i) s = .next { s with
        groups := s.groups.set i { g with st := back, sleep := none, wake := none } }) ∧
      (∀ d, g.sleep = some ⟨.mwait d, p, m⟩ → ∃ t, exec (.mwaitTimeout i) s = .next t ∧ { t with groups := s.groups } = s ∧
        (∀ k, k ≠ i → t.grp k = s.grp k) ∧
        { t.grp i with g := g.g } = { g with st := back, sleep := none, wake := none, armed := cleared } ∧
        ∀ r, (t.grp i).rg r = if r = d ∧ d ≠ 0 then 1 else g.rg r)) ∧
    (∀ dom, s.deadlocked dom = true → i ∈ s.sleepers dom →
      (∀ k ∈ s.sleepers dom, k ≠ i → keyLt (s.key i) (s.key k) = true) → g.priv = 0 → (s.gridOf i).handler = true →
      ∀ sl, g.sleep = some sl → ∃ t, exec (.deadlock dom) s = .next t ∧ { t with groups := s.groups } = s ∧
        (∀ k, k ≠ i → t.grp k = s.grp k) ∧ (t.grp i).st = .handler ∧ (t.grp i).priv = 1 ∧ (t.grp i).sleep = none ∧
        (t.grp i).lc = 64 * max (s.grd dom).closed (s.grd dom).applied ∧ (t.grp i).x = g.x ∧ (t.grp i).g = g.g ∧
        (t.grp i).trapRec = (⟨0x0E, g.lowestAlive, 0, 0,
          BitVec.ofNat 64 (max (s.grd dom).closed (s.grd dom).applied - 1), 0, true⟩ : Trap).record ∧
        ∀ k, k < 32 → (t.grp i).savedPc.get k =
          if inMask sl.mask k = true ∧ inMask g.exited k = false then BitVec.ofNat 64 sl.pc else g.pc.get k)

/-- R62, R126, R133, R163 and R390: writes of other agents, which land between rounds or wait; the end of an ORDERED
copy's reads; and the delivery of a trap that waited for a boundary. Readings of the model: logs 8, 16, 23, 89 and 110.
-/
def Obligations.BoundaryEventResults : Prop :=
  ∀ (s : State) (i : Nat),
    (∀ w, s.externalDue i = true → s.ext[i]? = some w → ∃ t, exec (.externalWriteLand i) s = .next t ∧
      t.ext = s.ext.eraseIdx i ∧ t.scratch = s.scratch ∧ t.host = s.host ∧ t.regs = s.regs ∧ t.tiles = s.tiles ∧
      ∀ a, t.mem.get a = if w.addr ≤ a ∧ a < w.addr + w.data.length then w.data.getD (a - w.addr) 0 else s.mem.get a) ∧
    (∀ (addr : Nat) (data : List Byte), addr + data.length ≤ 2 ^ 47 →
      (s.linesOk noDomain (linesFrom addr data.length) = true → s.ext = [] → ∃ t, exec (.hostBarWrite addr data) s = .next t ∧ t.ext = [] ∧
        t.scratch = s.scratch ∧ t.host = s.host ∧ t.regs = s.regs ∧ t.tiles = s.tiles ∧
        ∀ a, t.mem.get a = if addr ≤ a ∧ a < addr + data.length then data.getD (a - addr) 0 else s.mem.get a) ∧
      (s.linesOk noDomain (linesFrom addr data.length) = false ∨
          (∃ x ∈ s.ext, x.host = true ∨ x.addr / 64 ∈ linesFrom addr data.length) →
        ∃ ls, exec (.hostBarWrite addr data) s = .next { s with ext := s.ext ++ ls } ∧ (ls.map (·.data)).flatten = data ∧
          (ls.map (fun l => (List.range l.data.length).map (l.addr + ·))).flatten = (List.range data.length).map (addr + ·) ∧
          ∀ l ∈ ls, l.host = true ∧ l.data ≠ [] ∧ l.addr / 64 = (l.addr + l.data.length - 1) / 64)) ∧
    (∀ c, s.sourceDue i = true → s.copies[i]? = some c → s.poison = [] → (s.grp c.group).closing = none →
      let d := Desc.ofBits c.desc
      d.src.toNat / 2 ^ 60 = 1 → d.dst.toNat / 2 ^ 60 = 1 →
      exec (.copySourceReadDone i) s = .next { s with copies := s.copies.set i { c with
        data := some ((List.range d.count).map (fun k =>
          BitVec.ofNat 64 (readBytes s.scratch (s.elemKey c.group (d.src.toNat / 2 ^ 55 % 32) d.src (d.srcOff k)) d.es))),
        dest := [], uncached := [] } }) ∧
    (∀ p r, s.trapDue i = true → (s.grp i).pend = p :: r → (s.grp i).flight = [] → s.slots = [] → p.code ≠ 0x12 →
      (s.grp i).priv = 0 → (s.gridOf i).handler = true → ∃ t, exec (.trapDelivery i) s = .next t ∧
        { t with groups := s.groups } = s ∧ (∀ k, k ≠ i → t.grp k = s.grp k) ∧ (t.grp i).pend = r ∧
        (t.grp i).trapRec = p.record ∧ (t.grp i).priv = 1 ∧ (t.grp i).st = .handler ∧ (t.grp i).savedPc = (s.grp i).pc ∧
        (t.grp i).lc = (s.grp i).lc ∧ (t.grp i).x = (s.grp i).x)

/-- R45, R53, R73, R152, R165, R186, R189, R190, R343 and R379 to R384: accesses, arrivals and answers of FREE mode when they
come. Readings of the model: logs 8, 16, 25, 50, 59, 85, 99, 102, 110, 112, 113 and 119. -/
def Obligations.ArrivalResults : Prop :=
  ∀ (s : State) (i k : Nat), s.slots = [] →
    let g := s.grp i
    let gone := { g with flight := g.flight.eraseIdx k }
    (∀ f, g.flight[k]? = some f → f.gen = g.gen → (∀ x ∈ g.flight.take k, x.meets f.scratch f.addr f.n = false) →
      (f.kind = 0 → f.scratch = true → f.uni = false → f.lo = 0 → f.n = 4 → f.size = 4 → f.reg < 128 →
        ∃ t, exec (.loadResponse i k) s = .next t ∧ { t with groups := s.groups } = s ∧ (∀ j, j ≠ i → t.grp j = s.grp j) ∧
          { t.grp i with x := g.x } = gone ∧
          ∀ h r, r < 128 → (t.grp i).rx h r =
            if h = f.thread ∧ r = f.reg then BitVec.ofNat 32 (readBytes s.scratch f.addr 4) else g.rx h r) ∧
      (f.kind = 1 → (f.scratch = true ∨ s.linesOk noDomain [f.addr / 64] = true) →
        let both := s.together ((g.flight.filter f.sameStore).flatMap Flight.cells) f
        let cells := (if both = true then g.flight.filter f.sameStore else [f]).flatMap Flight.cells
        ∃ t, exec (.storePerform i k) s = .next t ∧ t.regs = s.regs ∧ t.host = s.host ∧
          t.grp i = (if both = true then { g with flight := g.flight.filter (fun x => !f.sameStore x) } else gone) ∧
          ∀ scr a, (t.store scr).get a = if scr = f.scratch
            then ((cells.reverse.find? (fun c => c.1 == a)).map (·.2)).getD ((s.store scr).get a) else (s.store scr).get a) ∧
      (∀ r, f.kind = 2 → f.atom = some r → r.op = .add → r.wide = false → r.d < 128 →
        (f.scratch = true ∨ s.linesOk noDomain [f.addr / 64] = true) →
        let old := BitVec.ofNat 32 (readBytes (s.store r.scratch) r.addr 4)
        ∃ t, exec (.atomicPerform i k) s = .next t ∧ { t.grp i with x := g.x } = gone ∧
          (∀ h q, q < 128 → (t.grp i).rx h q = if h = r.thread ∧ q = r.d then old else g.rx h q) ∧
          ∀ scr a, (t.store scr).get a = if scr = r.scratch ∧ r.addr ≤ a ∧ a < r.addr + 4
            then (old + r.v.extractLsb' 0 32).extractLsb' (8 * (a - r.addr)) 8 else (s.store scr).get a)) ∧
    (∀ (q : HostReq) (data : List Byte), g.hostReq = some q → (s.gridOf i).st ≠ .saved → g.st ≠ .retired →
      (q.store = true → q.ptr.getLsbD 54 = false →
        exec (.hostCompletion i 0 data) s = .next { s with
          host := writeBytes s.host (q.ptr.toNat % 2 ^ 55) (leBytes q.size q.data.toNat),
          groups := s.groups.set i { g with hostReq := none, walkFrom := some (q.thread + 1) } }) ∧
      (q.store = false → q.gen = g.gen → q.size = 4 → q.uni = false → q.reg < 128 →
        ∃ t, exec (.hostCompletion i 0 data) s = .next t ∧ { t with groups := s.groups } = s ∧
          { t.grp i with x := g.x } = { g with hostReq := none, walkFrom := some (q.thread + 1) } ∧
          ∀ h r, r < 128 → (t.grp i).rx h r =
            if h = q.thread ∧ r = q.reg
              then BitVec.ofNat 32 (if q.ptr.getLsbD 54 = true then leAt data 0 4 else readBytes s.host (q.ptr.toNat % 2 ^ 55) 4)
              else g.rx h r) ∧
      (∀ status : BitVec 8, status ≠ 0 → (q.store = true ∨ q.gen = g.gen) → exec (.hostCompletion i status data) s = .next
        (({ s with groups := s.groups.set i { g with hostReq := none } } : State).deliver i
          (⟨0x03, q.thread, status.setWidth 16 <<< 8 ||| 0x0A, 0, q.ptr, 0, false⟩ : Trap)))) ∧
    (∀ c, s.arrivalOk i c = true → (s.gridOf i).ordered = true ∨ g.armed = [] →
      ∃ t l n, exec (.migrArrival i c) s = .next t ∧ (∀ j, j ≠ i → t.grp j = s.grp j) ∧
        t.grp i = { g with core := c, lane := l, gslot := n, st := if g.priv = 1 then .handler else .running } ∧
        (c = g.core → l = g.lane ∧ n = g.gslot) ∧
        (c ≠ g.core → (l, n) ∈ s.freeSlots c (s.gridOf i).nregs) ∧
        { t with groups := s.groups, l1 := s.l1, rdc := s.rdc } = s ∧
        ((s.gridOf i).ordered = true → t.l1 = s.l1 ∧ t.rdc = s.rdc) ∧
        ((s.gridOf i).ordered = false →
          t.l1 = s.l1.filter (fun x => x.owner != c || x.tenant != (s.gridOf i).tenant || x.ros) ∧
          t.rdc = s.rdc.filter (fun x => x.owner != c / 144 || x.tenant != (s.gridOf i).tenant || x.ros))) ∧
    (∀ n, g.nack = some n → n.granted = false → g.st ≠ .retired → (s.gridOf i).st = .running → s.creditsDue i = [] →
      let key := 64 * (2048 * n.unit + n.inst) + (s.gridOf i).tenant.toNat
      (s.stillRefused i n = false → exec (.nackRetry i) s = .next { s with
        groups := s.groups.set i (if n.again = true
          then { g with nack := none, ticket := none, armed := (s.armedAnew i).getD g.armed }
          else { g with nack := some { n with granted := true } }) }) ∧
      (s.stillRefused i n = true → ∃ t, exec (.nackRetry i) s = .next t ∧ (∀ j, j ≠ i → t.grp j = s.grp j) ∧
        { t with groups := s.groups, tickets := s.tickets } = s ∧
        { t.grp i with ticket := g.ticket } = { g with nack := some { n with count := n.count + 1 } } ∧
        if n.count = 3 ∧ s.syncQuota (s.gridOf i).fn = none
        then (t.grp i).ticket = some (n.unit, n.inst, (s.tickets.get key).toNat) ∧
          t.tickets.get key = s.tickets.get key + 1 ∧ ∀ q, q ≠ key → t.tickets.get q = s.tickets.get q
        else (t.grp i).ticket = g.ticket ∧ t.tickets = s.tickets)) ∧
    (∀ m, s.messageDue k = true → s.barNet[k]? = some m →
      let b := Barrier.ofNat (readBytes s.scratch (s.handleKey m.group m.handle) 16)
      b.valid = true → ∃ t, exec (.barrierNetworkArrival k) s = .next t ∧ t.barNet = s.barNet.eraseIdx k ∧ t.mem = s.mem ∧
        let key := s.handleKey m.group m.handle
        let b' := if m.kind = 0 then b.bexp m.bytes else if m.kind = 1 then b.barv m.bytes else b.credit m.bytes
        ∀ a, t.scratch.get a = if key ≤ a ∧ a < key + 16 then (leBytes 16 b'.toNat).getD (a - key) 0 else s.scratch.get a) ∧
    (∀ d before cancelled, g.haltWait = some (d, before, cancelled) → (s.gridOf i).st = .running →
      s.openCopies (s.gridOf i).root = [] →
      (∀ c ∈ s.copies, (s.gridOf c.group).root = (s.gridOf i).root → s.unsettled c = false) → (s.gridOf i).ordered = false → g.path ≠ [] → g.walk = .none → g.windows = [] →
      g.pend = [] → g.sel + 4 < 2 ^ 55 → g.st ≠ .retired →
      let landed := (s.copiesIn (s.gridOf i).root (fun x => x == 1)).length - before
      ∃ t, exec (.haltctxComplete i) s = .next t ∧ (∀ j, j ≠ i → t.grp j = s.grp j) ∧ (t.grp i).haltWait = none ∧
        (t.grp i).lc = g.lc + 1 ∧ (t.grp i).x = g.x ∧ t.mem = s.mem ∧ t.scratch = s.scratch ∧
        (∀ h, (t.grp i).pcOf h = if h ∈ g.path then g.sel + 4 else g.pcOf h) ∧
        ∀ r, (t.grp i).rg r = if r = d ∧ d ≠ 0
          then BitVec.ofNat 32 (min landed 65535 * 65536 + min cancelled 65535) else g.rg r)

/-! ### Engines and the distributor -/

/-- R28, R105, R112, R173, R197, R216, R225, R358, R368, R370 and R372: a copy that is performed, MXU work that
finishes, and the start of a team. Readings of the model: logs 24, 53, 100 and 105. -/
def Obligations.EngineResults : Prop :=
  ∀ (s : State),
    (∀ (i : Nat) (c : Copy) (status : BitVec 8), s.copies[i]? = some c → s.copyDue i c = true → c.st = 0 → s.poison = [] →
      (s.grp c.group).flight = [] →
      let d := Desc.ofBits c.desc
      let n := d.ext0 * d.es
      let so := d.src.toNat % 2 ^ 55
      let wo := d.dst.toNat % 2 ^ 55
      let src := s.rankKey c.group (d.src.toNat / 2 ^ 55 % 32) so
      let dst := s.rankKey c.group (d.dst.toNat / 2 ^ 55 % 32) wo
      c.form = 0 → d.dims = 0 → d.ckind = 0 → d.src.toNat / 2 ^ 60 = 1 → d.dst.toNat / 2 ^ 60 = 1 → so + n ≤ 2 ^ 19 →
      wo + n ≤ 2 ^ 19 → Apart src n dst n →
      ∃ t, exec (.copyPerform i status) s = .next t ∧ t.copies = s.copies.set i { c with dest := [], uncached := [], st := 1 } ∧
        t.mem = s.mem ∧ t.host = s.host ∧ t.regs = s.regs ∧ t.tiles = s.tiles ∧
        ∀ a, t.scratch.get a = if dst ≤ a ∧ a < dst + n then s.scratch.get (src + (a - dst)) else s.scratch.get a) ∧
    (∀ (core : Nat) (o : MxuOp), s.mxu.find? (fun q => q.core == core) = some o → (s.gridOf o.group).st ≠ .saved →
      let gr := s.gridOf o.group
      let halves := if gr.twoshot = true then 2 else 1
      let first := fun h => elementKey (s.grp o.group).wg o.tile (4096 * h)
      o.tile < 8 →
      (o.kind = 5 → ∃ t, exec (.mxuComplete core) s = .next t ∧ { t with tiles := s.tiles, mxu := s.mxu } = s ∧
        t.mxu = s.mxu.erase o ∧
        ∀ e, t.tiles.get e = if ∃ h, h < halves ∧ first h ≤ e ∧ e < first h + 4096 then 0 else s.tiles.get e) ∧
      (o.kind = 2 → ∃ t, exec (.mxuComplete core) s = .next t ∧ { t with tiles := s.tiles, mxu := s.mxu } = s ∧
        t.mxu = s.mxu.erase o ∧
        (∀ h r q, h < halves → r < 64 → q < 64 → t.tiles.get (first h + 64 * r + q) = BitVec.ofNat 32
          (leAt o.a (16384 * h + 4 * (if slotTrn (gr.fmt o.sa) = true then 64 * q + r else 64 * r + q)) 4)) ∧
        ∀ e, (∀ h, h < halves → e < first h ∨ first h + 4096 ≤ e) → t.tiles.get e = s.tiles.get e)) ∧
    ∀ (gd team core : Nat), s.startDue gd team core = true →
      let g := s.grd gd
      ∃ t, exec (.workgroupStart gd team core) s = .next t ∧
        { t with wgs := s.wgs, groups := s.groups, grids := s.grids } = s ∧
        t.wgs.length = s.wgs.length + g.team ∧ t.groups.length = s.groups.length + g.team * g.ngrp ∧
        (∀ k, k < s.wgs.length → t.wgp k = s.wgp k) ∧ (∀ k, k < s.groups.length → t.grp k = s.grp k) ∧
        (∀ k, { t.grd k with nextTeam := (s.grd k).nextTeam } = s.grd k) ∧
        ∀ k, k < g.team →
          let w := t.wgp (s.wgs.length + k)
          (w.grid = gd ∧ w.id = team * g.team + k ∧ w.core = core / 1152 ^ k % 1152 ∧ w.team = s.wgs.length ∧
            w.retired = false ∧ ∀ c, c < 8 → w.tokens.getD c (.held 0) = .mxu 0) ∧
          ∀ j, j < g.ngrp →
            let x := t.grp (s.groups.length + k * g.ngrp + j)
            x.grid = gd ∧ x.wg = s.wgs.length + k ∧ x.gix = j ∧ x.st = .running ∧ x.priv = (if g.sup = true then 2 else 0) ∧
            x.lc = (s.birthClock gd team).getD 0 ∧ x.exited = 0 ∧ x.parked = 0 ∧ x.fx = 0 ∧ x.take = [] ∧ x.windows = [] ∧
            x.sel = g.entry ∧ (∀ h, h < 32 → x.pcOf h = g.entry) ∧ (∀ h r, x.rx h r = 0) ∧ (∀ r, x.rg r = 0) ∧
            ∀ h, h < 32 → (x.spb.get h).toNat = g.priv

/-- R229 to R231: a grid completes: its record goes to CREC, and its state and code are given up. Readings of the
model: log 16. -/
def Obligations.GridCompletion : Prop :=
  ∀ (s : State) (gd a : Nat), s.drained gd = true → s.completionOpen gd = true → (s.grd gd).parent ≠ none →
    (s.grd gd).status = none →
    s.span (s.grd gd) kindStore (s.grd gd).crec 64 = some ([(a, 64)], s) →
    let g := s.grd gd
    let failed := (s.grd g.root).mcheck = true
    ∃ t r, exec (.gridComplete gd) s = .next t ∧ (t.grd gd).st = .done ∧ (t.grd gd).code = [] ∧ r.length = 64 ∧
      leAt r 0 4 = (if failed then 6 else 0) ∧ leAt r 4 2 = 0xFFFF ∧
      leAt r 6 1 = (if (s.grd g.root).ext = true then 1 else 0) + (if g.ordered = true then 2 else 0) + 4 +
        (if g.crecLost = true then 8 else 0) ∧
      leAt r 8 8 = g.seq % 2 ^ 64 ∧ leAt r 32 4 = (s.gridFx gd).toNat ∧ leAt r 40 8 = 0 ∧
      (∀ p, t.mem.get p = if a ≤ p ∧ p < a + 64 then r.getD (p - a) 0 else s.mem.get p) ∧
      t.scratch = s.scratch ∧ t.host = s.host ∧ t.regs = s.regs ∧ t.packets = s.packets ∧
      ∀ k, k ≠ gd → (t.grd k).st = (s.grd k).st

/-- R457, R458, R462 and R463: a flit that is served, one that is dropped, and the result of a reduction. Readings of
the model: logs 10, 17, 32, 114 and 118. -/
def Obligations.FabricResults : Prop :=
  ∀ (s : State) (w0 w1 : Dword) (data : List Byte), s.slots = [] → (w0.extractLsb' 0 9).toNat = data.length →
    data.length ≤ 256 →
    let vc := w0.extractLsb' 38 6
    let current := w0.extractLsb' 54 10 = Config.packageIndex ∧ s.channelGen vc = some (w0.extractLsb' 20 16)
    (¬current → exec (.fabricFlitReceive w0 w1 data) s = .next { s with tv := s.tv + 1 }) ∧
    (∀ e, current → w0.extractLsb' 36 2 = 0 → data ≠ [] → s.exportOf (s.channelTenant vc) (w1.extractLsb' 0 44).toNat data.length = some e →
      let a := s.exportAddr e (w1.extractLsb' 0 44).toNat
      s.writeOpen false a data.length = true → ∃ t f, exec (.fabricFlitReceive w0 w1 data) s = .next t ∧ t.fabricOut = s.fabricOut ++ [f] ∧
        f.w0.extractLsb' 54 10 = w0.extractLsb' 44 10 ∧ f.w0.extractLsb' 38 6 = vc ∧ f.w0.extractLsb' 36 2 = 1 ∧
        f.w1 = w1 ∧ f.data = [] ∧ t.scratch = s.scratch ∧ t.host = s.host ∧ t.regs = s.regs ∧
        ∀ p, t.mem.get p = if a ≤ p ∧ p < a + data.length then data.getD (p - a) 0 else s.mem.get p) ∧
    (∀ w o r, (s.winCtl w).getLsbD 0 = true → s.winHome w = true → s.nodeAt w o 0 (s.winN w) = some r →
      let a := (s.reg64 (0x02000000 + 64 * w + 32)).toNat + o
      let n := if ((s.winCtl w).extractLsb' 1 2).toNat = 2 ∨ ((s.winCtl w).extractLsb' 1 2).toNat = 3 then 2 else 4
      s.writeOpen false a n = true → ∃ t, exec (.reductionResult w o) s = .next t ∧ t.reduce = s.reduce.filter (fun x => x != r) ∧
        t.scratch = s.scratch ∧ t.host = s.host ∧ t.regs = s.regs ∧
        ∀ p, t.mem.get p = if a ≤ p ∧ p < a + n then r.v.extractLsb' (8 * (p - a)) 8 else s.mem.get p)

/-! ### System software: translation, frames, queues, partitions -/

/-- R62, R92, R94 to R96 and R211: invalidation drops what it names and nothing of another function; a fault record goes to the
ring; a reply resumes the parked group with a new walk, or delivers its trap, and waits while the context is saved.
Readings of the model: logs 27, 69, 70, 106, 107, 109 and 118. -/
def Obligations.TranslationResults : Prop :=
  ∀ (s : State) (f : Nat), f < 32 →
    let busy := 0x10000 + 0x100 * f + 0x20
    let drops := fun (e : Instr) (p : TlbEntry → Prop) => ∃ t, exec e s = .next t ∧
      { t with tlb := s.tlb, regs := s.regs, l1 := s.l1, rdc := s.rdc } = s ∧
      t.l1 = s.l1.filter (fun x => !x.ros || x.tenant != s.fnTenant f) ∧
      t.rdc = s.rdc.filter (fun x => !x.ros || x.tenant != s.fnTenant f) ∧
      t.tlb.Sublist s.tlb ∧ (∀ x ∈ t.tlb, x.fn = f → ¬p x) ∧
      (∀ x ∈ s.tlb, x.fn ≠ f → x ∈ t.tlb) ∧ t.reg busy = 1 ∧ ∀ a, a / 4 ≠ busy / 4 → t.reg a = s.reg a
    (∀ va : BitVec 55, drops (.tinvPage f va) (fun x => x.page = va.toNat / 65536)) ∧
    (∀ asid : BitVec 12, drops (.tinvAsid f asid) (fun x => x.asid = asid)) ∧
    drops (.tinvFunction f) (fun _ => True) ∧
    (s.settled f = true → ∃ t, exec (.tinvComplete f) s = .next t ∧ { t with regs := s.regs } = s ∧ t.reg busy = 0 ∧
      ∀ a, a / 4 ≠ busy / 4 → t.reg a = s.reg a) ∧
    (∀ i e, s.recordDue i = true → s.faults[i]? = some e → e.fn = 0 → e.words.length = 3 →
      let tail := s.reg 0x10038
      let at' := (s.reg64 0x10028).toNat + 32 * (tail.toNat % s.ringSize 0)
      ∃ t, exec (.faultRingWrite i) s = .next t ∧
        { t with
          mem := s.mem, regs := s.regs, faults := s.faults, l1 := s.l1, rdc := s.rdc, l2 := s.l2, fv := s.fv, tcoIn := s.tcoIn,
          tv := s.tv } = s ∧
        (∀ k, k < 4 → readBytes t.mem (at' + 8 * k) 8 = (e.words.getD k 0).toNat) ∧
        (∀ a, a < at' ∨ at' + 32 ≤ a → t.mem.get a = s.mem.get a) ∧ t.reg 0x10038 = tail + 1 ∧
        (∀ a, a / 4 ≠ 0x10038 / 4 → t.reg a = s.reg a) ∧
        t.faults = s.faults.map (fun x => if x.fn = 0 ∧ x.id = e.id then { x with written := true } else x)) ∧
    ∀ id e, s.repliedFault f id = some e →
      let left := s.faults.filter (fun x => x.fn != f || x.id != id)
      let met := fun (x : TlbEntry) => x.fn = f ∧ x.page = (e.words.getD 0 0).toNat / 65536 ∧
        x.asid = (e.words.getD 1 0).extractLsb' 46 12
      let fresh := s.tlb.filter (fun x => decide ¬met x)
      (∀ i, e.group = some i → e.copy = none → (s.grp i).st = .parked → (s.grp i).faultId = some e.id →
        (s.gridOf i).st ≠ .saved →
        let g := { s.grp i with st := if (s.grp i).priv = 1 then .handler else .running, faultId := none }
        let u := ({ s with faults := left, groups := s.groups.set i g } : State)
        exec (.freplyRetry f id) s = .next { u with tlb := fresh } ∧ exec (.freplyFail f id) s = .next
          (if (s.grp i).resending = true then u.deliverResent i e.trap else u.deliver i e.trap)) ∧
      (∀ i, e.group = some i → (s.gridOf i).st = .saved →
        let held := fun (r : Bool) => s.faults.map (fun x => if x.fn = f ∧ x.id = id then { x with reply := some r } else x)
        exec (.freplyRetry f id) s = .next { s with faults := held true } ∧
        exec (.freplyFail f id) s = .next { s with faults := held false }) ∧
      (∀ k c, e.group = none → e.copy = some k → s.copies[k]? = some c → c.st = 4 → (s.gridOf c.group).ordered = false →
        exec (.freplyRetry f id) s = .next { s with
          faults := left, tlb := fresh, copies := s.copies.set k { c with st := 0 } })

/-- R97 to R103: what the frame allocator writes, counts and reports, and a page that moves to the other tier.
Readings of the model: logs 28, 98 and 107. -/
def Obligations.FrameResults : Prop :=
  ∀ (s : State) (frame : Nat), frame < 2 ^ 32 →
    let cmd := s.reg64 0x10008
    let pte := (s.reg64 0x10000).toNat
    let fastat := s.reg64 0x10010
    let op := cmd.toNat / 2 ^ 62
    let die := cmd.toNat / 2 ^ 59 % 8
    let tenant := cmd.toNat / 2 ^ 51 % 2 ^ 6
    let unwatched := fun (t : State) => ((∀ g ∈ s.groups, g.armed = []) → t.groups = s.groups) ∧
      ∀ k, (t.grp k).x = (s.grp k).x ∧ (t.grp k).pc = (s.grp k).pc
    let takes := fun (e : Instr) (k n : Nat) => fastat.getLsbD 63 = true → op = k →
      (∀ why, s.allocTier cmd n = .error why → exec e s = .next (s.setReg64 0x10010
        (fastat &&& 0xFFFFFFFF0000 ||| BitVec.ofNat 64 (why * 2 ^ 60)))) ∧
      (∀ cellar fn, s.allocTier cmd n = .ok cellar → s.tenantFn (BitVec.ofNat 6 tenant) = some fn →
        s.runFree fn die cellar frame n = true → s.framesOk frame n = true → s.entryOpen pte = true →
        let used := 0x01000000 + 0x1000 * fn + 0x080 + 16 * die + (if cellar = true then 8 else 0) + 4
        ∃ t, exec e s = .next t ∧
          let v := readBytes t.mem pte 8
          (k = 2 → v = 65536 * frame + 1) ∧
          (k ≠ 2 → v % 2 = 1 ∧ v / 2 ^ 16 % 2 ^ 32 = frame ∧ v / 2 ^ 58 = tenant) ∧
          t.reg64 0x10010 = BitVec.ofNat 64 (65536 * frame) ∧ t.reg used = s.reg used + BitVec.ofNat 32 n ∧
          (∀ j, j < n → ∃ x ∈ t.frames, x.frame = frame + j ∧ x.held = true ∧ x.back = pte ∧ x.tenant.toNat = tenant) ∧
          (∀ a, (a < 65536 * frame ∨ 65536 * (frame + n) ≤ a) → (a < pte ∨ pte + 8 ≤ a) → t.mem.get a = s.mem.get a) ∧
          t.scratch = s.scratch ∧ t.host = s.host ∧ unwatched t ∧ t.tlb = s.tlb)
    takes (.facmdBaseFrame frame) 0 1 ∧ takes (.facmdHugeFrame frame) 1 8192 ∧ takes (.facmdTableFrame frame) 2 1 ∧
    (fastat.getLsbD 63 = true → op = 3 → cmd.toNat / 2 ^ 57 % 4 = 3 →
      exec .facmdRelease s = .next (s.setReg64 0x10010 (fastat &&& 0xFFFFFFFF0000 ||| 0x4000000000000000))) ∧
    (fastat.getLsbD 63 = true → op = 3 → cmd.toNat / 2 ^ 57 % 4 ≠ 3 → pteP (readPte s.tables pte) = true →
      s.framesOf pte ≠ [] → s.framesQuiet (s.framesOf pte) = true → s.entryOpen pte = true →
      ∃ t, exec .facmdRelease s = .next t ∧ (∀ a, t.mem.get a = if a = pte then s.mem.get a &&& 0xFE else s.mem.get a) ∧
        t.frames = s.frames.map (fun x => if (s.framesOf pte).contains x = true then { x with held := false } else x) ∧
        (∀ x ∈ s.framesOf pte, x.table = true → ∀ y ∈ t.tlb, s.fnTenant y.fn ≠ x.tenant) ∧ (∀ x ∈ t.tlb, x.leaf ≠ pte) ∧ t.tlb.Sublist s.tlb ∧
        t.reg64 0x10010 = fastat &&& 0xFFFFFFFF0000 ∧ t.scratch = s.scratch ∧ t.host = s.host ∧ unwatched t) ∧
    (fastat.getLsbD 63 = true → op = 3 → cmd.toNat / 2 ^ 57 % 4 ≠ 3 → pteP (readPte s.tables pte) = false →
      exec .facmdRelease s = .next (s.setReg64 0x10010 (fastat &&& 0xFFFFFFFF0000 ||| 0x3000000000000000))) ∧
    ∀ a x, s.migrationOk a frame = some x → s.ext = [] → a / 65536 ≠ x.frame → a / 65536 ≠ frame →
      (a + 7) / 65536 ≠ x.frame → (a + 7) / 65536 ≠ frame → frame / 2 ^ 27 % 2 ≠ x.frame / 2 ^ 27 % 2 →
      let used := fun (c : Nat) => 0x01000000 + 0x1000 * x.fn + 0x080 + 16 * (x.frame / 2 ^ 28) + 8 * c + 4
      ∃ t, exec (.tierMigration a frame) s = .next t ∧
        (∀ o, o < 65536 → t.mem.get (65536 * frame + o) = s.mem.get (65536 * x.frame + o)) ∧
        ((∀ l ∈ s.l2, l.sector / 2048 = x.frame → l.dirty = false) →
          ∀ o, o < 65536 → t.mem.get (65536 * x.frame + o) = s.mem.get (65536 * x.frame + o)) ∧
        (∀ p, p / 65536 ≠ x.frame → p / 65536 ≠ frame → (p < a ∨ a + 8 ≤ p) → t.mem.get p = s.mem.get p) ∧
        readBytes t.mem a 8 / 2 ^ 16 % 2 ^ 32 = frame ∧ readBytes t.mem a 8 % 2 ^ 16 = readBytes s.mem a 8 % 2 ^ 16 ∧
        readBytes t.mem a 8 / 2 ^ 48 = readBytes s.mem a 8 / 2 ^ 48 ∧ (∀ y ∈ t.tlb, y.leaf ≠ a) ∧
        t.reg (used (frame / 2 ^ 27 % 2)) = s.reg (used (frame / 2 ^ 27 % 2)) + 1 ∧
        t.reg (used (x.frame / 2 ^ 27 % 2)) = s.reg (used (x.frame / 2 ^ 27 % 2)) - 1 ∧ t.scratch = s.scratch ∧ t.host = s.host

/-- R218 to R221: enabling, disabling, the doorbell, and the fetch of a packet through host memory. Readings of the
model: logs 83 and 120. -/
def Obligations.QueueResults : Prop :=
  ∀ (s : State) (q : Nat), q < 16384 →
    let b := 0x00200000 + 64 * q
    let on := (s.reg64 (b + 8)).getLsbD 0
    let lets := fun (t : State) => t.heldQueues = s.heldQueues.filter (fun x => x != q)
    let drop := fun (p : Packet) => if p.queue = q then { p with live := false } else p
    (∀ v : Dword, on = false →
      (s.enableFault q v = none → ∃ t, exec (.qctlEnable q v) s = .next t ∧
        { t with regs := s.regs, packets := s.packets, heldQueues := s.heldQueues } = s ∧ lets t ∧
        t.packets = s.packets.map drop ∧
        RegsSet s t [(b + 8, v &&& 0x0FFFFFFF), (b + 0x38, 0), (b + 0x20, 0), (b + 0x28, 0), (b + 0x30, 0)]) ∧
      (∀ c, s.enableFault q v = some c → ∃ t, exec (.qctlEnable q v) s = .next t ∧
        { t with regs := s.regs, heldQueues := s.heldQueues } = s ∧ lets t ∧
        RegsSet s t [(b + 8, v &&& 0x0FFFFFFE), (b + 0x38, BitVec.ofNat 64 (2 + 16 * c))]) ∧
      ∃ t, exec (.qctlDisable q v) s = .next t ∧ { t with regs := s.regs } = s ∧ RegsSet s t [(b + 8, v &&& 0x0FFFFFFE)]) ∧
    (∀ v : Dword, on = true → exec (.qctlEnable q v) s = .next s ∧
      ((∀ p ∈ s.packets, p.live = true → p.queue = q → p.st = .begun ∨ p.st = .done) →
        ∃ t, exec (.qctlDisable q v) s = .next t ∧ { t with regs := s.regs } = s ∧
          RegsSet s t [(b + 8, s.reg64 (b + 8) &&& 0x0FFFFFFE)])) ∧
    (∀ v : Word,
      let ring := 2 ^ ((s.reg64 (b + 8)).toNat / 16 % 16 + 4)
      let beyond := on = true ∧ ring < (v - s.reg (b + 0x28)).toNat
      ∃ t, exec (.qtailDoorbell q v) s = .next t ∧ { t with regs := s.regs, heldQueues := s.heldQueues } = s ∧ lets t ∧
        (¬beyond → RegsSet s t [(b + 0x20, v.setWidth 64)]) ∧
        (beyond → RegsSet s t [(b + 0x20, v.setWidth 64), (b + 0x38, 0x32)])) ∧
    (s.fetchDue q = true → s.hostErr = [] → (s.reg64 b).toNat / 2 ^ 60 = 4 → (s.reg64 b).toNat % 2 ^ 55 < 2 ^ 54 →
      (s.reg64 b).toNat % 4096 = 0 →
      let head := s.reg (b + 0x28)
      let ring := 2 ^ ((s.reg64 (b + 8)).toNat / 16 % 16 + 4)
      let at' := (s.reg64 b).toNat % 2 ^ 54 + 64 * (head.toNat % ring)
      let seq := ((s.packets.filter (fun p => p.live && p.queue == q)).map (·.seq)).foldl max 0 + 1
      ∃ t, exec (.packetFetch q) s = .next t ∧ { t with regs := s.regs, packets := s.packets } = s ∧
        t.packets = s.packets ++ [⟨q, seq, (List.range 8).map (fun k => BitVec.ofNat 64 (readBytes s.host (at' + 8 * k) 8)),
          .fetched, none, true⟩] ∧
        t.reg (b + 0x28) = head + 1 ∧ ∀ a, a / 4 ≠ (b + 0x28) / 4 → t.reg a = s.reg a)

/-! ### Packets, pre-emption, partitions, telemetry, the package -/

/-- R218 to R224, R230 to R232 and R415: a packet at its turn begins, has its effect, and completes with its record;
the rotation of its level counts it (R224). Readings of the model: logs 47, 50 to 53, 60, 61, 63, 82, 104
and 108. -/
def Obligations.PacketResults : Prop :=
  ∀ (s : State) (q seq ix : Nat) (p : Packet), s.packetIx q seq = some ix → s.packets[ix]? = some p → s.turnOf p = true →
    s.ready p = true → s.topPrio p = true → s.packetOpen p = true → HostRing s q →
    let p1 := { p with st := .begun }
    let l := (s.reg64 (0x00200000 + 64 * q + 8)).toNat / 2 % 8
    let share := max 1 ((s.reg64 (0x00200000 + 64 * q + 8)).toNat / 2 ^ 8 % 256)
    let n := match s.served.find? (fun e => e.1 == l) with
      | some (_, q0, n) => if q0 = q ∧ n < share then n + 1 else 1
      | none => 1
    let s0 := { s with served := (l, q, n) :: s.served.filter (fun e => e.1 != l) }
    let s1 := { s0 with packets := s.packets.set ix p1 }
    let f := (s.queueOwner q).getD 0
    let Ends := fun (e : Instr) (u : State) (status : Nat) (detail : Dword) =>
      ∃ t, exec e s = .next t ∧ PacketEnds u t ix p status detail
    (p.badBits = true →
      ((p.kind = 0 ∨ 5 < p.kind) → Ends (.nopPacket q seq) s0 8 0) ∧ (p.kind = 1 → Ends (.launchPacket q seq) s0 8 0) ∧
      (p.kind = 2 → Ends (.waitseq q seq) s0 8 0) ∧ (p.kind = 3 → Ends (.signal q seq) s0 8 0)) ∧
    (p.badBits = false →
      (p.kind = 0 → Ends (.nopPacket q seq) s0 0 0) ∧
      (p.kind = 2 → Ends (.waitseq q seq) s0 (if (s.fnQueues f).length ≤ (p.word 1).toNat then 8 else 0) 0) ∧
      (p.kind = 3 →
        let at' := (p.word 1).toNat % 2 ^ 55
        (plainPtr (p.word 1) 8 = false → Ends (.signal q seq) s0 8 0) ∧
        ((p.word 1).toNat / 2 ^ 60 = 4 → (p.word 1).getLsbD 54 = false → plainPtr (p.word 1) 8 = true →
          Ends (.signal q seq) { s0 with host := writeBytes s.host at' (leBytes 8 (p.word 2).toNat) } 0 0)) ∧
      (p.kind = 1 →
        (s1.packetRecord q (p.word 1) = none → Ends (.launchPacket q seq) s0 1 0x10008) ∧
        (∀ r, s1.packetRecord q (p.word 1) = some (r, s1) →
          let dies := s1.usableDies f ((p.word 6).toNat % 256)
          (∀ o, launchFault p1 r dies = some o → Ends (.launchPacket q seq) s0 1 (BitVec.ofNat 64 o)) ∧
          (launchFault p1 r dies = none → ∃ t g, exec (.launchPacket q seq) s = .next t ∧
            t = { s0 with packets := s.packets.set ix { p1 with grid := some s.grids.length }, grids := s.grids ++ [g] } ∧
            g.lrec = r ∧ g.fn = f ∧ g.queue = q ∧ g.seq = p.seq ∧ g.st = .running ∧ g.root = s.grids.length ∧
            g.parent = none ∧ g.status = none ∧ g.dies = dies ∧ g.pin = (p.word 6).getLsbD 8 ∧ g.code = s.mem ∧
            g.table = (s.reg64 (0x00200000 + 64 * q + 0x10)).toNat ∧ g.tenant = s.fnTenant f ∧
            g.asid = (s.reg64 (0x00200000 + 64 * q + 8)).extractLsb' 16 12 ∧ g.sup = decide (q = 0) ∧
            ∀ k, k < 4 → leAt g.image (8 * k) 8 = (p.word (2 + k)).toNat))) ∧
      (p.kind = 4 →
        let op := (p.word 3).toNat % 4
        let stop := fun (e : Instr) =>
          (s1.quiesceTarget p1 = none → Ends e s0 8 0) ∧
          ∀ d, s1.quiesceTarget p1 = some d →
            ((s.grd d).st = .done → Ends e s0 0 0xFFFFFFFFFFFFFFFF) ∧
            ((s.grd d).st ≠ .done → ∃ t r, exec e s = .next t ∧ { t with grids := s.grids } = s1 ∧
              (∀ k, k ≠ d → t.grd k = s.grd k) ∧ t.grd d = { s.grd d with quiesce := (s.grd d).quiesce ++ [(r, ix)] } ∧
              r = max (p.word 2).toNat ((s.grd d).closed - 1))
        (op = 3 → Ends (.quiesceStop q seq) s0 8 0) ∧
        (op = 0 → stop (.quiesceStop q seq)) ∧ (op = 2 → stop (.quiesceStopAndSave q seq)) ∧
        (op = 1 →
          (s1.quiesceTarget p1 = none → Ends (.quiesceResume q seq) s0 8 0) ∧
          ∀ d, s1.quiesceTarget p1 = some d →
            Ends (.quiesceResume q seq) { s0 with grids := s.grids.mapIdx (fun k (g : Grid) => { g with
              quiesce := if k = d then g.quiesce.filter s1.quiesceOpen else g.quiesce,
              st := if g.root = d ∧ g.st = .stopped then .running else g.st }) } 0 0)) ∧
      (p.kind = 5 →
        let tco := (p.word 2).toNat / 2 ^ 24 % 16
        let kind := (p.word 2).toNat / 2 ^ 8 % 256
        let slot := (p.word 2).toNat % 64
        let bad := 8 < tco ∨ kind ∉ eventKinds ∨ s.ownsSlot f tco slot = false
        let others := s.slots.filter (fun x => !(x.tco == tco && x.slot == slot))
        ((p.word 2).getLsbD 6 = false →
          (s1.readProgram (s1.queueGrid q) (p.word 1) = none → Ends (.telemAttach q seq) s0 8 0) ∧
          ∀ ws, s1.readProgram (s1.queueGrid q) (p.word 1) = some (ws, s1) →
            (bad ∨ programOk (f = 0) ws = false → Ends (.telemAttach q seq) s0 8 0) ∧
            (¬bad → programOk (f = 0) ws = true → Ends (.telemAttach q seq) { s0 with slots := others ++
              [⟨tco, slot, f, kind, (p.word 2).toNat / 2 ^ 16 % 16, 0, ws, true, s.slotRuns f tco slot, false⟩] } 0 0)) ∧
        ((p.word 2).getLsbD 6 = true → s.detachDue q seq = none →
          (bad → Ends (.telemDetach q seq) s0 8 0) ∧
          (¬bad → s.slotBusy tco slot = false → Ends (.telemDetach q seq) { s0 with slots := others } 0 0) ∧
          (¬bad → s.slotBusy tco slot = true → exec (.telemDetach q seq) s = .next { s1 with slots := s.slots.map (fun (y : TcoSlot) =>
            if y.tco = tco ∧ y.slot = slot then { y with leaving := true } else y) }))))

/-- R232 and R398 to R401, R443 and R465: pre-emption of a queue's contexts, the stop of a quiesced domain, and the
end of a time slice. Readings of the model: logs 30, 54, 71, 73, 74, 75 and 120. -/
def Obligations.PreemptionResults : Prop :=
  ∀ (s : State) (q : Nat), q < 16384 →
    let pstat := 0x00300000 + 32 * q + 0x10
    let live := s.queueGrids q
    let saved := s.savedGrids q
    let free := s.heldQueues.filter (fun k => k != q)
    let s1 := ({ s with heldQueues := free } : State).startCmd q
    let Answers := fun (e : Instr) (held : List Nat) (v : Dword) =>
      ∃ t, exec e s = .next t ∧ { t with regs := s.regs, heldQueues := s.heldQueues } = s ∧ t.heldQueues = held ∧
        RegsSet s t [(pstat, v)]
    (s.queueCmd q = true → exec (.pctlSave q) s = .next s ∧ exec (.pctlDiscard q) s = .next s ∧
      (q ∉ s.restores → exec (.pctlRestore q) s = .next s)) ∧
    (s.queueCmd q = false → q ∉ s.restores →
      (live = [] → Answers (.pctlSave q) (q :: free) 0x12) ∧
      (live ≠ [] → (s.parea q = 0 ∨ (s.parea q).toNat / 2 ^ 48 * 65536 < s.psize q) → Answers (.pctlSave q) s.heldQueues 0x42) ∧
      (live ≠ [] → s.parea q ≠ 0 → s.psize q ≤ (s.parea q).toNat / 2 ^ 48 * 65536 → (∀ k ∈ live, (s.grd k).sliced = false) →
        ∃ t, exec (.pctlSave q) s = .next t ∧ { t with regs := s.regs, grids := s.grids, saves := s.saves } = s ∧
          RegsSet s t [(pstat, s.pstat q &&& 0x71 ||| 5)] ∧ t.saves = s.saves ++ [⟨q, s.parea q, false⟩] ∧
          ∀ k, t.grd k = if k ∈ live then { s.grd k with st := .saved } else s.grd k) ∧
      (saved = [] → Answers (.pctlDiscard q) free 0x12 ∧
        (s.parea q = 0 → Answers (.pctlRestore q) free 0x12)) ∧
      (saved ≠ [] → s.parea q = 0 → Answers (.pctlRestore q) free 0x23) ∧
      (saved ≠ [] → ∃ t, exec (.pctlDiscard q) s = .next t ∧ RegsSet s t [(pstat, 2)] ∧ t.mem = s.mem ∧ t.host = s.host ∧
        t.heldQueues = free ∧ (∀ k ∈ saved, ((t.grd k).st = .running ∧ (t.grd k).status = some (9, 0))) ∧
        (∀ i, i < s.groups.length → (s.grp i).grid ∈ saved → (t.grp i).st = .retired) ∧
        ∀ i, i < s.groups.length → (∀ k ∈ saved, (s.grd k).root ≠ (s.gridOf i).root) → t.grp i = s.grp i) ∧
      (saved ≠ [] → s.slots = [] → ∀ b round xs, s1.areaAt q = some (b, round, xs) →
        s1.sectionsFit saved xs = true →
        (s1.resume saved b xs = none → exec (.pctlRestore q) s = .next { s1 with restores := s.restores ++ [q] }) ∧
        (∀ u, s1.resume saved b xs = some u → s.copies = [] → s.faults = [] →
          (∀ x ∈ xs, ∀ r ∈ x.groups, leAt r 0x38 4 = 0) →
          ∃ t, exec (.pctlRestore q) s = .next t ∧ RegsSet s t [(pstat, 2)] ∧ t.mem = s.mem ∧ t.host = s.host ∧
            t.restores = s.restores ∧ t.heldQueues = free ∧ t.spent = s.spent ++ [(q, areaCheck b)] ∧ t.grids.length = s.grids.length ∧
            (∀ k ∈ saved, (t.grd k).st =
              if (s.grd (s.grd k).root).quiesce.any (fun e => !s.quiesceOpen e) = true then .stopped else .running) ∧
            (∀ k, k ∉ saved → t.grd k = s.grd k) ∧
            ∀ i, (s.grp i).grid ∉ saved → (s.wgp (s.grp i).wg).grid ∉ saved → t.grp i = s.grp i))) ∧
    (∀ j, s.saveOpen saved = true → s.saveJob q = some j → j.bad = false → saved ≠ [] → s.queueFn q = 0 → s.slots = [] →
      s.copies = [] → s.barNet = [] → s.mxu = [] → s.poison = [] →
      (∀ i, (s.grp i).grid ∈ saved → (s.grp i).flight = [] ∧ (s.grp i).hostReq = none) →
      let a := j.area.toNat / 256 % 2 ^ 40 * 256
      ∃ t, exec (.saveDone q) s = .next t ∧ t.saves = s.saves.filter (fun k => k.queue != q) ∧ RegsSet s t [(pstat, 3)] ∧
        { t with
          saves := s.saves, regs := s.regs, mem := s.mem, groups := s.groups, grids := s.grids, l1 := s.l1, rdc := s.rdc,
          l2 := s.l2, fv := s.fv, tcoIn := s.tcoIn, tv := s.tv } = s ∧
        (∀ i, { t.grp i with gen := (s.grp i).gen } = s.grp i) ∧
        (∀ k, t.grd k = if k ∈ saved then { s.grd k with area := some (0, a) } else s.grd k) ∧
        ∃ area : List Byte, leAt area 0 4 = 1 ∧ leAt area 4 4 = 0 ∧ leAt area 16 4 = saved.length % 2 ^ 32 ∧
          leAt area 48 8 = area.length % 2 ^ 64 ∧
          ∀ p, t.mem.get p = if a ≤ p ∧ p < a + area.length then area.getD (p - a) 0 else s.mem.get p) ∧
    (∀ d r ix p, s.quiesced d = true → s.quiescing d = some (r, ix) → s.packets[ix]? = some p →
      HostRing s p.queue → (p.word 3).toNat % 4 ≠ 2 →
      ∃ t, exec (.domainQuiesced d) s = .next t ∧ PacketEnds { s with grids := s.grids.map (fun (g : Grid) =>
        { g with st := if g.root = d ∧ g.st = .running then .stopped else g.st }) } t ix p 7 (BitVec.ofNat 64 r)) ∧
    (∀ f, s.nextSlice = some f → s.copies = [] →
      (∀ g ∈ s.grids, g.fn = s.slice ∨ g.fn = f → g.st = .done ∨ (g.fn = f ∧ g.st = .running)) →
      ∃ t, exec .timeSliceSwitch s = .next t ∧ t.slice = f ∧
        { t with slice := s.slice, l1 := s.l1, rdc := s.rdc, l2 := s.l2, tlb := s.tlb } = s ∧ t.l1.Sublist s.l1 ∧
        t.rdc.Sublist s.rdc ∧ t.l2.Sublist s.l2 ∧ t.tlb = s.tlb.filter (fun x => x.fn != s.slice))

/-- R437 to R442, R446, R447 and R487 to R490: enabling, disabling and resetting functions, and what they own.
Readings of the model: logs 5, 56, 57, 58 and 99. -/
def Obligations.PartitionResults : Prop :=
  ∀ (s : State) (f : Nat), f < 32 →
    let b := 0x01000000 + 0x1000 * f
    let perr := fun (k reason : Nat) => (0x01000000 + 0x1000 * k + 0x068, BitVec.ofNat 64 (1 + 16 * reason))
    let Writes := fun (e : Instr) (l : List (Nat × Dword)) =>
      ∃ t, exec e s = .next t ∧ { t with regs := s.regs } = s ∧ RegsSet s t l
    let wayMask := fun (a : Nat) => 0x01000000 ≤ a ∧ a < 0x01020000 ∧ 0x200 ≤ a % 4096 ∧ a % 4096 < 0x300
    let gone := fun (e : Instr) (pcr : Word) => ∃ t, exec e s = .next t ∧ t.flr = s.flr ++ [f] ∧ t.reg b = pcr ∧
      t.reg (b + 0x060) = 1 ∧ t.mem = s.mem ∧ t.scratch = s.scratch ∧ t.host = s.host ∧ t.grids = s.grids ∧
      t.groups = s.groups ∧ t.tlb = s.tlb.filter (fun x => x.fn != f) ∧ t.faults = s.faults.filter (fun x => x.fn != f) ∧
      t.slots = s.slots.filter (fun x => x.fn != f) ∧ t.merges = s.merges.filter (fun x => x.1 != f) ∧
      (∀ x ∈ t.packets, x.queue ∈ s.fnQueues f → x.live = false) ∧
      (∀ q ∈ s.fnQueues f, t.reg (0x00200000 + 64 * q + 8) = 0 ∧ q ∉ t.heldQueues ∧ ∀ e ∈ t.spent, e.1 ≠ q) ∧
      ∀ k, t.tdi[k]? = (s.tdi[k]?).map (fun x => if k = f ∧ (x = .locked ∨ x = .run) then .error else x)
    (f ≠ 0 → s.fnEnabled f = false → s.failed = false → ∀ v : Dword,
      let u := s.storePcr f v
      (∀ r, u.enableReason f = some r → ∃ t, exec (.pcrEnable f v) s = .next t ∧ { t with regs := u.regs } = u ∧
        RegsSet u t [perr f r] ∧ (t.reg b).getLsbD 0 = false) ∧
      (u.enableReason f = none → u.standsOn (u.takes f) = false → ∃ t, exec (.pcrEnable f v) s = .next t ∧
        { t with regs := s.regs, tcoMem := s.tcoMem, slice := s.slice, l1 := s.l1, rdc := s.rdc, l2 := s.l2 } = s ∧
        t.l1.Sublist s.l1 ∧ t.rdc.Sublist s.rdc ∧ t.l2.Sublist s.l2 ∧
        (u.fnSliced f = false → ∀ x ∈ t.l1, s.mapBit (b + 8) (clusterOf x.owner) = false) ∧
        t.reg b = (s.reg b &&& 0xFFFFC009 ||| v.extractLsb' 0 32 &&& 0x3FF6) ||| 1 ∧
        t.reg (b + 4) = (s.reg (b + 4) &&& 0xFFFF0000 ||| v.extractLsb' 32 32 &&& 0xFFFF) ∧
        ∀ a, a / 4 ≠ b / 4 → a / 4 ≠ b / 4 + 1 → ¬wayMask a → t.reg a = s.reg a)) ∧
    (s.fnEnabled f = true → s.flr.contains f = false → f ≠ 0 → (∀ g ∈ s.grids, g.fn = f → g.st = .done) → s.saves = [] →
      s.reduce = [] → ∀ v : Dword, (v ^^^ s.reg64 b) &&& 0x0000FFFF00003FF6 = 0 →
        let gen := (s.reg b).extractLsb' 16 16 + 1
        let low := (s.reg b).extractLsb' 0 16
        gone (.pcieFlr f) (gen ++ low) ∧ gone (.pcrDisable f v) (gen ++ (low &&& 0xFFFE)) ∧
        gone (.pcrFlr f v) (gen ++ (if v.getLsbD 0 = true then low else low &&& 0xFFFE))) ∧
    (s.flr.contains f = true → ∃ t, exec (.flrDone f) s = .next t ∧ { t with regs := s.regs, flr := s.flr } = s ∧
      t.flr = s.flr.filter (fun k => k != f) ∧ RegsSet s t [(b + 0x060, 2)]) ∧
    (∀ v : Dword,
      let w := v.extractLsb' 0 32
      let total := w.toNat + ((s.others f).map (fun k => (s.reg (0x01000000 + 0x1000 * k + 0x050)).toNat)).sum
      (s.fnEnabled f = true → 262144 < total → Writes (.tbudWrite f v) [perr f 5]) ∧
      (s.fnEnabled f = false ∨ total ≤ 262144 → Writes (.tbudWrite f v) [(b + 0x050, w.setWidth 64)])) ∧
    (∀ (v : Dword), ∀ o ∈ [0x010, 0x018, 0x020],
      let clash := ∃ k, k < 32 ∧ k ≠ 0 ∧ s.fnEnabled k = true ∧ s.fnSliced k = false ∧
        v &&& s.reg64 (0x01000000 + 0x1000 * k + o) ≠ 0
      (¬clash → Writes (.pfResourceWrite (0x01000000 + o) v) [(0x01000000 + o, v)]) ∧
      (clash → s.fnEnabled 0 = true → Writes (.pfResourceWrite (0x01000000 + o) v) [perr 0 1])) ∧
    ∀ slice src dst, slice < 128 → src ≤ 32 → dst ≤ 32 → src ≠ dst → s.mayGive slice src = true →
      s.mayTake slice dst = true → ∃ t w, exec (.wayMove slice src dst) s = .next t ∧
        { t with regs := s.regs, rdc := s.rdc, l2 := s.l2 } = s ∧ t.rdc.Sublist s.rdc ∧ t.l2.Sublist s.l2 ∧
        (∀ x ∈ t.l2, sliceNumber (32 * x.sector) = slice → w.getLsbD x.way = false) ∧
        (∀ x ∈ t.rdc, x.owner = slice / 16 → rdcSlice x.sector = slice % 16 → w.getLsbD x.way = false) ∧
        wayCount w = 1 ∧ (∀ a, ¬wayMask a → t.reg a = s.reg a) ∧
        (∀ k n, k < 32 → n < 128 → (n ≠ slice ∨ (k ≠ src ∧ k ≠ dst)) → t.ways k n = s.ways k n) ∧
        (src = 32 → w &&& s.poolWays slice = w ∧ ∀ j, j < 16 → (s.poolWays slice).getLsbD j = true → w.toNat ≤ 2 ^ j) ∧
        (src < 32 → w &&& s.ways src slice = w ∧ t.ways src slice = s.ways src slice &&& ~~~w ∧
          ∀ j, j < 16 → (s.ways src slice).getLsbD j = true → 2 ^ j ≤ w.toNat) ∧
        (dst < 32 → t.ways dst slice = s.ways dst slice ||| w)

/-- R414, R416 to R426, R430, R433 and R434: intake and charge of a record, a run that counts, the window of the
budgets, and merging. Readings of the model: logs 62, 65, 67 and 111. -/
def Obligations.TelemetryResults : Prop :=
  ∀ (s : State) (tco f : Nat), tco < 9 → f < 32 →
    let b := 0x00400000 + 0x10000 * f + 0x1000 * tco
    (∀ k r, s.tcoIn.findIdx? (fun x => x.tco == tco) = some k → s.tcoIn[k]? = some r →
      let left := s.tcoIn.eraseIdx k
      ((∀ x ∈ s.slots, s.slotTakes x tco r.bits = false) →
        exec (.tcoRecordIntake tco) s = .next { s with tcoIn := left }) ∧
      ∀ x, s.slots = [x] → x.slot < 64 → x.fn = f → s.slotTakes x tco r.bits = true →
        let counted := { x with count := x.count + 1 }
        let used := (s.reg (b + 0x28)).toNat + x.prog.length
        let waiting := (s.tcoRuns.filter (fun y => y.tco == tco && y.fn == f && y.pc == 0)).length
        let sampled := x.count.toNat % 2 ^ x.sample = 0
        let free := used ≤ (s.reg (0x01000000 + 0x1000 * f + 0x050)).toNat
        let run : TcoRun := ⟨tco, f, x.slot, r.bits, x.prog, 0, List.replicate 8 0⟩
        ∃ t, exec (.tcoRecordIntake tco) s = .next t ∧
          { t with tcoIn := s.tcoIn, slots := s.slots, regs := s.regs, tcoRuns := s.tcoRuns } = s ∧
          t.tcoIn = left ∧ t.slots = [counted] ∧
          t.tcoRuns = s.tcoRuns ++ (if sampled ∧ free ∧ waiting < 64 then [run] else []) ∧
          t.reg (b + 0x28) = (if sampled ∧ free then BitVec.ofNat 32 used else s.reg (b + 0x28)) ∧
          t.reg (b + 0x1C) = (if sampled ∧ ¬free then s.reg (b + 0x1C) + 1 else s.reg (b + 0x1C)) ∧
          t.reg (b + 0x18) = (if sampled ∧ free ∧ 64 ≤ waiting then s.reg (b + 0x18) + 1 else s.reg (b + 0x18)) ∧
          ∀ a, a / 4 ≠ (b + 0x28) / 4 → a / 4 ≠ (b + 0x1C) / 4 → a / 4 ≠ (b + 0x18) / 4 → t.reg a = s.reg a) ∧
    (∀ k x (d n : Nat) (imm : BitVec 21), s.tcoRuns.findIdx? (fun r => r.tco == tco && r.fn == f) = some k →
      s.tcoRuns[k]? = some x → d < 8 → n < 4096 → x.pc = 0 → x.regs = List.replicate 8 0 →
      x.prog = [BitVec.ofNat 32 (2 ^ 27 + 2 ^ 24 * d + imm.toNat), BitVec.ofNat 32 (0x13 * 2 ^ 27 + 2 ^ 24 * d + 2 ^ 21 * d + n),
        0xA8000000] →
      let loaded := x.regs.set d (imm.signExtend 32)
      (s.cyclesLeft tco f = 1 → ∃ t, exec (.tcoRun tco f) s = .next t ∧
        { t with tcoRuns := s.tcoRuns, tcoCycles := s.tcoCycles } = s ∧
        t.tcoRuns = s.tcoRuns.set k { x with pc := 1, regs := loaded } ∧
        ∀ w, t.tcoCycles.get w = s.tcoCycles.get w + if w = 32 * tco + f then 1 else 0) ∧
      (3 ≤ s.cyclesLeft tco f → ∃ t, exec (.tcoRun tco f) s = .next t ∧
        { t with tcoMem := s.tcoMem, slots := s.slots, tcoRuns := s.tcoRuns, tcoCycles := s.tcoCycles } = s ∧
        t.tcoRuns = s.tcoRuns.eraseIdx k ∧
        (∀ w, t.tcoCycles.get w = s.tcoCycles.get w + if w = 32 * tco + f then 3 else 0) ∧
        t.slots = s.slots.map (fun y => if y.tco = tco ∧ y.slot = x.slot ∧ y.fn = f then { y with runs := y.runs + 1 } else y) ∧
        ∀ w, t.tcoMem.get w = if w = (32 * tco + f) * 4096 + n
          then BitVec.ofNat 32 (min (2 ^ 32 - 1) ((s.tcoMem.get w).toNat + (imm.signExtend 32).toNat)) else s.tcoMem.get w)) ∧
    (∃ t, exec (.budgetWindow tco) s = .next t ∧
      { t with regs := s.regs, trigDone := s.trigDone, tcoCycles := s.tcoCycles } = s ∧
      (∀ w, t.tcoCycles.get w = if w / 32 = tco then 0 else s.tcoCycles.get w) ∧
      t.trigDone = s.trigDone.filter (fun x => x.1 != tco) ∧
      (∀ k, k < 32 → t.reg (0x00400000 + 0x10000 * k + 0x1000 * tco + 0x28) = 0) ∧
      ∀ a, (∀ k, k < 32 → a / 4 ≠ (0x00400000 + 0x10000 * k + 0x1000 * tco + 0x28) / 4) → t.reg a = s.reg a) ∧
    (let stat := 0x00400000 + 0x10000 * f + 0x8000 + 0x88
      let word := fun (u : State) (k w : Nat) => u.tcoMem.get ((32 * k + f) * 4096 + w)
      (∀ v : Dword, ∀ e ∈ [((0 : BitVec 2), Instr.mergeSum f v), (1, .mergeMax f v)],
        let n := v.toNat / 2 ^ 32 % 2 ^ 13
        let good := v.toNat / 2 ^ 54 % 2 ^ 8 ≠ 0 ∧ 1 ≤ n ∧ n ≤ 4096 ∧ v.toNat / 2 ^ 16 % 2 ^ 12 + n ≤ 4096 ∧
          v.toNat % 2 ^ 12 + n ≤ 4096
        ((s.reg stat).getLsbD 0 = true → exec e.2 s = .next s) ∧
        ((s.reg stat).getLsbD 0 = false → ∃ t, exec e.2 s = .next t ∧ { t with regs := s.regs, merges := s.merges } = s ∧
          (∀ a, a / 4 ≠ stat / 4 → t.reg a = s.reg a) ∧ t.reg stat = (if good then 1 else 2) ∧
          t.merges = s.merges ++ (if good then [(f, e.1 ++ v.extractLsb' 0 62)] else []))) ∧
      ∀ v, s.merges.find? (fun m => m.1 == f) = some (f, v) → mergeOk v = true →
        let n := v.toNat / 2 ^ 32 % 2 ^ 13
        let src := v.toNat / 2 ^ 16 % 2 ^ 12
        let dst := v.toNat % 2 ^ 12
        let from' := (List.range 8).filter (fun k => v.getLsbD (54 + k))
        ∃ t, exec (.mergeComplete f) s = .next t ∧ { t with regs := s.regs, tcoMem := s.tcoMem, merges := s.merges } = s ∧
          t.merges = s.merges.filter (fun m => m.1 != f) ∧ t.reg stat = 0 ∧ (∀ a, a / 4 ≠ stat / 4 → t.reg a = s.reg a) ∧
          (∀ w, ¬((32 * 8 + f) * 4096 + dst ≤ w ∧ w < (32 * 8 + f) * 4096 + dst + n) → t.tcoMem.get w = s.tcoMem.get w) ∧
          ∀ i, i < n →
            (v.getLsbD 62 = false → (word t 8 (dst + i)).toNat =
              min (2 ^ 32 - 1) ((from'.map (fun k => (word s k (src + i)).toNat)).sum)) ∧
            (v.getLsbD 62 = true → ∀ j, j < 4 → ((word t 8 (dst + i)).extractLsb' (8 * j) 8).toNat =
              (from'.map (fun k => ((word s k (src + i)).extractLsb' (8 * j) 8).toNat)).foldl max 0))

/-- R82, R96, R97, R218, R402, R406, R432 and R451 to R454: errors of the memories, register writes, boot, measurement
and the states of a device interface. Readings of the model: logs 5, 11, 21, 26, 33, 68 and 95. -/
def Obligations.PackageResults : Prop :=
  ∀ (s : State) (unit : BitVec 4) (loc : Dword), s.slots = [] →
    let place := loc.toNat % 2 ^ 47
    let owner := loc.toNat / 2 ^ 47 % 2 ^ 16
    (5 ≤ unit.toNat → unit.toNat ≤ 7 → loc.getLsbD 63 = false → ∃ t, exec (.machineCheck unit loc) s = .next t ∧
      { t with poison := s.poison, aer := s.aer } = s ∧ (∃ k, t.aer = s.aer ++ [(k, place)]) ∧
      (∀ e ∈ s.poison, e ∈ t.poison) ∧ (unit.toNat, place / 8) ∈ t.poison) ∧
    (3 ≤ unit.toNat → unit.toNat ≤ 4 → owner < s.groups.length → (s.grp owner).st ≠ .retired → s.saving owner = false →
      ∃ t p, exec (.machineCheck unit loc) s = .next t ∧ { t with groups := s.groups, aer := s.aer } = s ∧
        (∀ i, i ≠ owner → t.grp i = s.grp i) ∧ t.grp owner = { s.grp owner with pend := (s.grp owner).pend ++ [p] } ∧
        p.src = 3 ∧ p.code = 0x12 ∧ p.detail = unit.setWidth 16) ∧
    (1 ≤ unit.toNat → unit.toNat ≤ 9 →
      let keep := fun (x : Sector) => x.owner != owner || x.sector / 2 != place / 64
      exec (.correctableError unit loc) s = .next { s with
        l1 := if unit = 8 then s.l1.filter keep else s.l1, rdc := if unit = 9 then s.rdc.filter keep else s.rdc }) ∧
    (∀ (q : Nat) (v : Dword), q < 16384 →
      let qctl := s.reg64 (0x00200000 + 64 * q + 8)
      (qctl.getLsbD 0 = true → exec (.registerWrite (0x00200000 + 64 * q) 8 v) s = .next s) ∧
      (qctl.getLsbD 0 = false → ∃ t, exec (.registerWrite (0x00200000 + 64 * q) 8 v) s = .next t ∧
        { t with regs := s.regs } = s ∧ RegsSet s t [(0x00200000 + 64 * q, v)]) ∧
      exec (.registerWrite (0x00200000 + 64 * q + 8) 8 v) s = .next { s with posted := s.posted ++
        [if v.getLsbD 0 = true then .qctlEnable q v else .qctlDisable q v] }) ∧
    (∀ v : Dword, (s.reg64 0x10010).getLsbD 63 = false → ∃ t, exec (.registerWrite 0x10008 8 v) s = .next t ∧
      { t with regs := s.regs } = s ∧ RegsSet s t [(0x10008, v), (0x10010, s.reg64 0x10010 ||| 0x8000000000000000)]) ∧
    (∀ images, s.failed = false → (∀ d ∈ s.dies, d.up = false) → ∃ t, exec (.boot images) s = .next t ∧
      { t with dies := s.dies, failed := s.failed, regs := s.regs } = s ∧ (t.failed = false → t.regs = s.regs) ∧
      (t.failed = true → ∀ f, f < 32 → t.fnEnabled f = false) ∧
      t.dies.length = s.dies.length ∧
      (t.failed = false ↔ ∀ d ∈ t.dies, d.up = true) ∧
      ∀ k d, s.dies[k]? = some d →
        let img := images.getD k []
        ∃ d', t.dies[k]? = some d' ∧
          (imageOk (if k = 8 then 0 else 1) d.fuse img = true →
            d' = { d with up := true, svn := BitVec.ofNat 32 (leAt img 8 4), digest := (img.drop 16).take 32 }) ∧
          (imageOk (if k = 8 then 0 else 1) d.fuse img = false → d' = d)) ∧
    (∀ req, ∃ r, exec (.spdmRequest req) s = .next { s with spdmOut := s.spdmOut ++ [r] } ∧
      (req.getD 1 0 = 0xE0 → ∃ m, r = m ++ spdmBlock 0xF0 (Config.spdmSignPq (req ++ m)) ++ Config.spdmSign (req ++ m) ∧
        ∃ rest, m = spdmBlock 1 (s.dies.getD 8 ⟨false, 0, [], 0, 0⟩).measure ++ rest ∧
          ∃ before, rest = before ++ spdmBlock 0x10 s.partDigest) ∧
      (∀ slot, slot ≤ 8 → req.getD 1 0 = 0x82 → (req.getD 2 0).toNat % 16 = slot →
        r = Config.certificates (if slot = 0 then 8 else slot - 1))) ∧
    ∀ (f : Nat) (msg : BitVec 8), 1 ≤ f → f < 32 → f < s.tdi.length →
      let old := s.tdi.getD f .unlocked
      ∃ t, exec (.tdispRequest f msg) s = .next t ∧ { t with tdi := s.tdi } = s ∧
        (∀ k, k ≠ f → t.tdi.getD k .unlocked = s.tdi.getD k .unlocked) ∧
        t.tdi.getD f .unlocked = (if msg = 0x83 ∧ old = .unlocked then .locked
          else if msg = 0x86 ∧ old = .locked then .run else if msg = 0x87 then .unlocked else old)
end

