-- ==== Sys2Proof/Laws/Sparse.lean ====
section
/-! SUPPORT. The tables of the machine: read after write, and the canonical form that every operation keeps. -/
namespace Sys2Proof.Machine

variable {w : Nat}

@[simp] theorem Sparse.get_nil (k : Nat) : Sparse.get ([] : Sparse w) k = 0 := rfl

theorem Sparse.get_cons (a k : Nat) (v : BitVec w) (r : Sparse w) :
    Sparse.get ((a, v) :: r) k = if a = k then v else Sparse.get r k := rfl

theorem Sparse.get_del (m : Sparse w) (k j : Nat) : (m.del k).get j = if j = k then 0 else m.get j := by
  induction m with
  | nil => simp [Sparse.del, Sparse.get]
  | cons e r ih =>
    obtain ⟨a, v⟩ := e
    by_cases h : a = k
    · subst h
      simp only [Sparse.del, if_true, ih, Sparse.get_cons]
      split
      · rfl
      · rw [if_neg (by omega)]
    · simp only [Sparse.del, if_neg h, Sparse.get_cons, ih]
      split
      · rw [if_neg (by omega)]
      · rfl

theorem Sparse.get_ins (m : Sparse w) (k j : Nat) (v : BitVec w) (h : m.get k = 0 ∨ ∀ e ∈ m, e.1 ≠ k) :
    (Sparse.ins k v m).get j = if j = k then (if ∀ e ∈ m, e.1 ≠ k then v else (Sparse.ins k v m).get k) else m.get j := by
  by_cases hj : j = k
  · subst hj
    simp only [if_true]
    split
    · rename_i hne
      clear h
      induction m with
      | nil => simp [Sparse.ins, Sparse.get]
      | cons e r ih =>
        obtain ⟨a, x⟩ := e
        simp only [Sparse.ins]
        split
        · simp [Sparse.get]
        · simp only [Sparse.get_cons]
          rw [if_neg (hne (a, x) (by simp))]
          exact ih (fun e he => hne e (by simp [he]))
    · rfl
  · rw [if_neg hj]
    clear h
    induction m with
    | nil => simp [Sparse.ins, Sparse.get, Ne.symm hj]
    | cons e r ih =>
      obtain ⟨a, x⟩ := e
      simp only [Sparse.ins]
      split
      · simp [Sparse.get_cons, Ne.symm hj]
      · simp only [Sparse.get_cons, ih]

theorem Sparse.del_ne (m : Sparse w) (k : Nat) : ∀ e ∈ m.del k, e.1 ≠ k := by
  induction m with
  | nil => simp [Sparse.del]
  | cons e r ih =>
    obtain ⟨a, v⟩ := e
    simp only [Sparse.del]
    split
    · exact ih
    · rename_i h
      intro e he
      simp only [List.mem_cons] at he
      rcases he with rfl | he
      · exact h
      · exact ih e he

/-- Read after write, at the key and elsewhere. -/
@[simp] theorem Sparse.get_set (m : Sparse w) (k j : Nat) (v : BitVec w) :
    (m.set k v).get j = if j = k then v else m.get j := by
  unfold Sparse.set
  split
  · rename_i h
    rw [Sparse.get_del]
    subst h
    rfl
  · rw [Sparse.get_ins _ _ _ _ (.inr (Sparse.del_ne m k)), if_pos (Sparse.del_ne m k), Sparse.get_del]
    split <;> rfl

theorem Sparse.get_set_self (m : Sparse w) (k : Nat) (v : BitVec w) : (m.set k v).get k = v := by simp

theorem Sparse.get_set_ne (m : Sparse w) {k j : Nat} (v : BitVec w) (h : j ≠ k) : (m.set k v).get j = m.get j := by
  simp [h]

/-! ### The canonical form -/

theorem Sparse.wf_cons (a : Nat) (v : BitVec w) (r : Sparse w) :
    Sparse.wf ((a, v) :: r) = true ↔ v ≠ 0 ∧ (∀ e ∈ r, a < e.1) ∧ Sparse.wf r = true := by
  simp [Sparse.wf, Sparse.above, and_assoc]

theorem Sparse.wf_filter (p : Nat × BitVec w → Bool) {m : Sparse w} (h : m.wf = true) :
    Sparse.wf (m.filter p) = true := by
  induction m with
  | nil => rfl
  | cons e r ih =>
    obtain ⟨a, v⟩ := e
    rw [Sparse.wf_cons] at h
    simp only [List.filter_cons]
    split
    · rw [Sparse.wf_cons]
      exact ⟨h.1, fun e he => h.2.1 e ((List.mem_filter.1 he).1), ih h.2.2⟩
    · exact ih h.2.2

theorem Sparse.del_eq_filter (m : Sparse w) (k : Nat) : m.del k = m.filter (fun e => e.1 != k) := by
  induction m with
  | nil => rfl
  | cons e r ih =>
    obtain ⟨a, v⟩ := e
    by_cases h : a = k <;> simp [Sparse.del, h, ih]

theorem Sparse.mem_ins (k : Nat) (v : BitVec w) (m : Sparse w) (e : Nat × BitVec w) :
    e ∈ Sparse.ins k v m ↔ e = (k, v) ∨ e ∈ m := by
  induction m with
  | nil => simp [Sparse.ins]
  | cons x r ih =>
    obtain ⟨a, y⟩ := x
    simp only [Sparse.ins]
    split
    · simp
    · simp only [List.mem_cons, ih, or_left_comm]

theorem Sparse.wf_ins {m : Sparse w} (k : Nat) {v : BitVec w} (hv : v ≠ 0) (h : m.wf = true) (hk : ∀ e ∈ m, e.1 ≠ k) :
    (Sparse.ins k v m).wf = true := by
  induction m with
  | nil => exact (Sparse.wf_cons k v []).2 ⟨hv, by simp, rfl⟩
  | cons x r ih =>
    obtain ⟨a, y⟩ := x
    have hw := (Sparse.wf_cons a y r).1 h
    simp only [Sparse.ins]
    split
    · rename_i hlt
      rw [Sparse.wf_cons]
      refine ⟨hv, ?_, h⟩
      intro e he
      simp only [List.mem_cons] at he
      rcases he with rfl | he
      · exact hlt
      · exact Nat.lt_trans hlt (hw.2.1 e he)
    · rename_i hlt
      have hne : a ≠ k := hk (a, y) (by simp)
      rw [Sparse.wf_cons]
      refine ⟨hw.1, ?_, ih hw.2.2 (fun e he => hk e (by simp [he]))⟩
      intro e he
      rw [Sparse.mem_ins] at he
      rcases he with rfl | he
      · show a < k; omega
      · exact hw.2.1 e he

/-- A write keeps the canonical form. -/
theorem Sparse.wf_set {m : Sparse w} (k : Nat) (v : BitVec w) (h : m.wf = true) : (m.set k v).wf = true := by
  have hd : (m.del k).wf = true := by rw [Sparse.del_eq_filter]; exact Sparse.wf_filter _ h
  unfold Sparse.set
  split
  · exact hd
  · rename_i hv
    exact Sparse.wf_ins k hv hd (Sparse.del_ne m k)

theorem Sparse.wf_clear {m : Sparse w} (lo hi : Nat) (h : m.wf = true) : (m.clear lo hi).wf = true :=
  Sparse.wf_filter _ h

/-- Writes one after another keep it. -/
theorem Sparse.wf_foldl {α : Type} (l : List α) (f : Sparse w → α → Sparse w)
    (hf : ∀ m a, Sparse.wf m = true → (f m a).wf = true) {m : Sparse w} (h : m.wf = true) : (l.foldl f m).wf = true := by
  induction l generalizing m with
  | nil => exact h
  | cons a l ih => exact ih (hf m a h)

/-! ### Runs of bytes -/

theorem wf_writeBytes (bs : List Byte) {m : Sparse 8} (a : Nat) (h : m.wf = true) : (writeBytes m a bs).wf = true := by
  induction bs generalizing m a with
  | nil => exact h
  | cons b bs ih => exact ih (a + 1) (Sparse.wf_set a b h)

/-- A byte after a run of bytes is written: the byte of the run at its place, else the old byte. -/
theorem get_writeBytes (bs : List Byte) (m : Sparse 8) (a k : Nat) :
    (writeBytes m a bs).get k = if a ≤ k ∧ k < a + bs.length then bs.getD (k - a) 0 else m.get k := by
  induction bs generalizing m a with
  | nil => simp only [writeBytes, List.length_nil]; rw [if_neg (by omega)]
  | cons b bs ih =>
    rw [writeBytes, ih, Sparse.get_set]
    simp only [List.length_cons]
    by_cases h1 : k = a
    · subst h1; rw [if_neg (by omega), if_pos rfl, if_pos (by omega)]; simp
    · by_cases h2 : a + 1 ≤ k ∧ k < a + 1 + bs.length
      · rw [if_pos h2, if_pos (by omega)]
        obtain ⟨j, rfl⟩ : ∃ j, k = a + 1 + j := ⟨k - (a + 1), by omega⟩
        have e1 : a + 1 + j - (a + 1) = j := by omega
        have e2 : a + 1 + j - a = j + 1 := by omega
        rw [e1, e2, List.getD_cons_succ]
      · rw [if_neg h2, if_neg h1, if_neg (by omega)]

theorem length_leBytes (n v : Nat) : (leBytes n v).length = n := by
  induction n generalizing v with
  | zero => rfl
  | succ n ih => simp [leBytes, ih]

theorem length_byteList (m : Sparse 8) (a n : Nat) : (byteList m a n).length = n := by
  induction n generalizing a with
  | zero => rfl
  | succ n ih => simp [byteList, ih]

/-- Reading looks at the bytes of the run only. -/
theorem readBytes_congr (m m' : Sparse 8) (a n : Nat) (h : ∀ k, a ≤ k → k < a + n → m.get k = m'.get k) :
    readBytes m a n = readBytes m' a n := by
  induction n generalizing a with
  | zero => rfl
  | succ n ih =>
    simp only [readBytes]
    rw [h a (Nat.le_refl a) (by omega), ih (a + 1) (fun k h1 h2 => h k (by omega) (by omega))]

theorem readBytes_lt (m : Sparse 8) (a n : Nat) : readBytes m a n < 256 ^ n := by
  induction n generalizing a with
  | zero => simp [readBytes]
  | succ n ih =>
    have h1 := (m.get a).isLt
    have h2 := ih (a + 1)
    simp only [readBytes, Nat.pow_succ]
    omega

/-- What was written is read. -/
theorem readBytes_writeBytes (m : Sparse 8) (a n v : Nat) :
    readBytes (writeBytes m a (leBytes n v)) a n = v % 256 ^ n := by
  induction n generalizing m a v with
  | zero => simp [readBytes, Nat.mod_one]
  | succ n ih =>
    simp only [readBytes, leBytes, writeBytes]
    rw [ih, get_writeBytes, if_neg (by omega), Sparse.get_set_self, BitVec.toNat_ofNat]
    have := Nat.mod_mul (x := v) (a := 256) (b := 256 ^ n)
    rw [Nat.pow_succ 256 n, Nat.mul_comm (256 ^ n) 256, this]

/-- A write elsewhere is not seen. -/
theorem readBytes_writeBytes_apart (m : Sparse 8) (a b n : Nat) (bs : List Byte) (h : a + n ≤ b ∨ b + bs.length ≤ a) :
    readBytes (writeBytes m b bs) a n = readBytes m a n := by
  apply readBytes_congr
  intro k h1 h2
  rw [get_writeBytes, if_neg (by omega)]

end Sys2Proof.Machine
end

