-- ==== Sys2Proof/Laws/State.lean ====
section
/-! SUPPORT. One lemma per field and update of the state, of a group and of a grid, each true by unfolding, so that no
later proof unfolds a record update; and what the accessors of records read after the updates. -/
namespace Sys2Proof.Machine

variable (s : State) (g : Group) (i k r t v' : Nat)

/-! ### Updates of the state -/

@[simp] theorem State.setGrp_mem (x : Group) : (s.setGrp i x).mem = s.mem := rfl
@[simp] theorem State.setGrp_host (x : Group) : (s.setGrp i x).host = s.host := rfl
@[simp] theorem State.setGrp_hostErr (x : Group) : (s.setGrp i x).hostErr = s.hostErr := rfl
@[simp] theorem State.setGrp_scratch (x : Group) : (s.setGrp i x).scratch = s.scratch := rfl
@[simp] theorem State.setGrp_tiles (x : Group) : (s.setGrp i x).tiles = s.tiles := rfl
@[simp] theorem State.setGrp_l1 (x : Group) : (s.setGrp i x).l1 = s.l1 := rfl
@[simp] theorem State.setGrp_rdc (x : Group) : (s.setGrp i x).rdc = s.rdc := rfl
@[simp] theorem State.setGrp_l2 (x : Group) : (s.setGrp i x).l2 = s.l2 := rfl
@[simp] theorem State.setGrp_tlb (x : Group) : (s.setGrp i x).tlb = s.tlb := rfl
@[simp] theorem State.setGrp_regs (x : Group) : (s.setGrp i x).regs = s.regs := rfl
@[simp] theorem State.setGrp_frames (x : Group) : (s.setGrp i x).frames = s.frames := rfl
@[simp] theorem State.setGrp_faults (x : Group) : (s.setGrp i x).faults = s.faults := rfl
@[simp] theorem State.setGrp_faultNext (x : Group) : (s.setGrp i x).faultNext = s.faultNext := rfl
@[simp] theorem State.setGrp_grids (x : Group) : (s.setGrp i x).grids = s.grids := rfl
@[simp] theorem State.setGrp_wgs (x : Group) : (s.setGrp i x).wgs = s.wgs := rfl
@[simp] theorem State.setGrp_packets (x : Group) : (s.setGrp i x).packets = s.packets := rfl
@[simp] theorem State.setGrp_served (x : Group) : (s.setGrp i x).served = s.served := rfl
@[simp] theorem State.setGrp_copies (x : Group) : (s.setGrp i x).copies = s.copies := rfl
@[simp] theorem State.setGrp_mxu (x : Group) : (s.setGrp i x).mxu = s.mxu := rfl
@[simp] theorem State.setGrp_barNet (x : Group) : (s.setGrp i x).barNet = s.barNet := rfl
@[simp] theorem State.setGrp_ext (x : Group) : (s.setGrp i x).ext = s.ext := rfl
@[simp] theorem State.setGrp_tcoIn (x : Group) : (s.setGrp i x).tcoIn = s.tcoIn := rfl
@[simp] theorem State.setGrp_tcoRuns (x : Group) : (s.setGrp i x).tcoRuns = s.tcoRuns := rfl
@[simp] theorem State.setGrp_slots (x : Group) : (s.setGrp i x).slots = s.slots := rfl
@[simp] theorem State.setGrp_tcoMem (x : Group) : (s.setGrp i x).tcoMem = s.tcoMem := rfl
@[simp] theorem State.setGrp_tcoCycles (x : Group) : (s.setGrp i x).tcoCycles = s.tcoCycles := rfl
@[simp] theorem State.setGrp_trigDone (x : Group) : (s.setGrp i x).trigDone = s.trigDone := rfl
@[simp] theorem State.setGrp_merges (x : Group) : (s.setGrp i x).merges = s.merges := rfl
@[simp] theorem State.setGrp_irqs (x : Group) : (s.setGrp i x).irqs = s.irqs := rfl
@[simp] theorem State.setGrp_saves (x : Group) : (s.setGrp i x).saves = s.saves := rfl
@[simp] theorem State.setGrp_restores (x : Group) : (s.setGrp i x).restores = s.restores := rfl
@[simp] theorem State.setGrp_spent (x : Group) : (s.setGrp i x).spent = s.spent := rfl
@[simp] theorem State.setGrp_heldQueues (x : Group) : (s.setGrp i x).heldQueues = s.heldQueues := rfl
@[simp] theorem State.setGrp_flr (x : Group) : (s.setGrp i x).flr = s.flr := rfl
@[simp] theorem State.setGrp_reduce (x : Group) : (s.setGrp i x).reduce = s.reduce := rfl
@[simp] theorem State.setGrp_sent (x : Group) : (s.setGrp i x).sent = s.sent := rfl
@[simp] theorem State.setGrp_fabricOut (x : Group) : (s.setGrp i x).fabricOut = s.fabricOut := rfl
@[simp] theorem State.setGrp_spdmOut (x : Group) : (s.setGrp i x).spdmOut = s.spdmOut := rfl
@[simp] theorem State.setGrp_aer (x : Group) : (s.setGrp i x).aer = s.aer := rfl
@[simp] theorem State.setGrp_stage2 (x : Group) : (s.setGrp i x).stage2 = s.stage2 := rfl
@[simp] theorem State.setGrp_tdi (x : Group) : (s.setGrp i x).tdi = s.tdi := rfl
@[simp] theorem State.setGrp_dies (x : Group) : (s.setGrp i x).dies = s.dies := rfl
@[simp] theorem State.setGrp_failed (x : Group) : (s.setGrp i x).failed = s.failed := rfl
@[simp] theorem State.setGrp_slice (x : Group) : (s.setGrp i x).slice = s.slice := rfl
@[simp] theorem State.setGrp_poison (x : Group) : (s.setGrp i x).poison = s.poison := rfl
@[simp] theorem State.setGrp_tickets (x : Group) : (s.setGrp i x).tickets = s.tickets := rfl
@[simp] theorem State.setGrp_posted (x : Group) : (s.setGrp i x).posted = s.posted := rfl
@[simp] theorem State.setGrp_agenda (x : Group) : (s.setGrp i x).agenda = s.agenda := rfl
@[simp] theorem State.setGrp_cur (x : Group) : (s.setGrp i x).cur = s.cur := rfl
@[simp] theorem State.setGrp_at' (x : Group) : (s.setGrp i x).at' = s.at' := rfl
@[simp] theorem State.setGrp_ir (x : Group) : (s.setGrp i x).ir = s.ir := rfl
@[simp] theorem State.setGrp_pfx (x : Group) : (s.setGrp i x).pfx = s.pfx := rfl
@[simp] theorem State.setGrp_cut (x : Group) : (s.setGrp i x).cut = s.cut := rfl
@[simp] theorem State.setGrp_late (x : Group) : (s.setGrp i x).late = s.late := rfl
@[simp] theorem State.setGrp_fv (x : Group) : (s.setGrp i x).fv = s.fv := rfl
@[simp] theorem State.setGrp_tv (x : Group) : (s.setGrp i x).tv = s.tv := rfl

@[simp] theorem State.modGrp_mem (f : Group → Group) : (s.modGrp i f).mem = s.mem := rfl
@[simp] theorem State.modGrp_host (f : Group → Group) : (s.modGrp i f).host = s.host := rfl
@[simp] theorem State.modGrp_hostErr (f : Group → Group) : (s.modGrp i f).hostErr = s.hostErr := rfl
@[simp] theorem State.modGrp_scratch (f : Group → Group) : (s.modGrp i f).scratch = s.scratch := rfl
@[simp] theorem State.modGrp_tiles (f : Group → Group) : (s.modGrp i f).tiles = s.tiles := rfl
@[simp] theorem State.modGrp_l1 (f : Group → Group) : (s.modGrp i f).l1 = s.l1 := rfl
@[simp] theorem State.modGrp_rdc (f : Group → Group) : (s.modGrp i f).rdc = s.rdc := rfl
@[simp] theorem State.modGrp_l2 (f : Group → Group) : (s.modGrp i f).l2 = s.l2 := rfl
@[simp] theorem State.modGrp_tlb (f : Group → Group) : (s.modGrp i f).tlb = s.tlb := rfl
@[simp] theorem State.modGrp_regs (f : Group → Group) : (s.modGrp i f).regs = s.regs := rfl
@[simp] theorem State.modGrp_frames (f : Group → Group) : (s.modGrp i f).frames = s.frames := rfl
@[simp] theorem State.modGrp_faults (f : Group → Group) : (s.modGrp i f).faults = s.faults := rfl
@[simp] theorem State.modGrp_faultNext (f : Group → Group) : (s.modGrp i f).faultNext = s.faultNext := rfl
@[simp] theorem State.modGrp_grids (f : Group → Group) : (s.modGrp i f).grids = s.grids := rfl
@[simp] theorem State.modGrp_wgs (f : Group → Group) : (s.modGrp i f).wgs = s.wgs := rfl
@[simp] theorem State.modGrp_packets (f : Group → Group) : (s.modGrp i f).packets = s.packets := rfl
@[simp] theorem State.modGrp_served (f : Group → Group) : (s.modGrp i f).served = s.served := rfl
@[simp] theorem State.modGrp_copies (f : Group → Group) : (s.modGrp i f).copies = s.copies := rfl
@[simp] theorem State.modGrp_mxu (f : Group → Group) : (s.modGrp i f).mxu = s.mxu := rfl
@[simp] theorem State.modGrp_barNet (f : Group → Group) : (s.modGrp i f).barNet = s.barNet := rfl
@[simp] theorem State.modGrp_ext (f : Group → Group) : (s.modGrp i f).ext = s.ext := rfl
@[simp] theorem State.modGrp_tcoIn (f : Group → Group) : (s.modGrp i f).tcoIn = s.tcoIn := rfl
@[simp] theorem State.modGrp_tcoRuns (f : Group → Group) : (s.modGrp i f).tcoRuns = s.tcoRuns := rfl
@[simp] theorem State.modGrp_slots (f : Group → Group) : (s.modGrp i f).slots = s.slots := rfl
@[simp] theorem State.modGrp_tcoMem (f : Group → Group) : (s.modGrp i f).tcoMem = s.tcoMem := rfl
@[simp] theorem State.modGrp_tcoCycles (f : Group → Group) : (s.modGrp i f).tcoCycles = s.tcoCycles := rfl
@[simp] theorem State.modGrp_trigDone (f : Group → Group) : (s.modGrp i f).trigDone = s.trigDone := rfl
@[simp] theorem State.modGrp_merges (f : Group → Group) : (s.modGrp i f).merges = s.merges := rfl
@[simp] theorem State.modGrp_irqs (f : Group → Group) : (s.modGrp i f).irqs = s.irqs := rfl
@[simp] theorem State.modGrp_saves (f : Group → Group) : (s.modGrp i f).saves = s.saves := rfl
@[simp] theorem State.modGrp_restores (f : Group → Group) : (s.modGrp i f).restores = s.restores := rfl
@[simp] theorem State.modGrp_spent (f : Group → Group) : (s.modGrp i f).spent = s.spent := rfl
@[simp] theorem State.modGrp_heldQueues (f : Group → Group) : (s.modGrp i f).heldQueues = s.heldQueues := rfl
@[simp] theorem State.modGrp_flr (f : Group → Group) : (s.modGrp i f).flr = s.flr := rfl
@[simp] theorem State.modGrp_reduce (f : Group → Group) : (s.modGrp i f).reduce = s.reduce := rfl
@[simp] theorem State.modGrp_sent (f : Group → Group) : (s.modGrp i f).sent = s.sent := rfl
@[simp] theorem State.modGrp_fabricOut (f : Group → Group) : (s.modGrp i f).fabricOut = s.fabricOut := rfl
@[simp] theorem State.modGrp_spdmOut (f : Group → Group) : (s.modGrp i f).spdmOut = s.spdmOut := rfl
@[simp] theorem State.modGrp_aer (f : Group → Group) : (s.modGrp i f).aer = s.aer := rfl
@[simp] theorem State.modGrp_stage2 (f : Group → Group) : (s.modGrp i f).stage2 = s.stage2 := rfl
@[simp] theorem State.modGrp_tdi (f : Group → Group) : (s.modGrp i f).tdi = s.tdi := rfl
@[simp] theorem State.modGrp_dies (f : Group → Group) : (s.modGrp i f).dies = s.dies := rfl
@[simp] theorem State.modGrp_failed (f : Group → Group) : (s.modGrp i f).failed = s.failed := rfl
@[simp] theorem State.modGrp_slice (f : Group → Group) : (s.modGrp i f).slice = s.slice := rfl
@[simp] theorem State.modGrp_poison (f : Group → Group) : (s.modGrp i f).poison = s.poison := rfl
@[simp] theorem State.modGrp_tickets (f : Group → Group) : (s.modGrp i f).tickets = s.tickets := rfl
@[simp] theorem State.modGrp_posted (f : Group → Group) : (s.modGrp i f).posted = s.posted := rfl
@[simp] theorem State.modGrp_agenda (f : Group → Group) : (s.modGrp i f).agenda = s.agenda := rfl
@[simp] theorem State.modGrp_cur (f : Group → Group) : (s.modGrp i f).cur = s.cur := rfl
@[simp] theorem State.modGrp_at' (f : Group → Group) : (s.modGrp i f).at' = s.at' := rfl
@[simp] theorem State.modGrp_ir (f : Group → Group) : (s.modGrp i f).ir = s.ir := rfl
@[simp] theorem State.modGrp_pfx (f : Group → Group) : (s.modGrp i f).pfx = s.pfx := rfl
@[simp] theorem State.modGrp_cut (f : Group → Group) : (s.modGrp i f).cut = s.cut := rfl
@[simp] theorem State.modGrp_late (f : Group → Group) : (s.modGrp i f).late = s.late := rfl
@[simp] theorem State.modGrp_fv (f : Group → Group) : (s.modGrp i f).fv = s.fv := rfl
@[simp] theorem State.modGrp_tv (f : Group → Group) : (s.modGrp i f).tv = s.tv := rfl

@[simp] theorem State.modMe_mem (f : Group → Group) : (s.modMe f).mem = s.mem := rfl
@[simp] theorem State.modMe_host (f : Group → Group) : (s.modMe f).host = s.host := rfl
@[simp] theorem State.modMe_hostErr (f : Group → Group) : (s.modMe f).hostErr = s.hostErr := rfl
@[simp] theorem State.modMe_scratch (f : Group → Group) : (s.modMe f).scratch = s.scratch := rfl
@[simp] theorem State.modMe_tiles (f : Group → Group) : (s.modMe f).tiles = s.tiles := rfl
@[simp] theorem State.modMe_l1 (f : Group → Group) : (s.modMe f).l1 = s.l1 := rfl
@[simp] theorem State.modMe_rdc (f : Group → Group) : (s.modMe f).rdc = s.rdc := rfl
@[simp] theorem State.modMe_l2 (f : Group → Group) : (s.modMe f).l2 = s.l2 := rfl
@[simp] theorem State.modMe_tlb (f : Group → Group) : (s.modMe f).tlb = s.tlb := rfl
@[simp] theorem State.modMe_regs (f : Group → Group) : (s.modMe f).regs = s.regs := rfl
@[simp] theorem State.modMe_frames (f : Group → Group) : (s.modMe f).frames = s.frames := rfl
@[simp] theorem State.modMe_faults (f : Group → Group) : (s.modMe f).faults = s.faults := rfl
@[simp] theorem State.modMe_faultNext (f : Group → Group) : (s.modMe f).faultNext = s.faultNext := rfl
@[simp] theorem State.modMe_grids (f : Group → Group) : (s.modMe f).grids = s.grids := rfl
@[simp] theorem State.modMe_wgs (f : Group → Group) : (s.modMe f).wgs = s.wgs := rfl
@[simp] theorem State.modMe_packets (f : Group → Group) : (s.modMe f).packets = s.packets := rfl
@[simp] theorem State.modMe_served (f : Group → Group) : (s.modMe f).served = s.served := rfl
@[simp] theorem State.modMe_copies (f : Group → Group) : (s.modMe f).copies = s.copies := rfl
@[simp] theorem State.modMe_mxu (f : Group → Group) : (s.modMe f).mxu = s.mxu := rfl
@[simp] theorem State.modMe_barNet (f : Group → Group) : (s.modMe f).barNet = s.barNet := rfl
@[simp] theorem State.modMe_ext (f : Group → Group) : (s.modMe f).ext = s.ext := rfl
@[simp] theorem State.modMe_tcoIn (f : Group → Group) : (s.modMe f).tcoIn = s.tcoIn := rfl
@[simp] theorem State.modMe_tcoRuns (f : Group → Group) : (s.modMe f).tcoRuns = s.tcoRuns := rfl
@[simp] theorem State.modMe_slots (f : Group → Group) : (s.modMe f).slots = s.slots := rfl
@[simp] theorem State.modMe_tcoMem (f : Group → Group) : (s.modMe f).tcoMem = s.tcoMem := rfl
@[simp] theorem State.modMe_tcoCycles (f : Group → Group) : (s.modMe f).tcoCycles = s.tcoCycles := rfl
@[simp] theorem State.modMe_trigDone (f : Group → Group) : (s.modMe f).trigDone = s.trigDone := rfl
@[simp] theorem State.modMe_merges (f : Group → Group) : (s.modMe f).merges = s.merges := rfl
@[simp] theorem State.modMe_irqs (f : Group → Group) : (s.modMe f).irqs = s.irqs := rfl
@[simp] theorem State.modMe_saves (f : Group → Group) : (s.modMe f).saves = s.saves := rfl
@[simp] theorem State.modMe_restores (f : Group → Group) : (s.modMe f).restores = s.restores := rfl
@[simp] theorem State.modMe_spent (f : Group → Group) : (s.modMe f).spent = s.spent := rfl
@[simp] theorem State.modMe_heldQueues (f : Group → Group) : (s.modMe f).heldQueues = s.heldQueues := rfl
@[simp] theorem State.modMe_flr (f : Group → Group) : (s.modMe f).flr = s.flr := rfl
@[simp] theorem State.modMe_reduce (f : Group → Group) : (s.modMe f).reduce = s.reduce := rfl
@[simp] theorem State.modMe_sent (f : Group → Group) : (s.modMe f).sent = s.sent := rfl
@[simp] theorem State.modMe_fabricOut (f : Group → Group) : (s.modMe f).fabricOut = s.fabricOut := rfl
@[simp] theorem State.modMe_spdmOut (f : Group → Group) : (s.modMe f).spdmOut = s.spdmOut := rfl
@[simp] theorem State.modMe_aer (f : Group → Group) : (s.modMe f).aer = s.aer := rfl
@[simp] theorem State.modMe_stage2 (f : Group → Group) : (s.modMe f).stage2 = s.stage2 := rfl
@[simp] theorem State.modMe_tdi (f : Group → Group) : (s.modMe f).tdi = s.tdi := rfl
@[simp] theorem State.modMe_dies (f : Group → Group) : (s.modMe f).dies = s.dies := rfl
@[simp] theorem State.modMe_failed (f : Group → Group) : (s.modMe f).failed = s.failed := rfl
@[simp] theorem State.modMe_slice (f : Group → Group) : (s.modMe f).slice = s.slice := rfl
@[simp] theorem State.modMe_poison (f : Group → Group) : (s.modMe f).poison = s.poison := rfl
@[simp] theorem State.modMe_tickets (f : Group → Group) : (s.modMe f).tickets = s.tickets := rfl
@[simp] theorem State.modMe_posted (f : Group → Group) : (s.modMe f).posted = s.posted := rfl
@[simp] theorem State.modMe_agenda (f : Group → Group) : (s.modMe f).agenda = s.agenda := rfl
@[simp] theorem State.modMe_cur (f : Group → Group) : (s.modMe f).cur = s.cur := rfl
@[simp] theorem State.modMe_at' (f : Group → Group) : (s.modMe f).at' = s.at' := rfl
@[simp] theorem State.modMe_ir (f : Group → Group) : (s.modMe f).ir = s.ir := rfl
@[simp] theorem State.modMe_pfx (f : Group → Group) : (s.modMe f).pfx = s.pfx := rfl
@[simp] theorem State.modMe_cut (f : Group → Group) : (s.modMe f).cut = s.cut := rfl
@[simp] theorem State.modMe_late (f : Group → Group) : (s.modMe f).late = s.late := rfl
@[simp] theorem State.modMe_fv (f : Group → Group) : (s.modMe f).fv = s.fv := rfl
@[simp] theorem State.modMe_tv (f : Group → Group) : (s.modMe f).tv = s.tv := rfl

@[simp] theorem State.modWg_mem (f : Workgroup → Workgroup) : (s.modWg i f).mem = s.mem := rfl
@[simp] theorem State.modWg_host (f : Workgroup → Workgroup) : (s.modWg i f).host = s.host := rfl
@[simp] theorem State.modWg_hostErr (f : Workgroup → Workgroup) : (s.modWg i f).hostErr = s.hostErr := rfl
@[simp] theorem State.modWg_scratch (f : Workgroup → Workgroup) : (s.modWg i f).scratch = s.scratch := rfl
@[simp] theorem State.modWg_tiles (f : Workgroup → Workgroup) : (s.modWg i f).tiles = s.tiles := rfl
@[simp] theorem State.modWg_l1 (f : Workgroup → Workgroup) : (s.modWg i f).l1 = s.l1 := rfl
@[simp] theorem State.modWg_rdc (f : Workgroup → Workgroup) : (s.modWg i f).rdc = s.rdc := rfl
@[simp] theorem State.modWg_l2 (f : Workgroup → Workgroup) : (s.modWg i f).l2 = s.l2 := rfl
@[simp] theorem State.modWg_tlb (f : Workgroup → Workgroup) : (s.modWg i f).tlb = s.tlb := rfl
@[simp] theorem State.modWg_regs (f : Workgroup → Workgroup) : (s.modWg i f).regs = s.regs := rfl
@[simp] theorem State.modWg_frames (f : Workgroup → Workgroup) : (s.modWg i f).frames = s.frames := rfl
@[simp] theorem State.modWg_faults (f : Workgroup → Workgroup) : (s.modWg i f).faults = s.faults := rfl
@[simp] theorem State.modWg_faultNext (f : Workgroup → Workgroup) : (s.modWg i f).faultNext = s.faultNext := rfl
@[simp] theorem State.modWg_grids (f : Workgroup → Workgroup) : (s.modWg i f).grids = s.grids := rfl
@[simp] theorem State.modWg_groups (f : Workgroup → Workgroup) : (s.modWg i f).groups = s.groups := rfl
@[simp] theorem State.modWg_packets (f : Workgroup → Workgroup) : (s.modWg i f).packets = s.packets := rfl
@[simp] theorem State.modWg_served (f : Workgroup → Workgroup) : (s.modWg i f).served = s.served := rfl
@[simp] theorem State.modWg_copies (f : Workgroup → Workgroup) : (s.modWg i f).copies = s.copies := rfl
@[simp] theorem State.modWg_mxu (f : Workgroup → Workgroup) : (s.modWg i f).mxu = s.mxu := rfl
@[simp] theorem State.modWg_barNet (f : Workgroup → Workgroup) : (s.modWg i f).barNet = s.barNet := rfl
@[simp] theorem State.modWg_ext (f : Workgroup → Workgroup) : (s.modWg i f).ext = s.ext := rfl
@[simp] theorem State.modWg_tcoIn (f : Workgroup → Workgroup) : (s.modWg i f).tcoIn = s.tcoIn := rfl
@[simp] theorem State.modWg_tcoRuns (f : Workgroup → Workgroup) : (s.modWg i f).tcoRuns = s.tcoRuns := rfl
@[simp] theorem State.modWg_slots (f : Workgroup → Workgroup) : (s.modWg i f).slots = s.slots := rfl
@[simp] theorem State.modWg_tcoMem (f : Workgroup → Workgroup) : (s.modWg i f).tcoMem = s.tcoMem := rfl
@[simp] theorem State.modWg_tcoCycles (f : Workgroup → Workgroup) : (s.modWg i f).tcoCycles = s.tcoCycles := rfl
@[simp] theorem State.modWg_trigDone (f : Workgroup → Workgroup) : (s.modWg i f).trigDone = s.trigDone := rfl
@[simp] theorem State.modWg_merges (f : Workgroup → Workgroup) : (s.modWg i f).merges = s.merges := rfl
@[simp] theorem State.modWg_irqs (f : Workgroup → Workgroup) : (s.modWg i f).irqs = s.irqs := rfl
@[simp] theorem State.modWg_saves (f : Workgroup → Workgroup) : (s.modWg i f).saves = s.saves := rfl
@[simp] theorem State.modWg_restores (f : Workgroup → Workgroup) : (s.modWg i f).restores = s.restores := rfl
@[simp] theorem State.modWg_spent (f : Workgroup → Workgroup) : (s.modWg i f).spent = s.spent := rfl
@[simp] theorem State.modWg_heldQueues (f : Workgroup → Workgroup) : (s.modWg i f).heldQueues = s.heldQueues := rfl
@[simp] theorem State.modWg_flr (f : Workgroup → Workgroup) : (s.modWg i f).flr = s.flr := rfl
@[simp] theorem State.modWg_reduce (f : Workgroup → Workgroup) : (s.modWg i f).reduce = s.reduce := rfl
@[simp] theorem State.modWg_sent (f : Workgroup → Workgroup) : (s.modWg i f).sent = s.sent := rfl
@[simp] theorem State.modWg_fabricOut (f : Workgroup → Workgroup) : (s.modWg i f).fabricOut = s.fabricOut := rfl
@[simp] theorem State.modWg_spdmOut (f : Workgroup → Workgroup) : (s.modWg i f).spdmOut = s.spdmOut := rfl
@[simp] theorem State.modWg_aer (f : Workgroup → Workgroup) : (s.modWg i f).aer = s.aer := rfl
@[simp] theorem State.modWg_stage2 (f : Workgroup → Workgroup) : (s.modWg i f).stage2 = s.stage2 := rfl
@[simp] theorem State.modWg_tdi (f : Workgroup → Workgroup) : (s.modWg i f).tdi = s.tdi := rfl
@[simp] theorem State.modWg_dies (f : Workgroup → Workgroup) : (s.modWg i f).dies = s.dies := rfl
@[simp] theorem State.modWg_failed (f : Workgroup → Workgroup) : (s.modWg i f).failed = s.failed := rfl
@[simp] theorem State.modWg_slice (f : Workgroup → Workgroup) : (s.modWg i f).slice = s.slice := rfl
@[simp] theorem State.modWg_poison (f : Workgroup → Workgroup) : (s.modWg i f).poison = s.poison := rfl
@[simp] theorem State.modWg_tickets (f : Workgroup → Workgroup) : (s.modWg i f).tickets = s.tickets := rfl
@[simp] theorem State.modWg_posted (f : Workgroup → Workgroup) : (s.modWg i f).posted = s.posted := rfl
@[simp] theorem State.modWg_agenda (f : Workgroup → Workgroup) : (s.modWg i f).agenda = s.agenda := rfl
@[simp] theorem State.modWg_cur (f : Workgroup → Workgroup) : (s.modWg i f).cur = s.cur := rfl
@[simp] theorem State.modWg_at' (f : Workgroup → Workgroup) : (s.modWg i f).at' = s.at' := rfl
@[simp] theorem State.modWg_ir (f : Workgroup → Workgroup) : (s.modWg i f).ir = s.ir := rfl
@[simp] theorem State.modWg_pfx (f : Workgroup → Workgroup) : (s.modWg i f).pfx = s.pfx := rfl
@[simp] theorem State.modWg_cut (f : Workgroup → Workgroup) : (s.modWg i f).cut = s.cut := rfl
@[simp] theorem State.modWg_late (f : Workgroup → Workgroup) : (s.modWg i f).late = s.late := rfl
@[simp] theorem State.modWg_fv (f : Workgroup → Workgroup) : (s.modWg i f).fv = s.fv := rfl
@[simp] theorem State.modWg_tv (f : Workgroup → Workgroup) : (s.modWg i f).tv = s.tv := rfl

@[simp] theorem State.modGrid_mem (f : Grid → Grid) : (s.modGrid i f).mem = s.mem := rfl
@[simp] theorem State.modGrid_host (f : Grid → Grid) : (s.modGrid i f).host = s.host := rfl
@[simp] theorem State.modGrid_hostErr (f : Grid → Grid) : (s.modGrid i f).hostErr = s.hostErr := rfl
@[simp] theorem State.modGrid_scratch (f : Grid → Grid) : (s.modGrid i f).scratch = s.scratch := rfl
@[simp] theorem State.modGrid_tiles (f : Grid → Grid) : (s.modGrid i f).tiles = s.tiles := rfl
@[simp] theorem State.modGrid_l1 (f : Grid → Grid) : (s.modGrid i f).l1 = s.l1 := rfl
@[simp] theorem State.modGrid_rdc (f : Grid → Grid) : (s.modGrid i f).rdc = s.rdc := rfl
@[simp] theorem State.modGrid_l2 (f : Grid → Grid) : (s.modGrid i f).l2 = s.l2 := rfl
@[simp] theorem State.modGrid_tlb (f : Grid → Grid) : (s.modGrid i f).tlb = s.tlb := rfl
@[simp] theorem State.modGrid_regs (f : Grid → Grid) : (s.modGrid i f).regs = s.regs := rfl
@[simp] theorem State.modGrid_frames (f : Grid → Grid) : (s.modGrid i f).frames = s.frames := rfl
@[simp] theorem State.modGrid_faults (f : Grid → Grid) : (s.modGrid i f).faults = s.faults := rfl
@[simp] theorem State.modGrid_faultNext (f : Grid → Grid) : (s.modGrid i f).faultNext = s.faultNext := rfl
@[simp] theorem State.modGrid_wgs (f : Grid → Grid) : (s.modGrid i f).wgs = s.wgs := rfl
@[simp] theorem State.modGrid_groups (f : Grid → Grid) : (s.modGrid i f).groups = s.groups := rfl
@[simp] theorem State.modGrid_packets (f : Grid → Grid) : (s.modGrid i f).packets = s.packets := rfl
@[simp] theorem State.modGrid_served (f : Grid → Grid) : (s.modGrid i f).served = s.served := rfl
@[simp] theorem State.modGrid_copies (f : Grid → Grid) : (s.modGrid i f).copies = s.copies := rfl
@[simp] theorem State.modGrid_mxu (f : Grid → Grid) : (s.modGrid i f).mxu = s.mxu := rfl
@[simp] theorem State.modGrid_barNet (f : Grid → Grid) : (s.modGrid i f).barNet = s.barNet := rfl
@[simp] theorem State.modGrid_ext (f : Grid → Grid) : (s.modGrid i f).ext = s.ext := rfl
@[simp] theorem State.modGrid_tcoIn (f : Grid → Grid) : (s.modGrid i f).tcoIn = s.tcoIn := rfl
@[simp] theorem State.modGrid_tcoRuns (f : Grid → Grid) : (s.modGrid i f).tcoRuns = s.tcoRuns := rfl
@[simp] theorem State.modGrid_slots (f : Grid → Grid) : (s.modGrid i f).slots = s.slots := rfl
@[simp] theorem State.modGrid_tcoMem (f : Grid → Grid) : (s.modGrid i f).tcoMem = s.tcoMem := rfl
@[simp] theorem State.modGrid_tcoCycles (f : Grid → Grid) : (s.modGrid i f).tcoCycles = s.tcoCycles := rfl
@[simp] theorem State.modGrid_trigDone (f : Grid → Grid) : (s.modGrid i f).trigDone = s.trigDone := rfl
@[simp] theorem State.modGrid_merges (f : Grid → Grid) : (s.modGrid i f).merges = s.merges := rfl
@[simp] theorem State.modGrid_irqs (f : Grid → Grid) : (s.modGrid i f).irqs = s.irqs := rfl
@[simp] theorem State.modGrid_saves (f : Grid → Grid) : (s.modGrid i f).saves = s.saves := rfl
@[simp] theorem State.modGrid_restores (f : Grid → Grid) : (s.modGrid i f).restores = s.restores := rfl
@[simp] theorem State.modGrid_spent (f : Grid → Grid) : (s.modGrid i f).spent = s.spent := rfl
@[simp] theorem State.modGrid_heldQueues (f : Grid → Grid) : (s.modGrid i f).heldQueues = s.heldQueues := rfl
@[simp] theorem State.modGrid_flr (f : Grid → Grid) : (s.modGrid i f).flr = s.flr := rfl
@[simp] theorem State.modGrid_reduce (f : Grid → Grid) : (s.modGrid i f).reduce = s.reduce := rfl
@[simp] theorem State.modGrid_sent (f : Grid → Grid) : (s.modGrid i f).sent = s.sent := rfl
@[simp] theorem State.modGrid_fabricOut (f : Grid → Grid) : (s.modGrid i f).fabricOut = s.fabricOut := rfl
@[simp] theorem State.modGrid_spdmOut (f : Grid → Grid) : (s.modGrid i f).spdmOut = s.spdmOut := rfl
@[simp] theorem State.modGrid_aer (f : Grid → Grid) : (s.modGrid i f).aer = s.aer := rfl
@[simp] theorem State.modGrid_stage2 (f : Grid → Grid) : (s.modGrid i f).stage2 = s.stage2 := rfl
@[simp] theorem State.modGrid_tdi (f : Grid → Grid) : (s.modGrid i f).tdi = s.tdi := rfl
@[simp] theorem State.modGrid_dies (f : Grid → Grid) : (s.modGrid i f).dies = s.dies := rfl
@[simp] theorem State.modGrid_failed (f : Grid → Grid) : (s.modGrid i f).failed = s.failed := rfl
@[simp] theorem State.modGrid_slice (f : Grid → Grid) : (s.modGrid i f).slice = s.slice := rfl
@[simp] theorem State.modGrid_poison (f : Grid → Grid) : (s.modGrid i f).poison = s.poison := rfl
@[simp] theorem State.modGrid_tickets (f : Grid → Grid) : (s.modGrid i f).tickets = s.tickets := rfl
@[simp] theorem State.modGrid_posted (f : Grid → Grid) : (s.modGrid i f).posted = s.posted := rfl
@[simp] theorem State.modGrid_agenda (f : Grid → Grid) : (s.modGrid i f).agenda = s.agenda := rfl
@[simp] theorem State.modGrid_cur (f : Grid → Grid) : (s.modGrid i f).cur = s.cur := rfl
@[simp] theorem State.modGrid_at' (f : Grid → Grid) : (s.modGrid i f).at' = s.at' := rfl
@[simp] theorem State.modGrid_ir (f : Grid → Grid) : (s.modGrid i f).ir = s.ir := rfl
@[simp] theorem State.modGrid_pfx (f : Grid → Grid) : (s.modGrid i f).pfx = s.pfx := rfl
@[simp] theorem State.modGrid_cut (f : Grid → Grid) : (s.modGrid i f).cut = s.cut := rfl
@[simp] theorem State.modGrid_late (f : Grid → Grid) : (s.modGrid i f).late = s.late := rfl
@[simp] theorem State.modGrid_fv (f : Grid → Grid) : (s.modGrid i f).fv = s.fv := rfl
@[simp] theorem State.modGrid_tv (f : Grid → Grid) : (s.modGrid i f).tv = s.tv := rfl

@[simp] theorem State.setReg_mem (v : Word) : (s.setReg i v).mem = s.mem := rfl
@[simp] theorem State.setReg_host (v : Word) : (s.setReg i v).host = s.host := rfl
@[simp] theorem State.setReg_hostErr (v : Word) : (s.setReg i v).hostErr = s.hostErr := rfl
@[simp] theorem State.setReg_scratch (v : Word) : (s.setReg i v).scratch = s.scratch := rfl
@[simp] theorem State.setReg_tiles (v : Word) : (s.setReg i v).tiles = s.tiles := rfl
@[simp] theorem State.setReg_l1 (v : Word) : (s.setReg i v).l1 = s.l1 := rfl
@[simp] theorem State.setReg_rdc (v : Word) : (s.setReg i v).rdc = s.rdc := rfl
@[simp] theorem State.setReg_l2 (v : Word) : (s.setReg i v).l2 = s.l2 := rfl
@[simp] theorem State.setReg_tlb (v : Word) : (s.setReg i v).tlb = s.tlb := rfl
@[simp] theorem State.setReg_frames (v : Word) : (s.setReg i v).frames = s.frames := rfl
@[simp] theorem State.setReg_faults (v : Word) : (s.setReg i v).faults = s.faults := rfl
@[simp] theorem State.setReg_faultNext (v : Word) : (s.setReg i v).faultNext = s.faultNext := rfl
@[simp] theorem State.setReg_grids (v : Word) : (s.setReg i v).grids = s.grids := rfl
@[simp] theorem State.setReg_wgs (v : Word) : (s.setReg i v).wgs = s.wgs := rfl
@[simp] theorem State.setReg_groups (v : Word) : (s.setReg i v).groups = s.groups := rfl
@[simp] theorem State.setReg_packets (v : Word) : (s.setReg i v).packets = s.packets := rfl
@[simp] theorem State.setReg_served (v : Word) : (s.setReg i v).served = s.served := rfl
@[simp] theorem State.setReg_copies (v : Word) : (s.setReg i v).copies = s.copies := rfl
@[simp] theorem State.setReg_mxu (v : Word) : (s.setReg i v).mxu = s.mxu := rfl
@[simp] theorem State.setReg_barNet (v : Word) : (s.setReg i v).barNet = s.barNet := rfl
@[simp] theorem State.setReg_ext (v : Word) : (s.setReg i v).ext = s.ext := rfl
@[simp] theorem State.setReg_tcoIn (v : Word) : (s.setReg i v).tcoIn = s.tcoIn := rfl
@[simp] theorem State.setReg_tcoRuns (v : Word) : (s.setReg i v).tcoRuns = s.tcoRuns := rfl
@[simp] theorem State.setReg_slots (v : Word) : (s.setReg i v).slots = s.slots := rfl
@[simp] theorem State.setReg_tcoMem (v : Word) : (s.setReg i v).tcoMem = s.tcoMem := rfl
@[simp] theorem State.setReg_tcoCycles (v : Word) : (s.setReg i v).tcoCycles = s.tcoCycles := rfl
@[simp] theorem State.setReg_trigDone (v : Word) : (s.setReg i v).trigDone = s.trigDone := rfl
@[simp] theorem State.setReg_merges (v : Word) : (s.setReg i v).merges = s.merges := rfl
@[simp] theorem State.setReg_irqs (v : Word) : (s.setReg i v).irqs = s.irqs := rfl
@[simp] theorem State.setReg_saves (v : Word) : (s.setReg i v).saves = s.saves := rfl
@[simp] theorem State.setReg_restores (v : Word) : (s.setReg i v).restores = s.restores := rfl
@[simp] theorem State.setReg_spent (v : Word) : (s.setReg i v).spent = s.spent := rfl
@[simp] theorem State.setReg_heldQueues (v : Word) : (s.setReg i v).heldQueues = s.heldQueues := rfl
@[simp] theorem State.setReg_flr (v : Word) : (s.setReg i v).flr = s.flr := rfl
@[simp] theorem State.setReg_reduce (v : Word) : (s.setReg i v).reduce = s.reduce := rfl
@[simp] theorem State.setReg_sent (v : Word) : (s.setReg i v).sent = s.sent := rfl
@[simp] theorem State.setReg_fabricOut (v : Word) : (s.setReg i v).fabricOut = s.fabricOut := rfl
@[simp] theorem State.setReg_spdmOut (v : Word) : (s.setReg i v).spdmOut = s.spdmOut := rfl
@[simp] theorem State.setReg_aer (v : Word) : (s.setReg i v).aer = s.aer := rfl
@[simp] theorem State.setReg_stage2 (v : Word) : (s.setReg i v).stage2 = s.stage2 := rfl
@[simp] theorem State.setReg_tdi (v : Word) : (s.setReg i v).tdi = s.tdi := rfl
@[simp] theorem State.setReg_dies (v : Word) : (s.setReg i v).dies = s.dies := rfl
@[simp] theorem State.setReg_failed (v : Word) : (s.setReg i v).failed = s.failed := rfl
@[simp] theorem State.setReg_slice (v : Word) : (s.setReg i v).slice = s.slice := rfl
@[simp] theorem State.setReg_poison (v : Word) : (s.setReg i v).poison = s.poison := rfl
@[simp] theorem State.setReg_tickets (v : Word) : (s.setReg i v).tickets = s.tickets := rfl
@[simp] theorem State.setReg_posted (v : Word) : (s.setReg i v).posted = s.posted := rfl
@[simp] theorem State.setReg_agenda (v : Word) : (s.setReg i v).agenda = s.agenda := rfl
@[simp] theorem State.setReg_cur (v : Word) : (s.setReg i v).cur = s.cur := rfl
@[simp] theorem State.setReg_at' (v : Word) : (s.setReg i v).at' = s.at' := rfl
@[simp] theorem State.setReg_ir (v : Word) : (s.setReg i v).ir = s.ir := rfl
@[simp] theorem State.setReg_pfx (v : Word) : (s.setReg i v).pfx = s.pfx := rfl
@[simp] theorem State.setReg_cut (v : Word) : (s.setReg i v).cut = s.cut := rfl
@[simp] theorem State.setReg_late (v : Word) : (s.setReg i v).late = s.late := rfl
@[simp] theorem State.setReg_fv (v : Word) : (s.setReg i v).fv = s.fv := rfl
@[simp] theorem State.setReg_tv (v : Word) : (s.setReg i v).tv = s.tv := rfl

@[simp] theorem State.setReg64_mem (v : Dword) : (s.setReg64 i v).mem = s.mem := rfl
@[simp] theorem State.setReg64_host (v : Dword) : (s.setReg64 i v).host = s.host := rfl
@[simp] theorem State.setReg64_hostErr (v : Dword) : (s.setReg64 i v).hostErr = s.hostErr := rfl
@[simp] theorem State.setReg64_scratch (v : Dword) : (s.setReg64 i v).scratch = s.scratch := rfl
@[simp] theorem State.setReg64_tiles (v : Dword) : (s.setReg64 i v).tiles = s.tiles := rfl
@[simp] theorem State.setReg64_l1 (v : Dword) : (s.setReg64 i v).l1 = s.l1 := rfl
@[simp] theorem State.setReg64_rdc (v : Dword) : (s.setReg64 i v).rdc = s.rdc := rfl
@[simp] theorem State.setReg64_l2 (v : Dword) : (s.setReg64 i v).l2 = s.l2 := rfl
@[simp] theorem State.setReg64_tlb (v : Dword) : (s.setReg64 i v).tlb = s.tlb := rfl
@[simp] theorem State.setReg64_frames (v : Dword) : (s.setReg64 i v).frames = s.frames := rfl
@[simp] theorem State.setReg64_faults (v : Dword) : (s.setReg64 i v).faults = s.faults := rfl
@[simp] theorem State.setReg64_faultNext (v : Dword) : (s.setReg64 i v).faultNext = s.faultNext := rfl
@[simp] theorem State.setReg64_grids (v : Dword) : (s.setReg64 i v).grids = s.grids := rfl
@[simp] theorem State.setReg64_wgs (v : Dword) : (s.setReg64 i v).wgs = s.wgs := rfl
@[simp] theorem State.setReg64_groups (v : Dword) : (s.setReg64 i v).groups = s.groups := rfl
@[simp] theorem State.setReg64_packets (v : Dword) : (s.setReg64 i v).packets = s.packets := rfl
@[simp] theorem State.setReg64_served (v : Dword) : (s.setReg64 i v).served = s.served := rfl
@[simp] theorem State.setReg64_copies (v : Dword) : (s.setReg64 i v).copies = s.copies := rfl
@[simp] theorem State.setReg64_mxu (v : Dword) : (s.setReg64 i v).mxu = s.mxu := rfl
@[simp] theorem State.setReg64_barNet (v : Dword) : (s.setReg64 i v).barNet = s.barNet := rfl
@[simp] theorem State.setReg64_ext (v : Dword) : (s.setReg64 i v).ext = s.ext := rfl
@[simp] theorem State.setReg64_tcoIn (v : Dword) : (s.setReg64 i v).tcoIn = s.tcoIn := rfl
@[simp] theorem State.setReg64_tcoRuns (v : Dword) : (s.setReg64 i v).tcoRuns = s.tcoRuns := rfl
@[simp] theorem State.setReg64_slots (v : Dword) : (s.setReg64 i v).slots = s.slots := rfl
@[simp] theorem State.setReg64_tcoMem (v : Dword) : (s.setReg64 i v).tcoMem = s.tcoMem := rfl
@[simp] theorem State.setReg64_tcoCycles (v : Dword) : (s.setReg64 i v).tcoCycles = s.tcoCycles := rfl
@[simp] theorem State.setReg64_trigDone (v : Dword) : (s.setReg64 i v).trigDone = s.trigDone := rfl
@[simp] theorem State.setReg64_merges (v : Dword) : (s.setReg64 i v).merges = s.merges := rfl
@[simp] theorem State.setReg64_irqs (v : Dword) : (s.setReg64 i v).irqs = s.irqs := rfl
@[simp] theorem State.setReg64_saves (v : Dword) : (s.setReg64 i v).saves = s.saves := rfl
@[simp] theorem State.setReg64_restores (v : Dword) : (s.setReg64 i v).restores = s.restores := rfl
@[simp] theorem State.setReg64_spent (v : Dword) : (s.setReg64 i v).spent = s.spent := rfl
@[simp] theorem State.setReg64_heldQueues (v : Dword) : (s.setReg64 i v).heldQueues = s.heldQueues := rfl
@[simp] theorem State.setReg64_flr (v : Dword) : (s.setReg64 i v).flr = s.flr := rfl
@[simp] theorem State.setReg64_reduce (v : Dword) : (s.setReg64 i v).reduce = s.reduce := rfl
@[simp] theorem State.setReg64_sent (v : Dword) : (s.setReg64 i v).sent = s.sent := rfl
@[simp] theorem State.setReg64_fabricOut (v : Dword) : (s.setReg64 i v).fabricOut = s.fabricOut := rfl
@[simp] theorem State.setReg64_spdmOut (v : Dword) : (s.setReg64 i v).spdmOut = s.spdmOut := rfl
@[simp] theorem State.setReg64_aer (v : Dword) : (s.setReg64 i v).aer = s.aer := rfl
@[simp] theorem State.setReg64_stage2 (v : Dword) : (s.setReg64 i v).stage2 = s.stage2 := rfl
@[simp] theorem State.setReg64_tdi (v : Dword) : (s.setReg64 i v).tdi = s.tdi := rfl
@[simp] theorem State.setReg64_dies (v : Dword) : (s.setReg64 i v).dies = s.dies := rfl
@[simp] theorem State.setReg64_failed (v : Dword) : (s.setReg64 i v).failed = s.failed := rfl
@[simp] theorem State.setReg64_slice (v : Dword) : (s.setReg64 i v).slice = s.slice := rfl
@[simp] theorem State.setReg64_poison (v : Dword) : (s.setReg64 i v).poison = s.poison := rfl
@[simp] theorem State.setReg64_tickets (v : Dword) : (s.setReg64 i v).tickets = s.tickets := rfl
@[simp] theorem State.setReg64_posted (v : Dword) : (s.setReg64 i v).posted = s.posted := rfl
@[simp] theorem State.setReg64_agenda (v : Dword) : (s.setReg64 i v).agenda = s.agenda := rfl
@[simp] theorem State.setReg64_cur (v : Dword) : (s.setReg64 i v).cur = s.cur := rfl
@[simp] theorem State.setReg64_at' (v : Dword) : (s.setReg64 i v).at' = s.at' := rfl
@[simp] theorem State.setReg64_ir (v : Dword) : (s.setReg64 i v).ir = s.ir := rfl
@[simp] theorem State.setReg64_pfx (v : Dword) : (s.setReg64 i v).pfx = s.pfx := rfl
@[simp] theorem State.setReg64_cut (v : Dword) : (s.setReg64 i v).cut = s.cut := rfl
@[simp] theorem State.setReg64_late (v : Dword) : (s.setReg64 i v).late = s.late := rfl
@[simp] theorem State.setReg64_fv (v : Dword) : (s.setReg64 i v).fv = s.fv := rfl
@[simp] theorem State.setReg64_tv (v : Dword) : (s.setReg64 i v).tv = s.tv := rfl

@[simp] theorem State.free_mem : (s.free.2).mem = s.mem := rfl
@[simp] theorem State.free_host : (s.free.2).host = s.host := rfl
@[simp] theorem State.free_hostErr : (s.free.2).hostErr = s.hostErr := rfl
@[simp] theorem State.free_scratch : (s.free.2).scratch = s.scratch := rfl
@[simp] theorem State.free_tiles : (s.free.2).tiles = s.tiles := rfl
@[simp] theorem State.free_l1 : (s.free.2).l1 = s.l1 := rfl
@[simp] theorem State.free_rdc : (s.free.2).rdc = s.rdc := rfl
@[simp] theorem State.free_l2 : (s.free.2).l2 = s.l2 := rfl
@[simp] theorem State.free_tlb : (s.free.2).tlb = s.tlb := rfl
@[simp] theorem State.free_regs : (s.free.2).regs = s.regs := rfl
@[simp] theorem State.free_frames : (s.free.2).frames = s.frames := rfl
@[simp] theorem State.free_faults : (s.free.2).faults = s.faults := rfl
@[simp] theorem State.free_faultNext : (s.free.2).faultNext = s.faultNext := rfl
@[simp] theorem State.free_grids : (s.free.2).grids = s.grids := rfl
@[simp] theorem State.free_wgs : (s.free.2).wgs = s.wgs := rfl
@[simp] theorem State.free_groups : (s.free.2).groups = s.groups := rfl
@[simp] theorem State.free_packets : (s.free.2).packets = s.packets := rfl
@[simp] theorem State.free_served : (s.free.2).served = s.served := rfl
@[simp] theorem State.free_copies : (s.free.2).copies = s.copies := rfl
@[simp] theorem State.free_mxu : (s.free.2).mxu = s.mxu := rfl
@[simp] theorem State.free_barNet : (s.free.2).barNet = s.barNet := rfl
@[simp] theorem State.free_ext : (s.free.2).ext = s.ext := rfl
@[simp] theorem State.free_tcoIn : (s.free.2).tcoIn = s.tcoIn := rfl
@[simp] theorem State.free_tcoRuns : (s.free.2).tcoRuns = s.tcoRuns := rfl
@[simp] theorem State.free_slots : (s.free.2).slots = s.slots := rfl
@[simp] theorem State.free_tcoMem : (s.free.2).tcoMem = s.tcoMem := rfl
@[simp] theorem State.free_tcoCycles : (s.free.2).tcoCycles = s.tcoCycles := rfl
@[simp] theorem State.free_trigDone : (s.free.2).trigDone = s.trigDone := rfl
@[simp] theorem State.free_merges : (s.free.2).merges = s.merges := rfl
@[simp] theorem State.free_irqs : (s.free.2).irqs = s.irqs := rfl
@[simp] theorem State.free_saves : (s.free.2).saves = s.saves := rfl
@[simp] theorem State.free_restores : (s.free.2).restores = s.restores := rfl
@[simp] theorem State.free_spent : (s.free.2).spent = s.spent := rfl
@[simp] theorem State.free_heldQueues : (s.free.2).heldQueues = s.heldQueues := rfl
@[simp] theorem State.free_flr : (s.free.2).flr = s.flr := rfl
@[simp] theorem State.free_reduce : (s.free.2).reduce = s.reduce := rfl
@[simp] theorem State.free_sent : (s.free.2).sent = s.sent := rfl
@[simp] theorem State.free_fabricOut : (s.free.2).fabricOut = s.fabricOut := rfl
@[simp] theorem State.free_spdmOut : (s.free.2).spdmOut = s.spdmOut := rfl
@[simp] theorem State.free_aer : (s.free.2).aer = s.aer := rfl
@[simp] theorem State.free_stage2 : (s.free.2).stage2 = s.stage2 := rfl
@[simp] theorem State.free_tdi : (s.free.2).tdi = s.tdi := rfl
@[simp] theorem State.free_dies : (s.free.2).dies = s.dies := rfl
@[simp] theorem State.free_failed : (s.free.2).failed = s.failed := rfl
@[simp] theorem State.free_slice : (s.free.2).slice = s.slice := rfl
@[simp] theorem State.free_poison : (s.free.2).poison = s.poison := rfl
@[simp] theorem State.free_tickets : (s.free.2).tickets = s.tickets := rfl
@[simp] theorem State.free_posted : (s.free.2).posted = s.posted := rfl
@[simp] theorem State.free_agenda : (s.free.2).agenda = s.agenda := rfl
@[simp] theorem State.free_cur : (s.free.2).cur = s.cur := rfl
@[simp] theorem State.free_at' : (s.free.2).at' = s.at' := rfl
@[simp] theorem State.free_ir : (s.free.2).ir = s.ir := rfl
@[simp] theorem State.free_pfx : (s.free.2).pfx = s.pfx := rfl
@[simp] theorem State.free_cut : (s.free.2).cut = s.cut := rfl
@[simp] theorem State.free_late : (s.free.2).late = s.late := rfl
@[simp] theorem State.free_tv : (s.free.2).tv = s.tv := rfl

/-! ### Updates of a group -/

@[simp] theorem Group.wx_grid (v : Word) : (g.wx t r v).grid = g.grid := rfl
@[simp] theorem Group.wx_wg (v : Word) : (g.wx t r v).wg = g.wg := rfl
@[simp] theorem Group.wx_gix (v : Word) : (g.wx t r v).gix = g.gix := rfl
@[simp] theorem Group.wx_st (v : Word) : (g.wx t r v).st = g.st := rfl
@[simp] theorem Group.wx_gen (v : Word) : (g.wx t r v).gen = g.gen := rfl
@[simp] theorem Group.wx_priv (v : Word) : (g.wx t r v).priv = g.priv := rfl
@[simp] theorem Group.wx_jf (v : Word) : (g.wx t r v).jf = g.jf := rfl
@[simp] theorem Group.wx_clr (v : Word) : (g.wx t r v).clr = g.clr := rfl
@[simp] theorem Group.wx_rix (v : Word) : (g.wx t r v).rix = g.rix := rfl
@[simp] theorem Group.wx_lc (v : Word) : (g.wx t r v).lc = g.lc := rfl
@[simp] theorem Group.wx_fx (v : Word) : (g.wx t r v).fx = g.fx := rfl
@[simp] theorem Group.wx_fxLater (v : Word) : (g.wx t r v).fxLater = g.fxLater := rfl
@[simp] theorem Group.wx_exited (v : Word) : (g.wx t r v).exited = g.exited := rfl
@[simp] theorem Group.wx_parked (v : Word) : (g.wx t r v).parked = g.parked := rfl
@[simp] theorem Group.wx_nlaunch (v : Word) : (g.wx t r v).nlaunch = g.nlaunch := rfl
@[simp] theorem Group.wx_launched (v : Word) : (g.wx t r v).launched = g.launched := rfl
@[simp] theorem Group.wx_trapRec (v : Word) : (g.wx t r v).trapRec = g.trapRec := rfl
@[simp] theorem Group.wx_armed (v : Word) : (g.wx t r v).armed = g.armed := rfl
@[simp] theorem Group.wx_monRound (v : Word) : (g.wx t r v).monRound = g.monRound := rfl
@[simp] theorem Group.wx_windows (v : Word) : (g.wx t r v).windows = g.windows := rfl
@[simp] theorem Group.wx_j (v : Word) : (g.wx t r v).j = g.j := rfl
@[simp] theorem Group.wx_p (v : Word) : (g.wx t r v).p = g.p := rfl
@[simp] theorem Group.wx_g (v : Word) : (g.wx t r v).g = g.g := rfl
@[simp] theorem Group.wx_pc (v : Word) : (g.wx t r v).pc = g.pc := rfl
@[simp] theorem Group.wx_spb (v : Word) : (g.wx t r v).spb = g.spb := rfl
@[simp] theorem Group.wx_rsd (v : Word) : (g.wx t r v).rsd = g.rsd := rfl
@[simp] theorem Group.wx_rst (v : Word) : (g.wx t r v).rst = g.rst := rfl
@[simp] theorem Group.wx_snap (v : Word) : (g.wx t r v).snap = g.snap := rfl
@[simp] theorem Group.wx_savedPc (v : Word) : (g.wx t r v).savedPc = g.savedPc := rfl
@[simp] theorem Group.wx_savedParked (v : Word) : (g.wx t r v).savedParked = g.savedParked := rfl
@[simp] theorem Group.wx_take (v : Word) : (g.wx t r v).take = g.take := rfl
@[simp] theorem Group.wx_ops (v : Word) : (g.wx t r v).ops = g.ops := rfl
@[simp] theorem Group.wx_flight (v : Word) : (g.wx t r v).flight = g.flight := rfl
@[simp] theorem Group.wx_sel (v : Word) : (g.wx t r v).sel = g.sel := rfl
@[simp] theorem Group.wx_savedSel (v : Word) : (g.wx t r v).savedSel = g.savedSel := rfl
@[simp] theorem Group.wx_walkFrom (v : Word) : (g.wx t r v).walkFrom = g.walkFrom := rfl
@[simp] theorem Group.wx_savedFrom (v : Word) : (g.wx t r v).savedFrom = g.savedFrom := rfl
@[simp] theorem Group.wx_walk (v : Word) : (g.wx t r v).walk = g.walk := rfl
@[simp] theorem Group.wx_savedWalk (v : Word) : (g.wx t r v).savedWalk = g.savedWalk := rfl
@[simp] theorem Group.wx_pend (v : Word) : (g.wx t r v).pend = g.pend := rfl
@[simp] theorem Group.wx_sleep (v : Word) : (g.wx t r v).sleep = g.sleep := rfl
@[simp] theorem Group.wx_wake (v : Word) : (g.wx t r v).wake = g.wake := rfl
@[simp] theorem Group.wx_hostReq (v : Word) : (g.wx t r v).hostReq = g.hostReq := rfl
@[simp] theorem Group.wx_nack (v : Word) : (g.wx t r v).nack = g.nack := rfl
@[simp] theorem Group.wx_ticket (v : Word) : (g.wx t r v).ticket = g.ticket := rfl
@[simp] theorem Group.wx_landing (v : Word) : (g.wx t r v).landing = g.landing := rfl
@[simp] theorem Group.wx_core (v : Word) : (g.wx t r v).core = g.core := rfl
@[simp] theorem Group.wx_lane (v : Word) : (g.wx t r v).lane = g.lane := rfl
@[simp] theorem Group.wx_gslot (v : Word) : (g.wx t r v).gslot = g.gslot := rfl
@[simp] theorem Group.wx_target (v : Word) : (g.wx t r v).target = g.target := rfl
@[simp] theorem Group.wx_halter (v : Word) : (g.wx t r v).halter = g.halter := rfl
@[simp] theorem Group.wx_haltWait (v : Word) : (g.wx t r v).haltWait = g.haltWait := rfl
@[simp] theorem Group.wx_faultId (v : Word) : (g.wx t r v).faultId = g.faultId := rfl
@[simp] theorem Group.wx_halted (v : Word) : (g.wx t r v).halted = g.halted := rfl
@[simp] theorem Group.wx_closing (v : Word) : (g.wx t r v).closing = g.closing := rfl

@[simp] theorem Group.wj_grid (v : Word) : (g.wj r v).grid = g.grid := rfl
@[simp] theorem Group.wj_wg (v : Word) : (g.wj r v).wg = g.wg := rfl
@[simp] theorem Group.wj_gix (v : Word) : (g.wj r v).gix = g.gix := rfl
@[simp] theorem Group.wj_st (v : Word) : (g.wj r v).st = g.st := rfl
@[simp] theorem Group.wj_gen (v : Word) : (g.wj r v).gen = g.gen := rfl
@[simp] theorem Group.wj_priv (v : Word) : (g.wj r v).priv = g.priv := rfl
@[simp] theorem Group.wj_jf (v : Word) : (g.wj r v).jf = g.jf := rfl
@[simp] theorem Group.wj_clr (v : Word) : (g.wj r v).clr = g.clr := rfl
@[simp] theorem Group.wj_rix (v : Word) : (g.wj r v).rix = g.rix := rfl
@[simp] theorem Group.wj_lc (v : Word) : (g.wj r v).lc = g.lc := rfl
@[simp] theorem Group.wj_fx (v : Word) : (g.wj r v).fx = g.fx := rfl
@[simp] theorem Group.wj_fxLater (v : Word) : (g.wj r v).fxLater = g.fxLater := rfl
@[simp] theorem Group.wj_exited (v : Word) : (g.wj r v).exited = g.exited := rfl
@[simp] theorem Group.wj_parked (v : Word) : (g.wj r v).parked = g.parked := rfl
@[simp] theorem Group.wj_nlaunch (v : Word) : (g.wj r v).nlaunch = g.nlaunch := rfl
@[simp] theorem Group.wj_launched (v : Word) : (g.wj r v).launched = g.launched := rfl
@[simp] theorem Group.wj_trapRec (v : Word) : (g.wj r v).trapRec = g.trapRec := rfl
@[simp] theorem Group.wj_armed (v : Word) : (g.wj r v).armed = g.armed := rfl
@[simp] theorem Group.wj_monRound (v : Word) : (g.wj r v).monRound = g.monRound := rfl
@[simp] theorem Group.wj_windows (v : Word) : (g.wj r v).windows = g.windows := rfl
@[simp] theorem Group.wj_p (v : Word) : (g.wj r v).p = g.p := rfl
@[simp] theorem Group.wj_g (v : Word) : (g.wj r v).g = g.g := rfl
@[simp] theorem Group.wj_x (v : Word) : (g.wj r v).x = g.x := rfl
@[simp] theorem Group.wj_pc (v : Word) : (g.wj r v).pc = g.pc := rfl
@[simp] theorem Group.wj_spb (v : Word) : (g.wj r v).spb = g.spb := rfl
@[simp] theorem Group.wj_rsd (v : Word) : (g.wj r v).rsd = g.rsd := rfl
@[simp] theorem Group.wj_rst (v : Word) : (g.wj r v).rst = g.rst := rfl
@[simp] theorem Group.wj_snap (v : Word) : (g.wj r v).snap = g.snap := rfl
@[simp] theorem Group.wj_savedPc (v : Word) : (g.wj r v).savedPc = g.savedPc := rfl
@[simp] theorem Group.wj_savedParked (v : Word) : (g.wj r v).savedParked = g.savedParked := rfl
@[simp] theorem Group.wj_take (v : Word) : (g.wj r v).take = g.take := rfl
@[simp] theorem Group.wj_ops (v : Word) : (g.wj r v).ops = g.ops := rfl
@[simp] theorem Group.wj_flight (v : Word) : (g.wj r v).flight = g.flight := rfl
@[simp] theorem Group.wj_sel (v : Word) : (g.wj r v).sel = g.sel := rfl
@[simp] theorem Group.wj_savedSel (v : Word) : (g.wj r v).savedSel = g.savedSel := rfl
@[simp] theorem Group.wj_walkFrom (v : Word) : (g.wj r v).walkFrom = g.walkFrom := rfl
@[simp] theorem Group.wj_savedFrom (v : Word) : (g.wj r v).savedFrom = g.savedFrom := rfl
@[simp] theorem Group.wj_walk (v : Word) : (g.wj r v).walk = g.walk := rfl
@[simp] theorem Group.wj_savedWalk (v : Word) : (g.wj r v).savedWalk = g.savedWalk := rfl
@[simp] theorem Group.wj_pend (v : Word) : (g.wj r v).pend = g.pend := rfl
@[simp] theorem Group.wj_sleep (v : Word) : (g.wj r v).sleep = g.sleep := rfl
@[simp] theorem Group.wj_wake (v : Word) : (g.wj r v).wake = g.wake := rfl
@[simp] theorem Group.wj_hostReq (v : Word) : (g.wj r v).hostReq = g.hostReq := rfl
@[simp] theorem Group.wj_nack (v : Word) : (g.wj r v).nack = g.nack := rfl
@[simp] theorem Group.wj_ticket (v : Word) : (g.wj r v).ticket = g.ticket := rfl
@[simp] theorem Group.wj_landing (v : Word) : (g.wj r v).landing = g.landing := rfl
@[simp] theorem Group.wj_core (v : Word) : (g.wj r v).core = g.core := rfl
@[simp] theorem Group.wj_lane (v : Word) : (g.wj r v).lane = g.lane := rfl
@[simp] theorem Group.wj_gslot (v : Word) : (g.wj r v).gslot = g.gslot := rfl
@[simp] theorem Group.wj_target (v : Word) : (g.wj r v).target = g.target := rfl
@[simp] theorem Group.wj_halter (v : Word) : (g.wj r v).halter = g.halter := rfl
@[simp] theorem Group.wj_haltWait (v : Word) : (g.wj r v).haltWait = g.haltWait := rfl
@[simp] theorem Group.wj_faultId (v : Word) : (g.wj r v).faultId = g.faultId := rfl
@[simp] theorem Group.wj_halted (v : Word) : (g.wj r v).halted = g.halted := rfl
@[simp] theorem Group.wj_closing (v : Word) : (g.wj r v).closing = g.closing := rfl

@[simp] theorem Group.wpc_grid : (g.wpc t r).grid = g.grid := rfl
@[simp] theorem Group.wpc_wg : (g.wpc t r).wg = g.wg := rfl
@[simp] theorem Group.wpc_gix : (g.wpc t r).gix = g.gix := rfl
@[simp] theorem Group.wpc_st : (g.wpc t r).st = g.st := rfl
@[simp] theorem Group.wpc_gen : (g.wpc t r).gen = g.gen := rfl
@[simp] theorem Group.wpc_priv : (g.wpc t r).priv = g.priv := rfl
@[simp] theorem Group.wpc_jf : (g.wpc t r).jf = g.jf := rfl
@[simp] theorem Group.wpc_clr : (g.wpc t r).clr = g.clr := rfl
@[simp] theorem Group.wpc_rix : (g.wpc t r).rix = g.rix := rfl
@[simp] theorem Group.wpc_lc : (g.wpc t r).lc = g.lc := rfl
@[simp] theorem Group.wpc_fx : (g.wpc t r).fx = g.fx := rfl
@[simp] theorem Group.wpc_fxLater : (g.wpc t r).fxLater = g.fxLater := rfl
@[simp] theorem Group.wpc_exited : (g.wpc t r).exited = g.exited := rfl
@[simp] theorem Group.wpc_parked : (g.wpc t r).parked = g.parked := rfl
@[simp] theorem Group.wpc_nlaunch : (g.wpc t r).nlaunch = g.nlaunch := rfl
@[simp] theorem Group.wpc_launched : (g.wpc t r).launched = g.launched := rfl
@[simp] theorem Group.wpc_trapRec : (g.wpc t r).trapRec = g.trapRec := rfl
@[simp] theorem Group.wpc_armed : (g.wpc t r).armed = g.armed := rfl
@[simp] theorem Group.wpc_monRound : (g.wpc t r).monRound = g.monRound := rfl
@[simp] theorem Group.wpc_windows : (g.wpc t r).windows = g.windows := rfl
@[simp] theorem Group.wpc_j : (g.wpc t r).j = g.j := rfl
@[simp] theorem Group.wpc_p : (g.wpc t r).p = g.p := rfl
@[simp] theorem Group.wpc_g : (g.wpc t r).g = g.g := rfl
@[simp] theorem Group.wpc_x : (g.wpc t r).x = g.x := rfl
@[simp] theorem Group.wpc_spb : (g.wpc t r).spb = g.spb := rfl
@[simp] theorem Group.wpc_rsd : (g.wpc t r).rsd = g.rsd := rfl
@[simp] theorem Group.wpc_rst : (g.wpc t r).rst = g.rst := rfl
@[simp] theorem Group.wpc_snap : (g.wpc t r).snap = g.snap := rfl
@[simp] theorem Group.wpc_savedPc : (g.wpc t r).savedPc = g.savedPc := rfl
@[simp] theorem Group.wpc_savedParked : (g.wpc t r).savedParked = g.savedParked := rfl
@[simp] theorem Group.wpc_take : (g.wpc t r).take = g.take := rfl
@[simp] theorem Group.wpc_ops : (g.wpc t r).ops = g.ops := rfl
@[simp] theorem Group.wpc_flight : (g.wpc t r).flight = g.flight := rfl
@[simp] theorem Group.wpc_sel : (g.wpc t r).sel = g.sel := rfl
@[simp] theorem Group.wpc_savedSel : (g.wpc t r).savedSel = g.savedSel := rfl
@[simp] theorem Group.wpc_walkFrom : (g.wpc t r).walkFrom = g.walkFrom := rfl
@[simp] theorem Group.wpc_savedFrom : (g.wpc t r).savedFrom = g.savedFrom := rfl
@[simp] theorem Group.wpc_walk : (g.wpc t r).walk = g.walk := rfl
@[simp] theorem Group.wpc_savedWalk : (g.wpc t r).savedWalk = g.savedWalk := rfl
@[simp] theorem Group.wpc_pend : (g.wpc t r).pend = g.pend := rfl
@[simp] theorem Group.wpc_sleep : (g.wpc t r).sleep = g.sleep := rfl
@[simp] theorem Group.wpc_wake : (g.wpc t r).wake = g.wake := rfl
@[simp] theorem Group.wpc_hostReq : (g.wpc t r).hostReq = g.hostReq := rfl
@[simp] theorem Group.wpc_nack : (g.wpc t r).nack = g.nack := rfl
@[simp] theorem Group.wpc_ticket : (g.wpc t r).ticket = g.ticket := rfl
@[simp] theorem Group.wpc_landing : (g.wpc t r).landing = g.landing := rfl
@[simp] theorem Group.wpc_core : (g.wpc t r).core = g.core := rfl
@[simp] theorem Group.wpc_lane : (g.wpc t r).lane = g.lane := rfl
@[simp] theorem Group.wpc_gslot : (g.wpc t r).gslot = g.gslot := rfl
@[simp] theorem Group.wpc_target : (g.wpc t r).target = g.target := rfl
@[simp] theorem Group.wpc_halter : (g.wpc t r).halter = g.halter := rfl
@[simp] theorem Group.wpc_haltWait : (g.wpc t r).haltWait = g.haltWait := rfl
@[simp] theorem Group.wpc_faultId : (g.wpc t r).faultId = g.faultId := rfl
@[simp] theorem Group.wpc_halted : (g.wpc t r).halted = g.halted := rfl
@[simp] theorem Group.wpc_closing : (g.wpc t r).closing = g.closing := rfl

@[simp] theorem Group.wp_grid (b : Bool) : (g.wp t r b).grid = g.grid := rfl
@[simp] theorem Group.wp_wg (b : Bool) : (g.wp t r b).wg = g.wg := rfl
@[simp] theorem Group.wp_gix (b : Bool) : (g.wp t r b).gix = g.gix := rfl
@[simp] theorem Group.wp_st (b : Bool) : (g.wp t r b).st = g.st := rfl
@[simp] theorem Group.wp_gen (b : Bool) : (g.wp t r b).gen = g.gen := rfl
@[simp] theorem Group.wp_priv (b : Bool) : (g.wp t r b).priv = g.priv := rfl
@[simp] theorem Group.wp_jf (b : Bool) : (g.wp t r b).jf = g.jf := rfl
@[simp] theorem Group.wp_clr (b : Bool) : (g.wp t r b).clr = g.clr := rfl
@[simp] theorem Group.wp_rix (b : Bool) : (g.wp t r b).rix = g.rix := rfl
@[simp] theorem Group.wp_lc (b : Bool) : (g.wp t r b).lc = g.lc := rfl
@[simp] theorem Group.wp_fx (b : Bool) : (g.wp t r b).fx = g.fx := rfl
@[simp] theorem Group.wp_fxLater (b : Bool) : (g.wp t r b).fxLater = g.fxLater := rfl
@[simp] theorem Group.wp_exited (b : Bool) : (g.wp t r b).exited = g.exited := rfl
@[simp] theorem Group.wp_parked (b : Bool) : (g.wp t r b).parked = g.parked := rfl
@[simp] theorem Group.wp_nlaunch (b : Bool) : (g.wp t r b).nlaunch = g.nlaunch := rfl
@[simp] theorem Group.wp_launched (b : Bool) : (g.wp t r b).launched = g.launched := rfl
@[simp] theorem Group.wp_trapRec (b : Bool) : (g.wp t r b).trapRec = g.trapRec := rfl
@[simp] theorem Group.wp_armed (b : Bool) : (g.wp t r b).armed = g.armed := rfl
@[simp] theorem Group.wp_monRound (b : Bool) : (g.wp t r b).monRound = g.monRound := rfl
@[simp] theorem Group.wp_windows (b : Bool) : (g.wp t r b).windows = g.windows := rfl
@[simp] theorem Group.wp_j (b : Bool) : (g.wp t r b).j = g.j := rfl
@[simp] theorem Group.wp_g (b : Bool) : (g.wp t r b).g = g.g := rfl
@[simp] theorem Group.wp_x (b : Bool) : (g.wp t r b).x = g.x := rfl
@[simp] theorem Group.wp_pc (b : Bool) : (g.wp t r b).pc = g.pc := rfl
@[simp] theorem Group.wp_spb (b : Bool) : (g.wp t r b).spb = g.spb := rfl
@[simp] theorem Group.wp_rsd (b : Bool) : (g.wp t r b).rsd = g.rsd := rfl
@[simp] theorem Group.wp_rst (b : Bool) : (g.wp t r b).rst = g.rst := rfl
@[simp] theorem Group.wp_snap (b : Bool) : (g.wp t r b).snap = g.snap := rfl
@[simp] theorem Group.wp_savedPc (b : Bool) : (g.wp t r b).savedPc = g.savedPc := rfl
@[simp] theorem Group.wp_savedParked (b : Bool) : (g.wp t r b).savedParked = g.savedParked := rfl
@[simp] theorem Group.wp_take (b : Bool) : (g.wp t r b).take = g.take := rfl
@[simp] theorem Group.wp_ops (b : Bool) : (g.wp t r b).ops = g.ops := rfl
@[simp] theorem Group.wp_flight (b : Bool) : (g.wp t r b).flight = g.flight := rfl
@[simp] theorem Group.wp_sel (b : Bool) : (g.wp t r b).sel = g.sel := rfl
@[simp] theorem Group.wp_savedSel (b : Bool) : (g.wp t r b).savedSel = g.savedSel := rfl
@[simp] theorem Group.wp_walkFrom (b : Bool) : (g.wp t r b).walkFrom = g.walkFrom := rfl
@[simp] theorem Group.wp_savedFrom (b : Bool) : (g.wp t r b).savedFrom = g.savedFrom := rfl
@[simp] theorem Group.wp_walk (b : Bool) : (g.wp t r b).walk = g.walk := rfl
@[simp] theorem Group.wp_savedWalk (b : Bool) : (g.wp t r b).savedWalk = g.savedWalk := rfl
@[simp] theorem Group.wp_pend (b : Bool) : (g.wp t r b).pend = g.pend := rfl
@[simp] theorem Group.wp_sleep (b : Bool) : (g.wp t r b).sleep = g.sleep := rfl
@[simp] theorem Group.wp_wake (b : Bool) : (g.wp t r b).wake = g.wake := rfl
@[simp] theorem Group.wp_hostReq (b : Bool) : (g.wp t r b).hostReq = g.hostReq := rfl
@[simp] theorem Group.wp_nack (b : Bool) : (g.wp t r b).nack = g.nack := rfl
@[simp] theorem Group.wp_ticket (b : Bool) : (g.wp t r b).ticket = g.ticket := rfl
@[simp] theorem Group.wp_landing (b : Bool) : (g.wp t r b).landing = g.landing := rfl
@[simp] theorem Group.wp_core (b : Bool) : (g.wp t r b).core = g.core := rfl
@[simp] theorem Group.wp_lane (b : Bool) : (g.wp t r b).lane = g.lane := rfl
@[simp] theorem Group.wp_gslot (b : Bool) : (g.wp t r b).gslot = g.gslot := rfl
@[simp] theorem Group.wp_target (b : Bool) : (g.wp t r b).target = g.target := rfl
@[simp] theorem Group.wp_halter (b : Bool) : (g.wp t r b).halter = g.halter := rfl
@[simp] theorem Group.wp_haltWait (b : Bool) : (g.wp t r b).haltWait = g.haltWait := rfl
@[simp] theorem Group.wp_faultId (b : Bool) : (g.wp t r b).faultId = g.faultId := rfl
@[simp] theorem Group.wp_halted (b : Bool) : (g.wp t r b).halted = g.halted := rfl
@[simp] theorem Group.wp_closing (b : Bool) : (g.wp t r b).closing = g.closing := rfl

@[simp] theorem Group.orFx_grid (f : Fx) : (g.orFx f).grid = g.grid := rfl
@[simp] theorem Group.orFx_wg (f : Fx) : (g.orFx f).wg = g.wg := rfl
@[simp] theorem Group.orFx_gix (f : Fx) : (g.orFx f).gix = g.gix := rfl
@[simp] theorem Group.orFx_st (f : Fx) : (g.orFx f).st = g.st := rfl
@[simp] theorem Group.orFx_gen (f : Fx) : (g.orFx f).gen = g.gen := rfl
@[simp] theorem Group.orFx_priv (f : Fx) : (g.orFx f).priv = g.priv := rfl
@[simp] theorem Group.orFx_jf (f : Fx) : (g.orFx f).jf = g.jf := rfl
@[simp] theorem Group.orFx_clr (f : Fx) : (g.orFx f).clr = g.clr := rfl
@[simp] theorem Group.orFx_rix (f : Fx) : (g.orFx f).rix = g.rix := rfl
@[simp] theorem Group.orFx_lc (f : Fx) : (g.orFx f).lc = g.lc := rfl
@[simp] theorem Group.orFx_fxLater (f : Fx) : (g.orFx f).fxLater = g.fxLater := rfl
@[simp] theorem Group.orFx_exited (f : Fx) : (g.orFx f).exited = g.exited := rfl
@[simp] theorem Group.orFx_parked (f : Fx) : (g.orFx f).parked = g.parked := rfl
@[simp] theorem Group.orFx_nlaunch (f : Fx) : (g.orFx f).nlaunch = g.nlaunch := rfl
@[simp] theorem Group.orFx_launched (f : Fx) : (g.orFx f).launched = g.launched := rfl
@[simp] theorem Group.orFx_trapRec (f : Fx) : (g.orFx f).trapRec = g.trapRec := rfl
@[simp] theorem Group.orFx_armed (f : Fx) : (g.orFx f).armed = g.armed := rfl
@[simp] theorem Group.orFx_monRound (f : Fx) : (g.orFx f).monRound = g.monRound := rfl
@[simp] theorem Group.orFx_windows (f : Fx) : (g.orFx f).windows = g.windows := rfl
@[simp] theorem Group.orFx_j (f : Fx) : (g.orFx f).j = g.j := rfl
@[simp] theorem Group.orFx_p (f : Fx) : (g.orFx f).p = g.p := rfl
@[simp] theorem Group.orFx_g (f : Fx) : (g.orFx f).g = g.g := rfl
@[simp] theorem Group.orFx_x (f : Fx) : (g.orFx f).x = g.x := rfl
@[simp] theorem Group.orFx_pc (f : Fx) : (g.orFx f).pc = g.pc := rfl
@[simp] theorem Group.orFx_spb (f : Fx) : (g.orFx f).spb = g.spb := rfl
@[simp] theorem Group.orFx_rsd (f : Fx) : (g.orFx f).rsd = g.rsd := rfl
@[simp] theorem Group.orFx_rst (f : Fx) : (g.orFx f).rst = g.rst := rfl
@[simp] theorem Group.orFx_snap (f : Fx) : (g.orFx f).snap = g.snap := rfl
@[simp] theorem Group.orFx_savedPc (f : Fx) : (g.orFx f).savedPc = g.savedPc := rfl
@[simp] theorem Group.orFx_savedParked (f : Fx) : (g.orFx f).savedParked = g.savedParked := rfl
@[simp] theorem Group.orFx_take (f : Fx) : (g.orFx f).take = g.take := rfl
@[simp] theorem Group.orFx_ops (f : Fx) : (g.orFx f).ops = g.ops := rfl
@[simp] theorem Group.orFx_flight (f : Fx) : (g.orFx f).flight = g.flight := rfl
@[simp] theorem Group.orFx_sel (f : Fx) : (g.orFx f).sel = g.sel := rfl
@[simp] theorem Group.orFx_savedSel (f : Fx) : (g.orFx f).savedSel = g.savedSel := rfl
@[simp] theorem Group.orFx_walkFrom (f : Fx) : (g.orFx f).walkFrom = g.walkFrom := rfl
@[simp] theorem Group.orFx_savedFrom (f : Fx) : (g.orFx f).savedFrom = g.savedFrom := rfl
@[simp] theorem Group.orFx_walk (f : Fx) : (g.orFx f).walk = g.walk := rfl
@[simp] theorem Group.orFx_savedWalk (f : Fx) : (g.orFx f).savedWalk = g.savedWalk := rfl
@[simp] theorem Group.orFx_pend (f : Fx) : (g.orFx f).pend = g.pend := rfl
@[simp] theorem Group.orFx_sleep (f : Fx) : (g.orFx f).sleep = g.sleep := rfl
@[simp] theorem Group.orFx_wake (f : Fx) : (g.orFx f).wake = g.wake := rfl
@[simp] theorem Group.orFx_hostReq (f : Fx) : (g.orFx f).hostReq = g.hostReq := rfl
@[simp] theorem Group.orFx_nack (f : Fx) : (g.orFx f).nack = g.nack := rfl
@[simp] theorem Group.orFx_ticket (f : Fx) : (g.orFx f).ticket = g.ticket := rfl
@[simp] theorem Group.orFx_landing (f : Fx) : (g.orFx f).landing = g.landing := rfl
@[simp] theorem Group.orFx_core (f : Fx) : (g.orFx f).core = g.core := rfl
@[simp] theorem Group.orFx_lane (f : Fx) : (g.orFx f).lane = g.lane := rfl
@[simp] theorem Group.orFx_gslot (f : Fx) : (g.orFx f).gslot = g.gslot := rfl
@[simp] theorem Group.orFx_target (f : Fx) : (g.orFx f).target = g.target := rfl
@[simp] theorem Group.orFx_halter (f : Fx) : (g.orFx f).halter = g.halter := rfl
@[simp] theorem Group.orFx_haltWait (f : Fx) : (g.orFx f).haltWait = g.haltWait := rfl
@[simp] theorem Group.orFx_faultId (f : Fx) : (g.orFx f).faultId = g.faultId := rfl
@[simp] theorem Group.orFx_halted (f : Fx) : (g.orFx f).halted = g.halted := rfl
@[simp] theorem Group.orFx_closing (f : Fx) : (g.orFx f).closing = g.closing := rfl

@[simp] theorem Group.wg'_grid (v : Word) : (g.wg' r v).grid = g.grid := by unfold Group.wg'; split <;> rfl
@[simp] theorem Group.wg'_wg (v : Word) : (g.wg' r v).wg = g.wg := by unfold Group.wg'; split <;> rfl
@[simp] theorem Group.wg'_gix (v : Word) : (g.wg' r v).gix = g.gix := by unfold Group.wg'; split <;> rfl
@[simp] theorem Group.wg'_st (v : Word) : (g.wg' r v).st = g.st := by unfold Group.wg'; split <;> rfl
@[simp] theorem Group.wg'_gen (v : Word) : (g.wg' r v).gen = g.gen := by unfold Group.wg'; split <;> rfl
@[simp] theorem Group.wg'_priv (v : Word) : (g.wg' r v).priv = g.priv := by unfold Group.wg'; split <;> rfl
@[simp] theorem Group.wg'_jf (v : Word) : (g.wg' r v).jf = g.jf := by unfold Group.wg'; split <;> rfl
@[simp] theorem Group.wg'_clr (v : Word) : (g.wg' r v).clr = g.clr := by unfold Group.wg'; split <;> rfl
@[simp] theorem Group.wg'_rix (v : Word) : (g.wg' r v).rix = g.rix := by unfold Group.wg'; split <;> rfl
@[simp] theorem Group.wg'_lc (v : Word) : (g.wg' r v).lc = g.lc := by unfold Group.wg'; split <;> rfl
@[simp] theorem Group.wg'_fx (v : Word) : (g.wg' r v).fx = g.fx := by unfold Group.wg'; split <;> rfl
@[simp] theorem Group.wg'_fxLater (v : Word) : (g.wg' r v).fxLater = g.fxLater := by unfold Group.wg'; split <;> rfl
@[simp] theorem Group.wg'_exited (v : Word) : (g.wg' r v).exited = g.exited := by unfold Group.wg'; split <;> rfl
@[simp] theorem Group.wg'_parked (v : Word) : (g.wg' r v).parked = g.parked := by unfold Group.wg'; split <;> rfl
@[simp] theorem Group.wg'_nlaunch (v : Word) : (g.wg' r v).nlaunch = g.nlaunch := by unfold Group.wg'; split <;> rfl
@[simp] theorem Group.wg'_launched (v : Word) : (g.wg' r v).launched = g.launched := by unfold Group.wg'; split <;> rfl
@[simp] theorem Group.wg'_trapRec (v : Word) : (g.wg' r v).trapRec = g.trapRec := by unfold Group.wg'; split <;> rfl
@[simp] theorem Group.wg'_armed (v : Word) : (g.wg' r v).armed = g.armed := by unfold Group.wg'; split <;> rfl
@[simp] theorem Group.wg'_monRound (v : Word) : (g.wg' r v).monRound = g.monRound := by unfold Group.wg'; split <;> rfl
@[simp] theorem Group.wg'_windows (v : Word) : (g.wg' r v).windows = g.windows := by unfold Group.wg'; split <;> rfl
@[simp] theorem Group.wg'_j (v : Word) : (g.wg' r v).j = g.j := by unfold Group.wg'; split <;> rfl
@[simp] theorem Group.wg'_p (v : Word) : (g.wg' r v).p = g.p := by unfold Group.wg'; split <;> rfl
@[simp] theorem Group.wg'_x (v : Word) : (g.wg' r v).x = g.x := by unfold Group.wg'; split <;> rfl
@[simp] theorem Group.wg'_pc (v : Word) : (g.wg' r v).pc = g.pc := by unfold Group.wg'; split <;> rfl
@[simp] theorem Group.wg'_spb (v : Word) : (g.wg' r v).spb = g.spb := by unfold Group.wg'; split <;> rfl
@[simp] theorem Group.wg'_rsd (v : Word) : (g.wg' r v).rsd = g.rsd := by unfold Group.wg'; split <;> rfl
@[simp] theorem Group.wg'_rst (v : Word) : (g.wg' r v).rst = g.rst := by unfold Group.wg'; split <;> rfl
@[simp] theorem Group.wg'_snap (v : Word) : (g.wg' r v).snap = g.snap := by unfold Group.wg'; split <;> rfl
@[simp] theorem Group.wg'_savedPc (v : Word) : (g.wg' r v).savedPc = g.savedPc := by unfold Group.wg'; split <;> rfl
@[simp] theorem Group.wg'_savedParked (v : Word) : (g.wg' r v).savedParked = g.savedParked := by unfold Group.wg'; split <;> rfl
@[simp] theorem Group.wg'_take (v : Word) : (g.wg' r v).take = g.take := by unfold Group.wg'; split <;> rfl
@[simp] theorem Group.wg'_ops (v : Word) : (g.wg' r v).ops = g.ops := by unfold Group.wg'; split <;> rfl
@[simp] theorem Group.wg'_flight (v : Word) : (g.wg' r v).flight = g.flight := by unfold Group.wg'; split <;> rfl
@[simp] theorem Group.wg'_sel (v : Word) : (g.wg' r v).sel = g.sel := by unfold Group.wg'; split <;> rfl
@[simp] theorem Group.wg'_savedSel (v : Word) : (g.wg' r v).savedSel = g.savedSel := by unfold Group.wg'; split <;> rfl
@[simp] theorem Group.wg'_walkFrom (v : Word) : (g.wg' r v).walkFrom = g.walkFrom := by unfold Group.wg'; split <;> rfl
@[simp] theorem Group.wg'_savedFrom (v : Word) : (g.wg' r v).savedFrom = g.savedFrom := by unfold Group.wg'; split <;> rfl
@[simp] theorem Group.wg'_walk (v : Word) : (g.wg' r v).walk = g.walk := by unfold Group.wg'; split <;> rfl
@[simp] theorem Group.wg'_savedWalk (v : Word) : (g.wg' r v).savedWalk = g.savedWalk := by unfold Group.wg'; split <;> rfl
@[simp] theorem Group.wg'_pend (v : Word) : (g.wg' r v).pend = g.pend := by unfold Group.wg'; split <;> rfl
@[simp] theorem Group.wg'_sleep (v : Word) : (g.wg' r v).sleep = g.sleep := by unfold Group.wg'; split <;> rfl
@[simp] theorem Group.wg'_wake (v : Word) : (g.wg' r v).wake = g.wake := by unfold Group.wg'; split <;> rfl
@[simp] theorem Group.wg'_hostReq (v : Word) : (g.wg' r v).hostReq = g.hostReq := by unfold Group.wg'; split <;> rfl
@[simp] theorem Group.wg'_nack (v : Word) : (g.wg' r v).nack = g.nack := by unfold Group.wg'; split <;> rfl
@[simp] theorem Group.wg'_ticket (v : Word) : (g.wg' r v).ticket = g.ticket := by unfold Group.wg'; split <;> rfl
@[simp] theorem Group.wg'_landing (v : Word) : (g.wg' r v).landing = g.landing := by unfold Group.wg'; split <;> rfl
@[simp] theorem Group.wg'_core (v : Word) : (g.wg' r v).core = g.core := by unfold Group.wg'; split <;> rfl
@[simp] theorem Group.wg'_lane (v : Word) : (g.wg' r v).lane = g.lane := by unfold Group.wg'; split <;> rfl
@[simp] theorem Group.wg'_gslot (v : Word) : (g.wg' r v).gslot = g.gslot := by unfold Group.wg'; split <;> rfl
@[simp] theorem Group.wg'_target (v : Word) : (g.wg' r v).target = g.target := by unfold Group.wg'; split <;> rfl
@[simp] theorem Group.wg'_halter (v : Word) : (g.wg' r v).halter = g.halter := by unfold Group.wg'; split <;> rfl
@[simp] theorem Group.wg'_haltWait (v : Word) : (g.wg' r v).haltWait = g.haltWait := by unfold Group.wg'; split <;> rfl
@[simp] theorem Group.wg'_faultId (v : Word) : (g.wg' r v).faultId = g.faultId := by unfold Group.wg'; split <;> rfl
@[simp] theorem Group.wg'_halted (v : Word) : (g.wg' r v).halted = g.halted := by unfold Group.wg'; split <;> rfl
@[simp] theorem Group.wg'_closing (v : Word) : (g.wg' r v).closing = g.closing := by unfold Group.wg'; split <;> rfl

/-! ### Records after updates -/

@[simp] theorem State.setGrp_groups (x : Group) : (s.setGrp i x).groups = s.groups.set i x := rfl
@[simp] theorem State.modWg_wgs (f : Workgroup → Workgroup) : (s.modWg i f).wgs = s.wgs.set i (f (s.wgp i)) := rfl
@[simp] theorem State.modGrid_grids (f : Grid → Grid) : (s.modGrid i f).grids = s.grids.set i (f (s.grd i)) := rfl
@[simp] theorem State.setReg_regs (v : Word) : (s.setReg i v).regs = s.regs.set (i / 4) v := rfl
@[simp] theorem State.free_fv : (s.free.2).fv = s.fv + 1 := rfl

theorem getD_set {α : Type} (l : List α) (i k : Nat) (x d : α) :
    (l.set i x).getD k d = if i = k ∧ i < l.length then x else l.getD k d := by
  simp only [List.getD_eq_getElem?_getD, List.getElem?_set]
  by_cases h : i = k
  · subst h
    by_cases h2 : i < l.length <;> simp [h2]
  · simp [h]

theorem State.grp_setGrp (x : Group) : (s.setGrp i x).grp k = if i = k ∧ i < s.groups.length then x else s.grp k :=
  getD_set s.groups i k x Group.blank

@[simp] theorem State.grp_setGrp_self (x : Group) (h : i < s.groups.length) : (s.setGrp i x).grp i = x := by
  rw [State.grp_setGrp, if_pos ⟨rfl, h⟩]

theorem State.grp_setGrp_ne (x : Group) (h : k ≠ i) : (s.setGrp i x).grp k = s.grp k := by
  rw [State.grp_setGrp, if_neg (fun e => h e.1.symm)]

@[simp] theorem State.grp_modGrp_self (f : Group → Group) (h : i < s.groups.length) :
    (s.modGrp i f).grp i = f (s.grp i) := State.grp_setGrp_self s i _ h

theorem State.grp_modGrp_ne (f : Group → Group) (h : k ≠ i) : (s.modGrp i f).grp k = s.grp k :=
  State.grp_setGrp_ne s i k _ h

@[simp] theorem State.me_modMe (f : Group → Group) (h : s.cur < s.groups.length) : (s.modMe f).me = f s.me :=
  State.grp_modGrp_self s s.cur f h

theorem State.grd_modGrid (f : Grid → Grid) :
    (s.modGrid i f).grd k = if i = k ∧ i < s.grids.length then f (s.grd i) else s.grd k :=
  getD_set s.grids i k _ Grid.blank

theorem State.wgp_modWg (f : Workgroup → Workgroup) :
    (s.modWg i f).wgp k = if i = k ∧ i < s.wgs.length then f (s.wgp i) else s.wgp k :=
  getD_set s.wgs i k _ Workgroup.blank

@[simp] theorem State.grd_modGrp (f : Group → Group) : (s.modGrp i f).grd k = s.grd k := rfl
@[simp] theorem State.wgp_modGrp (f : Group → Group) : (s.modGrp i f).wgp k = s.wgp k := rfl
@[simp] theorem State.grp_modGrid (f : Grid → Grid) : (s.modGrid i f).grp k = s.grp k := rfl
@[simp] theorem State.grp_modWg (f : Workgroup → Workgroup) : (s.modWg i f).grp k = s.grp k := rfl
@[simp] theorem State.grp_setReg (v : Word) : (s.setReg i v).grp k = s.grp k := rfl
@[simp] theorem State.grd_setReg (v : Word) : (s.setReg i v).grd k = s.grd k := rfl

@[simp] theorem State.groups_length_setGrp (x : Group) : (s.setGrp i x).groups.length = s.groups.length :=
  List.length_set
@[simp] theorem State.groups_length_modGrp (f : Group → Group) : (s.modGrp i f).groups.length = s.groups.length :=
  List.length_set
@[simp] theorem State.grids_length_modGrid (f : Grid → Grid) : (s.modGrid i f).grids.length = s.grids.length :=
  List.length_set
@[simp] theorem State.wgs_length_modWg (f : Workgroup → Workgroup) : (s.modWg i f).wgs.length = s.wgs.length :=
  List.length_set

end Sys2Proof.Machine
end

