-- ==== Sys2Proof/Laws/Registers.lean ====
section
/-! SUPPORT. What each register of a group reads after each write of one. -/
namespace Sys2Proof.Machine

variable (g : Group)

/-- Thread registers: two cells are the same only for the same thread and number. -/
theorem Group.rx_wx (t r k q : Nat) (v : Word) (hr : r < 128) (hq : q < 128) :
    (g.wx t r v).rx k q = if k = t ∧ q = r then v else g.rx k q := by
  show (g.x.set (128 * t + r) v).get (128 * k + q) = _
  rw [Sparse.get_set]
  by_cases h : k = t ∧ q = r
  · obtain ⟨rfl, rfl⟩ := h; simp
  · rw [if_neg h, if_neg (by omega)]; rfl

/-- Uniform registers: g0 discards what is written. -/
theorem Group.rg_wg' (r q : Nat) (v : Word) : (g.wg' r v).rg q = if q = r ∧ r ≠ 0 then v else g.rg q := by
  unfold Group.wg' Group.rg
  by_cases h : r = 0
  · simp [h]
  · by_cases hq : q = 0
    · subst hq; simp [h]; intro h'; exact absurd h'.symm h
    · simp [h, hq]

theorem Group.rj_wj (r q : Nat) (v : Word) : (g.wj r v).rj q = if q = r then v else g.rj q := by
  simp [Group.wj, Group.rj]

theorem Group.pcOf_wpc (t k pc : Nat) (h : pc < 2 ^ 64) :
    (g.wpc t pc).pcOf k = if k = t then pc else g.pcOf k := by
  simp only [Group.wpc, Group.pcOf, Sparse.get_set]
  split
  · exact (BitVec.toNat_ofNat ..).trans (Nat.mod_eq_of_lt h)
  · rfl

/-- One bit of a mask after it is set or cleared. -/
theorem inMask_set (m : Word) (t k : Nat) (h : k < 32) (b : Bool) :
    inMask (if b then m ||| (1#32 <<< t) else m &&& ~~~(1#32 <<< t)) k = if k = t then b else inMask m k := by
  unfold inMask
  cases b
  · by_cases e : k = t
    · subst e; simp [h]
    · have h1 : ¬(k - t = 0 ∧ t ≤ k) := by omega
      by_cases e2 : k < t
      · simp [e, e2, h]
      · have : k - t ≠ 0 := by omega
        simp [e, e2, h, this]
  · by_cases e : k = t
    · subst e; simp [h]
    · by_cases e2 : k < t
      · simp [e, e2, h]
      · have : k - t ≠ 0 := by omega
        simp [e, e2, h, this]

/-- Predicates p0 to p6. -/
theorem Group.rp_wp (t p k q : Nat) (v : Bool) (hk : k < 32) (hp : p < 7) :
    (g.wp t p v).rp k q = if k = t ∧ q = p then v else g.rp k q := by
  unfold Group.wp Group.rp
  by_cases h7 : q = 7
  · subst h7; simp; omega
  · simp only [h7, if_false, Sparse.get_set]
    by_cases hq : q = p
    · subst hq
      simp only [if_true, and_true]
      exact inMask_set _ _ _ hk _
    · simp [hq]

end Sys2Proof.Machine
end

