-- ==== Sys2Proof/Laws/Issue.lean ====
section
/-! SUPPORT. The issue of one instruction: what its beginning does, and what its completion does when it stays in its
round. -/
namespace Sys2Proof.Machine

/-! ### Small facts -/

theorem list_set_getD {α : Type} (l : List α) (i : Nat) (d : α) : l.set i (l.getD i d) = l := by
  apply List.ext_getElem?
  intro k
  rw [List.getElem?_set]
  split
  · rename_i h
    subst h
    split
    · rename_i h2
      simp [List.getD_eq_getElem?_getD, List.getElem?_eq_getElem h2]
    · rename_i h2
      rw [List.getElem?_eq_none (by omega)]
  · rfl

/-- Putting a record back where it is changes nothing. -/
theorem State.setGrp_self (s : State) (i : Nat) : s.setGrp i (s.grp i) = s := by
  unfold State.setGrp State.grp
  rw [list_set_getD]

theorem State.modGrp_id (s : State) (i : Nat) (f : Group → Group) (h : f (s.grp i) = s.grp i) : s.modGrp i f = s := by
  unfold State.modGrp
  rw [h, State.setGrp_self]

theorem State.modGrid_id (s : State) (i : Nat) (f : Grid → Grid) (h : f (s.grd i) = s.grd i) : s.modGrid i f = s := by
  unfold State.modGrid
  rw [h]
  unfold State.grd
  rw [list_set_getD]

theorem State.setGrp_setGrp (s : State) (i : Nat) (a b : Group) : (s.setGrp i a).setGrp i b = s.setGrp i b := by
  unfold State.setGrp
  simp

/-- Nothing in flight, nothing to drain. -/
theorem State.drain_nil (s : State) (i : Nat) (p : Flight → Bool) (h : (s.grp i).flight = []) : s.drain i p = s := by
  unfold State.drain
  simp only [h, List.filter_nil]
  apply State.modGrp_id
  have : ({ s.grp i with flight := [] } : Group) = { s.grp i with flight := (s.grp i).flight } := by rw [h]
  exact this

/-! ### The beginning -/

theorem State.beginIssue_ready (s : State) (h : s.me.flight = []) : s.beginIssue = s := State.drain_nil _ _ _ h

/-! ### The next path -/

theorem minOf_mem : ∀ (l : List Nat), l ≠ [] → minOf l ∈ l
  | [a], _ => by simp [minOf]
  | a :: b :: r, _ => by
    have ih := minOf_mem (b :: r) (by simp)
    simp only [minOf]
    by_cases h : a ≤ minOf (b :: r)
    · rw [Nat.min_eq_left h]; exact List.mem_cons_self
    · rw [Nat.min_eq_right (by omega)]; exact List.mem_cons_of_mem _ ih

theorem minOf_le : ∀ (l : List Nat), ∀ k ∈ l, minOf l ≤ k
  | [a], k, h => by simp [minOf] at *; omega
  | a :: b :: r, k, h => by
    have ih := minOf_le (b :: r)
    simp only [minOf]
    rcases List.mem_cons.1 h with rfl | h'
    · exact Nat.min_le_left _ _
    · exact Nat.le_trans (Nat.min_le_right _ _) (ih k h')

/-- PCs of a list of threads set to one value. -/
theorem pcOf_foldl_wpc (l : List Nat) (g : Group) (p k : Nat) (hp : p < 2 ^ 64) :
    (l.foldl (fun g t => g.wpc t p) g).pcOf k = if k ∈ l then p else g.pcOf k := by
  induction l generalizing g with
  | nil => simp
  | cons t l ih =>
    simp only [List.foldl_cons, ih, List.mem_cons, Group.pcOf_wpc _ _ _ _ hp]
    by_cases h1 : k ∈ l <;> by_cases h2 : k = t <;> simp [h1, h2]

/-- Setting PCs changes the PCs only. -/
theorem foldl_wpc_eq (l : List Nat) (g : Group) (p : Nat) :
    l.foldl (fun g t => g.wpc t p) g = { g with pc := (l.foldl (fun g t => g.wpc t p) g).pc } := by
  induction l generalizing g with
  | nil => rfl
  | cons t l ih => rw [List.foldl_cons, ih]; rfl

/-! ### Completion -/

/-- What the body of an ordinary instruction leaves alone: what the completion looks at. -/
structure Quiet (s s2 : State) : Prop where
  /-- The issue. -/
  cur : s2.cur = s.cur
  /-- Its address. -/
  pc : s2.wordPc = s.wordPc
  /-- Its group is there. -/
  len : s2.groups.length = s.groups.length
  /-- The mode. -/
  mode : (s2.gridOf s.cur).ordered = (s.gridOf s.cur).ordered
  /-- Clock. -/
  lc : s2.me.lc = s.me.lc
  /-- PCs. -/
  pcs : s2.me.pc = s.me.pc
  /-- Selected path. -/
  sel : s2.me.sel = s.me.sel
  /-- Windows. -/
  windows : s2.me.windows = s.me.windows
  /-- Threads that have exited. -/
  exited : s2.me.exited = s.me.exited
  /-- Threads that are parked. -/
  parked : s2.me.parked = s.me.parked
  /-- No walk is interrupted. -/
  walkFrom : s2.me.walkFrom = none
  /-- Nothing is decided. -/
  walk : s2.me.walk = .none
  /-- It is not asleep. -/
  st : s2.me.st ≠ .sleeping

/-- An ordinary instruction: it does not set PCs, does not close the round, and no trap follows it. -/
structure Plain (f : Form) : Prop where
  /-- It goes on to the next word. -/
  control : f.control = false
  /-- It is no round-closing event. -/
  closes : f.closes = false
  /-- Nothing follows. -/
  after : f.after = none

theorem clockAfter_inRound (s : State) (w : Nat) (h : InRound s w) (lc : Nat) (e : lc = s.me.lc) :
    ((s.gridOf s.cur).ordered && lc / 64 < clockAfter (s.gridOf s.cur).ordered false lc w / 64) = false := by
  subst e
  cases ho : (s.gridOf s.cur).ordered
  · rfl
  · have := h ho
    simp [clockAfter]
    omega

/-- The group as the completion of an ordinary instruction leaves it. -/
def Group.gone (g : Group) (f : Form) (path : List Nat) (p : Nat) : Group :=
  let pcs := (path.foldl (fun g t => g.wpc t (p + 4)) g).pc
  { g with lc := g.lc + f.weight, pc := pcs, windows := f.windows g.windows,
           sel := ({ g with pc := pcs } : Group).nextSel path p }

theorem Group.eligible_congr (a b : Group) (h1 : a.exited = b.exited) (h2 : a.parked = b.parked) :
    a.eligible = b.eligible := by
  unfold Group.eligible; rw [h1, h2]

theorem Group.alive_ne (g : Group) (h : g.eligible ≠ []) : g.alive ≠ [] := by
  intro e
  apply h
  unfold Group.eligible
  unfold Group.alive at e
  rw [List.filter_eq_nil_iff] at *
  intro a ha hb
  exact e a ha (by simp at hb ⊢; exact hb.1)

theorem Group.path_ne (g : Group) (h : g.path ≠ []) : g.eligible ≠ [] := by
  intro e
  apply h
  unfold Group.path
  rw [e]; rfl

theorem State.complete_ready (s s2 : State) (f : Form) (hf : Plain f) (hs : s.cur < s.groups.length)
    (hp : s.me.path ≠ []) (hw : InRound s f.weight) (q : Quiet s s2) :
    s2.complete f s.me.path = s2.setGrp s.cur (s2.me.gone f s.me.path s.wordPc) := by
  have hlen : s2.cur < s2.groups.length := by rw [q.cur, q.len]; exact hs
  have hme : s2.grp s2.cur = s2.me := rfl
  have hwalk := q.walk
  have hlc := clockAfter_inRound s f.weight hw s2.me.lc q.lc
  have hel : s.me.eligible ≠ [] := s.me.path_ne hp
  unfold State.complete
  simp only [hme, hwalk, WalkMem.none, hf.control, hf.closes, hf.after, Bool.or_false, Bool.false_eq_true, if_false,
    q.pc]
  rw [q.cur, q.mode, hlc]
  simp only [Bool.false_eq_true, if_false]
  have hm : (List.range 32).filter (fun t => inMask (0#32 ||| 0#32) t) = [] := by decide
  have hm' : (List.filter (fun t => inMask ((0 : Word) ||| 0) t) (List.range 32)) = [] := hm
  rw [hm', List.append_nil]
  have hcl : clockAfter (s.gridOf s.cur).ordered false s2.me.lc f.weight = s2.me.lc + f.weight := by
    simp [clockAfter]
  rw [hcl]
  have h2 : s.cur < s2.groups.length := by rw [q.len]; exact hs
  rw [foldl_wpc_eq]
  generalize hpcs : (s.me.path.foldl (fun g t => g.wpc t (s.wordPc + 4)) s2.me).pc = pcs
  -- the two updates of the group are one
  have e1 : (s2.setGrp s.cur ({ s2.me with pc := pcs, windows := f.windows s2.me.windows, walkFrom := none, walk := ⟨0, 0, false, false⟩ } : Group)).modGrp s.cur
        (fun g => { g with lc := s2.me.lc + f.weight }) =
      s2.setGrp s.cur ({ s2.me with pc := pcs, windows := f.windows s2.me.windows, walkFrom := none, walk := ⟨0, 0, false, false⟩, lc := s2.me.lc + f.weight } : Group) := by
    unfold State.modGrp
    rw [State.grp_setGrp_self _ _ _ h2, State.setGrp_setGrp]
  have e0 : s2.me = ({ s2.me with walkFrom := none, walk := ⟨0, 0, false, false⟩ } : Group) := by
    have h0 : s2.me = ({ s2.me with walkFrom := s2.me.walkFrom, walk := s2.me.walk } : Group) := rfl
    rw [q.walkFrom, q.walk] at h0
    exact h0
  rw [e1]
  generalize hg1 : ({ s2.me with pc := pcs, windows := f.windows s2.me.windows, walkFrom := none, walk := ⟨0, 0, false, false⟩, lc := s2.me.lc + f.weight } : Group) = g1
  have hel1 : g1.eligible ≠ [] := by
    rw [Group.eligible_congr g1 s.me (by rw [← hg1]; exact q.exited) (by rw [← hg1]; exact q.parked)]
    exact hel
  have hst : g1.st ≠ .sleeping := by rw [← hg1]; exact q.st
  have e2 : (s2.setGrp s.cur g1).selectPath s.cur s.me.path s.wordPc =
      s2.setGrp s.cur { g1 with sel := g1.nextSel s.me.path s.wordPc } := by
    unfold State.selectPath
    rw [State.grp_setGrp_self _ _ _ h2, if_neg hel1]
    unfold State.modGrp
    rw [State.grp_setGrp_self _ _ _ h2, State.setGrp_setGrp]
  rw [e2]
  generalize hg2 : ({ g1 with sel := g1.nextSel s.me.path s.wordPc } : Group) = g2
  have hst2 : g2.st ≠ .sleeping := by rw [← hg2]; exact hst
  have e3 : (s2.setGrp s.cur g2).stayAwake s.cur = s2.setGrp s.cur g2 := by
    unfold State.stayAwake
    apply State.modGrp_id
    rw [State.grp_setGrp_self _ _ _ h2]
    simp [hst2]
  rw [e3]
  have hal : g2.alive ≠ [] := by
    have : g2.eligible ≠ [] := by
      rw [Group.eligible_congr g2 g1 (by rw [← hg2]) (by rw [← hg2])]; exact hel1
    exact Group.alive_ne _ this
  have e4 : (s2.setGrp s.cur g2).retireDone s.cur = s2.setGrp s.cur g2 := by
    unfold State.retireDone
    simp only [State.grp_setGrp_self _ _ _ h2]
    rw [if_pos (by simp [hal])]
  rw [e4]
  congr 1
  rw [← hg2, ← hg1]
  unfold Group.gone
  rw [hpcs, e0]
  rfl

/-- The next path after the PCs of a path have moved on by one word is the one with the lowest PC. -/
theorem Group.nextSel_lowest (g : Group) (path : List Nat) (p : Nat) (hp : ∀ t ∈ path, t ∈ g.eligible → p < g.pcOf t)
    (hk : ∀ t ∈ path, inMask g.parked t = false) : g.nextSel path p = minOf (g.eligible.map g.pcOf) := by
  unfold Group.nextSel
  have : path.any (fun t => (g.eligible.contains t && g.pcOf t ≤ p) || inMask g.parked t) = false := by
    rw [List.any_eq_false]
    intro t ht
    simp only [hk t ht, Bool.or_false, Bool.and_eq_true, not_and, decide_eq_true_eq, List.contains_iff_mem]
    intro h1
    have := hp t ht h1
    omega
  simp only [this, Bool.false_and, Bool.false_eq_true, if_false]

theorem Group.path_sub (g : Group) : ∀ t ∈ g.path, t ∈ g.eligible := by
  intro t h
  unfold Group.path at h
  exact (List.mem_filter.1 h).1

theorem Group.eligible_parked (g : Group) : ∀ t ∈ g.eligible, inMask g.parked t = false := by
  intro t h
  unfold Group.eligible at h
  have := (List.mem_filter.1 h).2
  simp at this
  exact this.2

/-- A completed ordinary instruction has gone on. -/
theorem State.goneOn_complete (s s2 : State) (f : Form) (hs : s.cur < s.groups.length)
    (hp : s.me.path ≠ []) (hpc : s.wordPc + 4 < 2 ^ 55) (q : Quiet s s2)
    (own : List Window) (ho : f.windows s.me.windows =
      ((s.me.windows.map (fun w => { w with left := w.left - 1 })).filter (fun w => 0 < w.left)) ++ own) :
    GoneOn s (s2.setGrp s.cur (s2.me.gone f s.me.path s.wordPc)) f.weight own := by
  have h2 : s.cur < s2.groups.length := by rw [q.len]; exact hs
  generalize ht : s2.setGrp s.cur (s2.me.gone f s.me.path s.wordPc) = t
  have hme : t.me = s2.me.gone f s.me.path s.wordPc := by
    rw [← ht]
    show (s2.setGrp s.cur _).grp (s2.setGrp s.cur _).cur = _
    rw [State.setGrp_cur, q.cur, State.grp_setGrp_self _ _ _ h2]
  have hpcs : ∀ k, t.me.pcOf k = if k ∈ s.me.path then s.wordPc + 4 else s.me.pcOf k := by
    intro k
    rw [hme]
    show (s.me.path.foldl (fun g t => g.wpc t (s.wordPc + 4)) s2.me).pcOf k = _
    rw [pcOf_foldl_wpc _ _ _ _ (by omega)]
    split
    · rfl
    · unfold Group.pcOf; rw [q.pcs]
  have hel : t.me.eligible = s.me.eligible :=
    Group.eligible_congr _ _ (by rw [hme]; exact q.exited) (by rw [hme]; exact q.parked)
  have hsel : t.me.sel = minOf (t.me.eligible.map t.me.pcOf) := by
    have := Group.nextSel_lowest t.me s.me.path s.wordPc
      (fun k hk _ => by rw [hpcs, if_pos hk]; omega)
      (fun k hk => Group.eligible_parked _ _ (by rw [hel]; exact s.me.path_sub k hk))
    rw [← this, hme]
    rfl
  have hne : t.me.eligible.map t.me.pcOf ≠ [] := by
    rw [hel]; simpa using s.me.path_ne hp
  refine ⟨?_, hpcs, ?_, ?_, ?_⟩
  · rw [hme]
    show s2.me.lc + f.weight = _
    rw [q.lc]
  · rw [hme]
    show f.windows s2.me.windows = _
    rw [q.windows, ho]
  · have := minOf_mem _ hne
    rw [← hsel] at this
    obtain ⟨k, hk, e⟩ := List.mem_map.1 this
    exact ⟨k, hk, e.symm⟩
  · intro k hk
    rw [hsel]
    exact minOf_le _ _ (List.mem_map.2 ⟨k, hk, rfl⟩)

end Sys2Proof.Machine
end

