-- ==== Sys2Proof/Laws/Alu.lean ====
section
/-! SUPPORT. The issue of an instruction that reads and writes registers only: when its checks pass, and what it leaves. -/
namespace Sys2Proof.Machine

/-! ### The checks before the walk -/

/-- What an instruction names may be named, and its prefix and codes are legal. -/
structure Legal (s : State) (f : Form) : Prop where
  /-- The prefix is accepted. -/
  pfx : f.pfx = true
  /-- No other reason. -/
  bad : f.bad = false
  /-- Thread registers. -/
  xr : ∀ r ∈ f.xr, ThreadRegs s r.1 r.2
  /-- Uniform registers. -/
  gr : ∀ r ∈ f.gr, UniformRegs s r.1 r.2
  /-- A lookahead has a destination other than g0. -/
  la : f.la = 0 ∨ ∃ u r n, f.dst = some (u, r, n) ∧ (u = false ∨ r ≠ 0)

theorem Legal.illegal {s : State} {f : Form} (h : Legal s f) : f.illegal (s.gridOf s.cur).nregs = false := by
  have hx : f.xr.any (badRange (s.gridOf s.cur).nregs) = false := by
    rw [List.any_eq_false]
    intro r hr
    have := h.xr r hr
    unfold badRange
    simp only [Bool.or_eq_true, decide_eq_true_eq, not_or]
    obtain ⟨h1, h2, _⟩ := this
    constructor
    · omega
    · simp [h1]
  have hg : f.gr.any (badRange 32) = false := by
    rw [List.any_eq_false]
    intro r hr
    obtain ⟨h1, h2, _⟩ := h.gr r hr
    unfold badRange
    simp only [Bool.or_eq_true, decide_eq_true_eq, not_or]
    constructor
    · omega
    · simp [h1]
  unfold Form.illegal
  rw [h.pfx, h.bad, hx, hg]
  rcases h.la with h | ⟨u, r, n, e, h⟩
  · simp [h]
  · rw [e]
    rcases h with h | h <;> simp [h]

theorem Legal.conflicts {s : State} {f : Form} (h : Legal s f) : f.conflicts s.me.windows = [] := by
  unfold Form.conflicts
  have h1 : (List.range 128).filter (fun k =>
      f.xr.any (inRange · k) && s.me.windows.any (fun w => !w.uni && inRange (w.reg, w.count) k)) = [] := by
    rw [List.filter_eq_nil_iff]
    intro k _ hk
    simp only [Bool.and_eq_true, List.any_eq_true, Bool.not_eq_true'] at hk
    obtain ⟨⟨r, hr, hrk⟩, w, hw, hu, hwk⟩ := hk
    have := (h.xr r hr).2.2.2 w hw hu
    unfold inRange at hrk hwk
    unfold Apart at this
    simp at hrk hwk
    omega
  have h2 : (List.range 32).filter (fun k =>
      f.gr.any (inRange · k) && s.me.windows.any (fun w => w.uni && inRange (w.reg, w.count) k)) = [] := by
    rw [List.filter_eq_nil_iff]
    intro k _ hk
    simp only [Bool.and_eq_true, List.any_eq_true] at hk
    obtain ⟨⟨r, hr, hrk⟩, w, hw, hu, hwk⟩ := hk
    have := (h.gr r hr).2.2 w hw hu
    unfold inRange at hrk hwk
    unfold Apart at this
    simp at hrk hwk
    omega
  rw [h1, h2]
  rfl

/-- With the checks passed, the body runs. -/
theorem State.runWith_ready (s : State) (f : Form) (body : State → Walk) (fin : State → State)
    (hr : Ready s) (hl : Legal s f) :
    s.runWith f body fin = match body s with
      | .done s2 => fin s2
      | .stop s2 y => s2.stopAt s.cur f.whole y := by
  obtain ⟨_, _, _, hh, _, _, _, hf, _⟩ := hr
  unfold State.runWith
  have e1 : s.grp s.cur = s.me := rfl
  rw [if_neg (by rw [hh]; simp), s.beginIssue_ready hf]
  simp only [e1]
  rw [if_neg (by rw [hl.illegal]; simp), hl.conflicts]
  all_goals rfl

/-- Those that walk are the path. -/
theorem State.walkers_ready (s : State) (hr : Ready s) : s.walkers = s.me.path := by
  obtain ⟨_, _, _, _, hc, hw, _⟩ := hr
  unfold State.walkers State.allWalkers
  simp [hw, hc]

theorem State.endWalk_ready (s : State) (h : s.cut = none) : s.endWalk = .done s := by
  unfold State.endWalk; rw [h]

/-! ### The group after -/

/-- A group that has kept what the completion looks at. -/
structure Calm (g g' : Group) : Prop where
  /-- Grid. -/
  grid : g'.grid = g.grid
  /-- Clock. -/
  lc : g'.lc = g.lc
  /-- PCs. -/
  pc : g'.pc = g.pc
  /-- Selected path. -/
  sel : g'.sel = g.sel
  /-- Windows. -/
  windows : g'.windows = g.windows
  /-- Exited threads. -/
  exited : g'.exited = g.exited
  /-- Parked threads. -/
  parked : g'.parked = g.parked
  /-- Walk. -/
  walkFrom : g'.walkFrom = g.walkFrom
  /-- Decisions. -/
  walk : g'.walk = g.walk
  /-- State. -/
  st : g'.st = g.st

theorem State.quiet_setGrp (s : State) (hr : Ready s) (g' : Group) (hc : Calm s.me g') :
    Quiet s (s.setGrp s.cur g') := by
  obtain ⟨h0, hst, _, _, _, hwf, hw, _, _⟩ := hr
  have hme : (s.setGrp s.cur g').me = g' := by
    show (s.setGrp s.cur g').grp (s.setGrp s.cur g').cur = _
    rw [State.setGrp_cur, State.grp_setGrp_self _ _ _ h0]
  refine ⟨by simp, ?_, by simp [State.setGrp], ?_, ?_, ?_, ?_, ?_, ?_, ?_, ?_, ?_, ?_⟩
  · rfl
  · unfold State.gridOf
    rw [State.grp_setGrp_self _ _ _ h0, hc.grid]
    rfl
  all_goals rw [hme]
  · exact hc.lc
  · exact hc.pc
  · exact hc.sel
  · exact hc.windows
  · exact hc.exited
  · exact hc.parked
  · rw [hc.walkFrom]; exact hwf
  · rw [hc.walk]; exact hw
  · rw [hc.st]; rcases hst with h | h <;> simp [h]

/-- An instruction whose body replaces its group by `g'` and does nothing else. -/
theorem State.issue_group (s : State) (f : Form) (body : State → Walk) (g' : Group)
    (hr : Ready s) (hw : InRound s f.weight) (hf : Plain f) (hl : Legal s f)
    (hb : body s = .done (s.setGrp s.cur g')) (hc : Calm s.me g') :
    s.issue f body = .next (s.setGrp s.cur (g'.gone f s.me.path s.wordPc)) := by
  unfold State.issue State.run
  have h0 := hr.1
  rw [s.runWith_ready f body _ hr hl, hb]
  simp only
  rw [s.complete_ready _ f hf h0 hr.2.2.1 hw (s.quiet_setGrp hr g' hc)]
  congr 1
  have hme : (s.setGrp s.cur g').me = g' := by
    show (s.setGrp s.cur g').grp (s.setGrp s.cur g').cur = _
    rw [State.setGrp_cur, State.grp_setGrp_self _ _ _ h0]
  rw [hme, State.setGrp_setGrp]

theorem State.outsideKept_setGrp (s : State) (g : Group) (_h : s.cur < s.groups.length) :
    OutsideKept s (s.setGrp s.cur g) := by
  refine ⟨rfl, by simp [State.setGrp], fun i hi => ?_⟩
  rw [State.grp_setGrp_ne _ _ _ _ hi]

/-- What such an instruction leaves, said in the terms of claims. -/
theorem State.issue_group_kept (s : State) (f : Form) (body : State → Walk) (g' : Group)
    (hr : Ready s) (hw : InRound s f.weight) (hf : Plain f) (hl : Legal s f)
    (hb : body s = .done (s.setGrp s.cur g')) (hc : Calm s.me g') (own : List Window)
    (ho : f.windows s.me.windows =
      ((s.me.windows.map (fun w => { w with left := w.left - 1 })).filter (fun w => 0 < w.left)) ++ own) :
    ∃ t, s.issue f body = .next t ∧ OutsideKept s t ∧ GoneOn s t f.weight own ∧
      t.me.undoProgress s.me = g' ∧ t.me.x = g'.x ∧ t.me.p = g'.p ∧ t.me.g = g'.g ∧ t.me.fx = g'.fx := by
  have h0 := hr.1
  refine ⟨_, s.issue_group f body g' hr hw hf hl hb hc, s.outsideKept_setGrp _ h0, ?_, ?_⟩
  · have := s.goneOn_complete (s.setGrp s.cur g') f h0 hr.2.2.1 hr.2.2.2.2.2.2.2.2 (s.quiet_setGrp hr g' hc) own ho
    have hme : (s.setGrp s.cur g').me = g' := by
      show (s.setGrp s.cur g').grp (s.setGrp s.cur g').cur = _
      rw [State.setGrp_cur, State.grp_setGrp_self _ _ _ h0]
    rw [hme, State.setGrp_setGrp] at this
    exact this
  · have hme : (s.setGrp s.cur (g'.gone f s.me.path s.wordPc)).me = g'.gone f s.me.path s.wordPc := by
      show (s.setGrp s.cur _).grp (s.setGrp s.cur _).cur = _
      rw [State.setGrp_cur, State.grp_setGrp_self _ _ _ h0]
    rw [hme]
    refine ⟨?_, rfl, rfl, rfl, rfl⟩
    unfold Group.undoProgress Group.gone
    simp only
    rw [← hc.lc, ← hc.pc, ← hc.sel, ← hc.windows]

/-! ### Writes of the threads, one after another -/

/-- Group `g` differs from `g0` in thread registers and FX only, and not in the registers of thread `t`. -/
structure SameFor (g0 g : Group) (t : Nat) : Prop where
  /-- Everything else. -/
  rest : { g with x := g0.x, fx := g0.fx } = g0
  /-- The registers of the thread. -/
  own : ∀ r, r < 128 → g.rx t r = g0.rx t r

/-- What a thread does: `n` registers from `d` on, and flags. -/
def ThreadStep (g0 : Group) (fn : Nat → Group → Group) (d n : Nat) (v : Nat → Nat → Word) (F : Nat → Fx) : Prop :=
  ∀ t g, SameFor g0 g t → { fn t g with x := g.x } = { g with fx := g.fx ||| F t } ∧
    ∀ k r, r < 128 → (fn t g).rx k r = if k = t ∧ d ≤ r ∧ r < d + n then v t (r - d) else g.rx k r

theorem foldl_or_init (l : List Nat) (F : Nat → Fx) (a : Fx) :
    l.foldl (fun m k => m ||| F k) a = a ||| raised l F := by
  unfold raised
  induction l generalizing a with
  | nil => simp
  | cons t l ih =>
    simp only [List.foldl_cons]
    rw [ih, ih (0 ||| F t)]
    simp [BitVec.or_assoc]

theorem foldl_threads (g0 : Group) (fn : Nat → Group → Group) (d n : Nat) (v : Nat → Nat → Word) (F : Nat → Fx)
    (hs : ThreadStep g0 fn d n v F) (l : List Nat) (hn : l.Nodup) (g : Group)
    (hg : ∀ t ∈ l, SameFor g0 g t) (hrest : { g with x := g0.x, fx := g0.fx } = g0) :
    { l.foldl (fun g t => fn t g) g with x := g0.x, fx := g0.fx } = g0 ∧
      (l.foldl (fun g t => fn t g) g).fx = g.fx ||| raised l F ∧
      ∀ k r, r < 128 → (l.foldl (fun g t => fn t g) g).rx k r =
        if k ∈ l ∧ d ≤ r ∧ r < d + n then v k (r - d) else g.rx k r := by
  induction l generalizing g with
  | nil => exact ⟨hrest, by simp [raised], by simp⟩
  | cons t l ih =>
    obtain ⟨h1, h2⟩ := hs t g (hg t (by simp))
    have hn' := List.nodup_cons.1 hn
    have hfx : (fn t g).fx = g.fx ||| F t := by
      have : ({ fn t g with x := g.x } : Group).fx = ({ g with fx := g.fx ||| F t } : Group).fx := by rw [h1]
      exact this
    have hr1 : ({ fn t g with x := g0.x, fx := g0.fx } : Group) = g0 := by
      have : ({ ({ fn t g with x := g.x } : Group) with x := g0.x, fx := g0.fx } : Group) =
          ({ ({ g with fx := g.fx ||| F t } : Group) with x := g0.x, fx := g0.fx } : Group) := by rw [h1]
      exact this.trans hrest
    have hsame : ∀ u ∈ l, SameFor g0 (fn t g) u := by
      intro u hu
      refine ⟨hr1, fun r hr => ?_⟩
      rw [h2 u r hr, if_neg]
      · exact (hg u (by simp [hu])).own r hr
      · rintro ⟨rfl, _⟩
        exact hn'.1 hu
    obtain ⟨i1, i2, i3⟩ := ih hn'.2 (fn t g) hsame hr1
    refine ⟨i1, ?_, ?_⟩
    · rw [List.foldl_cons, i2, hfx]
      unfold raised
      simp only [List.foldl_cons]
      rw [foldl_or_init l F (0 ||| F t)]
      simp [BitVec.or_assoc, raised]
    · intro k r hr
      rw [List.foldl_cons, i3 k r hr, h2 k r hr]
      by_cases a : k ∈ l
      · have : k ≠ t := fun e => hn'.1 (e ▸ a)
        simp [a, this]
      · by_cases b : k = t
        · subst b; simp [a]
        · simp [a, b]

theorem Group.path_nodup (g : Group) : g.path.Nodup := by
  unfold Group.path Group.eligible
  exact (List.nodup_range.filter _).filter _

theorem calm_of_rest (g0 g : Group) (h : { g with x := g0.x, fx := g0.fx } = g0) : Calm g0 g := by
  refine ⟨?_, ?_, ?_, ?_, ?_, ?_, ?_, ?_, ?_, ?_⟩ <;> rw [← h]

/-- One register. -/
theorem threadStep_wx (g0 : Group) (d : Nat) (hd : d < 128) (V : Nat → Group → Word) (v : Nat → Word)
    (h : ∀ t g, SameFor g0 g t → V t g = v t) :
    ThreadStep g0 (fun t g => g.wx t d (V t g)) d 1 (fun k _ => v k) (fun _ => 0) := by
  intro t g hg
  refine ⟨by simp [Group.wx], fun k r hr => ?_⟩
  show (g.wx t d (V t g)).rx k r = _
  rw [Group.rx_wx _ _ _ _ _ _ hd hr, h t g hg]
  have : (d ≤ r ∧ r < d + 1) ↔ r = d := by omega
  simp only [this]

/-- A pair. -/
theorem threadStep_wx64 (g0 : Group) (d : Nat) (hd : d + 1 < 128) (V : Nat → Group → Dword) (v : Nat → Dword)
    (h : ∀ t g, SameFor g0 g t → V t g = v t) :
    ThreadStep g0 (fun t g => g.wx64 t d (V t g)) d 2 (fun k j => (v k).extractLsb' (32 * j) 32) (fun _ => 0) := by
  intro t g hg
  refine ⟨by simp [Group.wx64, Group.wx], fun k r hr => ?_⟩
  show (g.wx64 t d (V t g)).rx k r = _
  unfold Group.wx64
  rw [Group.rx_wx _ _ _ _ _ _ hd hr, Group.rx_wx _ _ _ _ _ _ (by omega) hr, h t g hg]
  by_cases hk : k = t
  · by_cases h1 : r = d + 1
    · subst h1; simp [hk]
    · by_cases h2 : r = d
      · subst h2; simp [hk]
      · rw [if_neg (by simp [h1]), if_neg (by simp [h2]), if_neg (by omega)]
  · simp [hk]

/-- One register and flags. -/
theorem threadStep_wfp (g0 : Group) (d : Nat) (hd : d < 128) (V : Nat → Group → Rounded) (v : Nat → Rounded)
    (h : ∀ t g, SameFor g0 g t → V t g = v t) :
    ThreadStep g0 (fun t g => g.wfp t d (V t g)) d 1 (fun k _ => BitVec.ofNat 32 (v k).code) (fun k => (v k).fx) := by
  intro t g hg
  refine ⟨by simp [Group.wfp, Group.wx, Group.orFx, h t g hg], fun k r hr => ?_⟩
  show (g.wx t d (BitVec.ofNat 32 (V t g).code)).rx k r = _
  rw [Group.rx_wx _ _ _ _ _ _ hd hr, h t g hg]
  have : (d ≤ r ∧ r < d + 1) ↔ r = d := by omega
  simp only [this]

/-- The registers of a thread, read before its own write. -/
theorem SameFor.rx64 {g0 g : Group} {t : Nat} (h : SameFor g0 g t) (r : Nat) (hr : r + 1 < 128) :
    g.rx64 t r = g0.rx64 t r := by
  unfold Group.rx64
  rw [h.own r (by omega), h.own (r + 1) hr]

theorem SameFor.rp {g0 g : Group} {t : Nat} (h : SameFor g0 g t) (k q : Nat) : g.rp k q = g0.rp k q := by
  have : g.p = g0.p := by rw [← h.rest]
  unfold Group.rp; rw [this]

theorem SameFor.rg {g0 g : Group} {t : Nat} (h : SameFor g0 g t) (r : Nat) : g.rg r = g0.rg r := by
  have : g.g = g0.g := by rw [← h.rest]
  unfold Group.rg; rw [this]

/-- The windows of an instruction with a thread destination. -/
theorem Form.windows_opened (f : Form) (ws : List Window) (u : Bool) (r n la : Nat) (hd : f.dst = some (u, r, n))
    (hl : f.la = la) : f.windows ws =
      ((ws.map (fun w => { w with left := w.left - 1 })).filter (fun w => 0 < w.left)) ++ opened u r n la := by
  unfold Form.windows opened
  rw [hd, hl]

/-- Without lookahead none opens. -/
theorem Form.windows_none (f : Form) (ws : List Window) (hl : f.la = 0) : f.windows ws =
      ((ws.map (fun w => { w with left := w.left - 1 })).filter (fun w => 0 < w.left)) ++ [] := by
  unfold Form.windows
  rw [hl]
  split <;> simp

/-- An instruction whose threads each write registers: its statement in the terms of claims. -/
theorem State.alu_writes (s : State) (i : Instr) (f : Form) (fn : Nat → Group → Group) (body : State → Walk)
    (own : List Window) (d n : Nat) (v : Nat → Nat → Word) (F : Nat → Fx)
    (hi : exec i s = s.issue f body)
    (hb : body s = s.alu fn)
    (hr : Ready s) (hw : InRound s f.weight) (hf : Plain f) (hl : Legal s f)
    (ho : f.windows s.me.windows =
      ((s.me.windows.map (fun w => { w with left := w.left - 1 })).filter (fun w => 0 < w.left)) ++ own)
    (hs : ThreadStep s.me fn d n v F) : WritesThread s i f.weight own d n v F := by
  obtain ⟨k1, k2, k3⟩ := foldl_threads s.me fn d n v F hs s.me.path s.me.path_nodup s.me (fun t _ => ⟨rfl, fun _ _ => rfl⟩) rfl
  have hc := calm_of_rest _ _ k1
  have hbody : body s = .done (s.setGrp s.cur (s.me.path.foldl (fun g t => fn t g) s.me)) := by
    rw [hb]
    unfold State.alu State.modMe State.modGrp
    rw [State.endWalk_ready _ (by simp [State.setGrp]; exact hr.2.2.2.2.1), State.walkers_ready s hr]
    rfl
  obtain ⟨t, e1, e2, e3, e4, e5, _, _, e6⟩ := s.issue_group_kept f body _ hr hw hf hl hbody hc own ho
  refine ⟨t, hi.trans e1, e2, e3, ?_, ?_, ?_⟩
  · rw [e4]; exact k1
  · rw [e6]; exact k2
  · intro k r hr
    have : t.me.rx k r = (s.me.path.foldl (fun g t => fn t g) s.me).rx k r := by
      unfold Group.rx; rw [e5]
    rw [this]; exact k3 k r hr

/-- An instruction whose body changes its group at once. -/
theorem State.once_changes (s : State) (i : Instr) (f : Form) (fn : Group → Group) (body : State → Walk)
    (own : List Window)
    (hi : exec i s = s.issue f body)
    (hb : body s = s.once fn)
    (hr : Ready s) (hw : InRound s f.weight) (hf : Plain f) (hl : Legal s f)
    (ho : f.windows s.me.windows =
      ((s.me.windows.map (fun w => { w with left := w.left - 1 })).filter (fun w => 0 < w.left)) ++ own)
    (hc : Calm s.me (fn s.me)) : Changes s i f.weight own fn := by
  have hbody : body s = .done (s.setGrp s.cur (fn s.me)) := by
    rw [hb]
    unfold State.once State.modMe State.modGrp
    rfl
  obtain ⟨t, e1, e2, e3, e4, _⟩ := s.issue_group_kept f body _ hr hw hf hl hbody hc own ho
  exact ⟨t, hi.trans e1, e2, e3, e4⟩

end Sys2Proof.Machine
end

