-- ==== Sys2Proof/Laws/Memory.lean ====
section
/-!
SUPPORT. Every operation on a memory, on the control registers or on the tiles keeps the canonical form; the reset
state has it.
-/
namespace Sys2Proof.Machine

/-- The memories and tables of the reset state are canonical. -/
theorem reset_memory_wf : Memory.wf State.reset.mem = true ∧ Memory.wf State.reset.host = true ∧
    Memory.wf State.reset.scratch = true := ⟨rfl, rfl, rfl⟩

/-- Writing a byte keeps the form of a memory. -/
theorem Memory.wf_set {m : Memory} (a : Nat) (b : Byte) (h : Memory.wf m = true) : Memory.wf (Sparse.set m a b) = true :=
  Sparse.wf_set a b h

/-- Writing a run of bytes keeps it. -/
theorem Memory.wf_write {m : Memory} (a : Nat) (bs : List Byte) (h : Memory.wf m = true) :
    Memory.wf (writeBytes m a bs) = true := wf_writeBytes bs a h

/-- Clearing a range keeps it. -/
theorem Memory.wf_clear {m : Memory} (lo hi : Nat) (h : Memory.wf m = true) : Memory.wf (Sparse.clear lo hi m) = true :=
  Sparse.wf_clear lo hi h

/-- Setting A and D in a table entry keeps it. -/
theorem Memory.wf_orPte {m : Memory} (a : Nat) (lo hi : Byte) (h : Memory.wf m = true) : Memory.wf (orPte m a lo hi) = true := by
  unfold orPte
  simp only
  split
  · exact Sparse.wf_set _ _ h
  · exact Sparse.wf_set _ _ (Sparse.wf_set _ _ h)

/-- A byte that was written reads back, and no other byte changes. -/
theorem Memory.get_set (m : Memory) (a k : Nat) (b : Byte) :
    Sparse.get (Sparse.set m a b) k = if k = a then b else Sparse.get m k := by simp

/-- Equal contents are equal data: a canonical table is the only one with its contents. -/
theorem Sparse.ext_of_get {w : Nat} {m n : Sparse w} (hm : m.wf = true) (hn : n.wf = true)
    (h : ∀ k, m.get k = n.get k) : m = n := by
  have above : ∀ (r : Sparse w) (a : Nat), (∀ e ∈ r, a < e.1) → ∀ k, k ≤ a → r.get k = 0 := by
    intro r
    induction r with
    | nil => intro a _ k _; rfl
    | cons e r ih =>
      intro a ha k hk
      obtain ⟨b, v⟩ := e
      have hb : a < b := ha (b, v) (by simp)
      rw [Sparse.get_cons, if_neg (by omega)]
      exact ih a (fun e he => ha e (by simp [he])) k hk
  induction m generalizing n with
  | nil =>
    cases n with
    | nil => rfl
    | cons e r =>
      obtain ⟨a, v⟩ := e
      have := h a
      rw [Sparse.get_cons, if_pos rfl] at this
      exact absurd this.symm ((Sparse.wf_cons a v r).1 hn).1
  | cons e r ih =>
    obtain ⟨a, v⟩ := e
    have hw := (Sparse.wf_cons a v r).1 hm
    cases n with
    | nil =>
      have := h a
      rw [Sparse.get_cons, if_pos rfl] at this
      exact absurd this hw.1
    | cons e' r' =>
      obtain ⟨b, x⟩ := e'
      have hw' := (Sparse.wf_cons b x r').1 hn
      have hab : a = b := by
        rcases Nat.lt_trichotomy a b with hlt | heq | hgt
        · have := h a
          rw [Sparse.get_cons, if_pos rfl, Sparse.get_cons, if_neg (by omega), above r' b hw'.2.1 a (by omega)] at this
          exact absurd this hw.1
        · exact heq
        · have := h b
          rw [Sparse.get_cons, if_neg (by omega), Sparse.get_cons, if_pos rfl, above r a hw.2.1 b (by omega)] at this
          exact absurd this.symm hw'.1
      subst hab
      have hv : v = x := by have := h a; simpa [Sparse.get_cons] using this
      subst hv
      have hr : r = r' := ih hw.2.2 hw'.2.2 (fun k => by
        by_cases hk : k ≤ a
        · rw [above r a hw.2.1 k hk, above r' a hw'.2.1 k hk]
        · have := h k
          simpa [Sparse.get_cons, show ¬a = k by omega] using this)
      rw [hr]

/-- Writing the stores of a state, and its control registers. -/
theorem Canonical.setReg {s : State} (h : Canonical s) (off : Nat) (v : Word) : Canonical (s.setReg off v) :=
  ⟨h.1, h.2.1, h.2.2.1, h.2.2.2.1, Sparse.wf_set _ _ h.2.2.2.2.1, h.2.2.2.2.2⟩

theorem Canonical.setReg64 {s : State} (h : Canonical s) (off : Nat) (v : Dword) : Canonical (s.setReg64 off v) :=
  (h.setReg off _).setReg (off + 4) _

theorem Canonical.modGrp {s : State} (h : Canonical s) (i : Nat) (f : Group → Group) : Canonical (s.modGrp i f) := h

theorem Canonical.modGrid {s : State} (h : Canonical s) (i : Nat) (f : Grid → Grid) : Canonical (s.modGrid i f) := h

end Sys2Proof.Machine
end

