-- ==== Sys2Proof/Laws/PerInstr.lean ====
section
/-!
SUPPORT. One lemma per constructor of Instr: the word of an instruction has the fixed bits that the opcode table gives its
row, and a row that is an event has no word.
-/
namespace Sys2Proof.Laws.TableBits

/-- Mask and match of an instruction's row in the opcode table; events have none. -/
def fixedBits : Instr → Option (Word × Word)
  | .ill => some (0xFFFFFFFF, 0x00000000)
  | .xtImm _ => some (0xFF000000, 0xFC000000)
  | .xtOpd _ _ => some (0xFFFFF800, 0xFD000000)
  | .xtMem _ _ _ _ => some (0xFFFFFF00, 0xFE000000)
  | .add _ _ _ => some (0xFC00001F, 0x04000000)
  | .sub _ _ _ => some (0xFC00001F, 0x04000001)
  | .and _ _ _ => some (0xFC00001F, 0x04000002)
  | .or _ _ _ => some (0xFC00001F, 0x04000003)
  | .xor _ _ _ => some (0xFC00001F, 0x04000004)
  | .andn _ _ _ => some (0xFC00001F, 0x04000005)
  | .shl _ _ _ => some (0xFC00001F, 0x04000006)
  | .shr _ _ _ => some (0xFC00001F, 0x04000007)
  | .sar _ _ _ => some (0xFC00001F, 0x04000008)
  | .rotl _ _ _ => some (0xFC00001F, 0x04000009)
  | .min _ _ _ => some (0xFC00001F, 0x0400000A)
  | .max _ _ _ => some (0xFC00001F, 0x0400000B)
  | .minz _ _ _ => some (0xFC00001F, 0x0400000C)
  | .maxz _ _ _ => some (0xFC00001F, 0x0400000D)
  | .mul _ _ _ => some (0xFC00001F, 0x0400000E)
  | .mulh _ _ _ => some (0xFC00001F, 0x0400000F)
  | .mulhz _ _ _ => some (0xFC00001F, 0x04000010)
  | .absd _ _ _ => some (0xFC00001F, 0x04000011)
  | .add64 _ _ _ => some (0xFC00001F, 0x04000012)
  | .sub64 _ _ _ => some (0xFC00001F, 0x04000013)
  | .popc _ _ => some (0xFC000FFF, 0x04000014)
  | .clz _ _ => some (0xFC000FFF, 0x04000015)
  | .brev _ _ => some (0xFC000FFF, 0x04000016)
  | .sadd _ _ _ => some (0xFC00001F, 0x04000017)
  | .ssub _ _ _ => some (0xFC00001F, 0x04000018)
  | .addi _ _ _ => some (0xFC000000, 0x08000000)
  | .andi _ _ _ => some (0xFC000000, 0x0C000000)
  | .ori _ _ _ => some (0xFC000000, 0x10000000)
  | .xori _ _ _ => some (0xFC000000, 0x14000000)
  | .shfiShl _ _ _ => some (0xFC000FE0, 0x18000000)
  | .shfiShr _ _ _ => some (0xFC000FE0, 0x18000400)
  | .shfiSar _ _ _ => some (0xFC000FE0, 0x18000800)
  | .shfiRotl _ _ _ => some (0xFC000FE0, 0x18000C00)
  | .movi _ _ => some (0xFC000000, 0x1C000000)
  | .movh _ _ => some (0xFC000000, 0x20000000)
  | .icmp _ _ _ _ _ _ => some (0xFC000000, 0x24000000)
  | .icmpi _ _ _ _ => some (0xFC000000, 0x28000000)
  | .sel _ _ _ _ => some (0xFC000001, 0x2C000000)
  | .imad _ _ _ => some (0xFC00001F, 0x30000000)
  | .imadw _ _ _ => some (0xFC00001F, 0x30000001)
  | .imadwz _ _ _ => some (0xFC00001F, 0x30000002)
  | .bfe _ _ _ _ => some (0xFC000003, 0x34000000)
  | .bfez _ _ _ _ => some (0xFC000003, 0x34000001)
  | .bfi _ _ _ _ => some (0xFC000003, 0x34000002)
  | .bmsk _ _ _ => some (0xFC07F003, 0x34000003)
  | .padd _ _ _ => some (0xFC00001F, 0x38000000)
  | .ptag _ _ _ => some (0xFC00001F, 0x38000001)
  | .prank _ _ _ => some (0xFC00001F, 0x38000002)
  | .pinfo _ _ => some (0xFC000FFF, 0x38000003)
  | .phnd _ _ => some (0xFC000FFF, 0x38000004)
  | .fadd _ _ _ => some (0xFC00001F, 0x3C000000)
  | .fsub _ _ _ => some (0xFC00001F, 0x3C000001)
  | .fmul _ _ _ => some (0xFC00001F, 0x3C000002)
  | .fmin _ _ _ => some (0xFC00001F, 0x3C000003)
  | .fmax _ _ _ => some (0xFC00001F, 0x3C000004)
  | .fabs _ _ => some (0xFC000FFF, 0x3C000005)
  | .fneg _ _ => some (0xFC000FFF, 0x3C000006)
  | .fcpys _ _ _ => some (0xFC00001F, 0x3C000007)
  | .frndN _ _ => some (0xFC000FFF, 0x3C000008)
  | .frndZ _ _ => some (0xFC000FFF, 0x3C000009)
  | .frndP _ _ => some (0xFC000FFF, 0x3C00000A)
  | .frndM _ _ => some (0xFC000FFF, 0x3C00000B)
  | .hadd2F16 _ _ _ => some (0xFC00001F, 0x40000000)
  | .hsub2F16 _ _ _ => some (0xFC00001F, 0x40000001)
  | .hmul2F16 _ _ _ => some (0xFC00001F, 0x40000002)
  | .hmin2F16 _ _ _ => some (0xFC00001F, 0x40000003)
  | .hmax2F16 _ _ _ => some (0xFC00001F, 0x40000004)
  | .hadd2Bf16 _ _ _ => some (0xFC00001F, 0x40000010)
  | .hsub2Bf16 _ _ _ => some (0xFC00001F, 0x40000011)
  | .hmul2Bf16 _ _ _ => some (0xFC00001F, 0x40000012)
  | .hmin2Bf16 _ _ _ => some (0xFC00001F, 0x40000013)
  | .hmax2Bf16 _ _ _ => some (0xFC00001F, 0x40000014)
  | .ffma _ _ _ => some (0xFC00001F, 0x44000000)
  | .ffms _ _ _ => some (0xFC00001F, 0x44000001)
  | .fnma _ _ _ => some (0xFC00001F, 0x44000002)
  | .hfma2F16 _ _ _ => some (0xFC00001F, 0x44000003)
  | .hfma2Bf16 _ _ _ => some (0xFC00001F, 0x44000004)
  | .fcmp _ _ _ _ _ _ => some (0xFC000000, 0x48000000)
  | .rcp _ _ => some (0xFC000FFF, 0x4C000000)
  | .rsq _ _ => some (0xFC000FFF, 0x4C000001)
  | .sqrt _ _ => some (0xFC000FFF, 0x4C000002)
  | .exp2 _ _ => some (0xFC000FFF, 0x4C000003)
  | .log2 _ _ => some (0xFC000FFF, 0x4C000004)
  | .sinpi _ _ => some (0xFC000FFF, 0x4C000005)
  | .cospi _ _ => some (0xFC000FFF, 0x4C000006)
  | .tanh _ _ => some (0xFC000FFF, 0x4C000007)
  | .cvtF32F16 _ _ => some (0xFC000FFF, 0x50000000)
  | .cvtF16F32 _ _ => some (0xFC000FFF, 0x50000001)
  | .cvtF32Bf16 _ _ => some (0xFC000FFF, 0x50000002)
  | .cvtBf16F32 _ _ => some (0xFC000FFF, 0x50000003)
  | .cvtS32F32 _ _ => some (0xFC000FFF, 0x50000004)
  | .cvtZ32F32 _ _ => some (0xFC000FFF, 0x50000005)
  | .cvtF32S32 _ _ => some (0xFC000FFF, 0x50000006)
  | .cvtF32Z32 _ _ => some (0xFC000FFF, 0x50000007)
  | .pack2 _ _ _ => some (0xFC00001F, 0x50000008)
  | .shfl _ _ _ => some (0xFC00007F, 0x54000000)
  | .shflup _ _ _ => some (0xFC00007F, 0x54000008)
  | .shfldn _ _ _ => some (0xFC00007F, 0x54000010)
  | .shflx _ _ _ => some (0xFC00007F, 0x54000018)
  | .bcst _ _ _ => some (0xFC00007F, 0x54000020)
  | .prev _ _ _ => some (0xFC00007F, 0x54000028)
  | .scanAdd _ _ _ => some (0xFC00007F, 0x54000030)
  | .scanMin _ _ _ => some (0xFC00007F, 0x54000031)
  | .scanMax _ _ _ => some (0xFC00007F, 0x54000032)
  | .scanMinz _ _ _ => some (0xFC00007F, 0x54000033)
  | .scanMaxz _ _ _ => some (0xFC00007F, 0x54000034)
  | .scanAnd _ _ _ => some (0xFC00007F, 0x54000035)
  | .scanOr _ _ _ => some (0xFC00007F, 0x54000036)
  | .scanFadd _ _ _ => some (0xFC00007F, 0x54000037)
  | .redAdd _ _ _ => some (0xFC00007F, 0x54000038)
  | .redMin _ _ _ => some (0xFC00007F, 0x54000039)
  | .redMax _ _ _ => some (0xFC00007F, 0x5400003A)
  | .redMinz _ _ _ => some (0xFC00007F, 0x5400003B)
  | .redMaxz _ _ _ => some (0xFC00007F, 0x5400003C)
  | .redAnd _ _ _ => some (0xFC00007F, 0x5400003D)
  | .redOr _ _ _ => some (0xFC00007F, 0x5400003E)
  | .redFadd _ _ _ => some (0xFC00007F, 0x5400003F)
  | .voteAny _ _ _ => some (0xFC00007F, 0x54000040)
  | .voteAll _ _ _ => some (0xFC00007F, 0x54000041)
  | .voteUni _ _ _ => some (0xFC00007F, 0x54000042)
  | .ballot _ _ _ => some (0xFC00007F, 0x54000048)
  | .matchEq _ _ _ => some (0xFC00007F, 0x54000050)
  | .uadd _ _ _ => some (0xFC0007FF, 0x58000000)
  | .usub _ _ _ => some (0xFC0007FF, 0x58000001)
  | .uand _ _ _ => some (0xFC0007FF, 0x58000002)
  | .uor _ _ _ => some (0xFC0007FF, 0x58000003)
  | .uxor _ _ _ => some (0xFC0007FF, 0x58000004)
  | .ushl _ _ _ => some (0xFC0007FF, 0x58000005)
  | .ushr _ _ _ => some (0xFC0007FF, 0x58000006)
  | .usar _ _ _ => some (0xFC0007FF, 0x58000007)
  | .umul _ _ _ => some (0xFC0007FF, 0x58000008)
  | .umin _ _ _ => some (0xFC0007FF, 0x58000009)
  | .umax _ _ _ => some (0xFC0007FF, 0x5800000A)
  | .uminz _ _ _ => some (0xFC0007FF, 0x5800000B)
  | .umaxz _ _ _ => some (0xFC0007FF, 0x5800000C)
  | .uaddi _ _ _ => some (0xFC000000, 0x5C000000)
  | .umovi _ _ => some (0xFC1F0000, 0x60000000)
  | .umovh _ _ => some (0xFC1F0000, 0x64000000)
  | .rdg _ _ => some (0xFC003FFF, 0x68000000)
  | .wrgf _ _ => some (0xFC003FFF, 0x68000001)
  | .wrgt _ _ _ => some (0xFC0001FF, 0x68000002)
  | .ldb _ _ _ _ => some (0xFC000000, 0x6C000000)
  | .ldbs _ _ _ _ => some (0xFC000000, 0x70000000)
  | .ldh _ _ _ _ => some (0xFC000000, 0x74000000)
  | .ldhs _ _ _ _ => some (0xFC000000, 0x78000000)
  | .ldw _ _ _ _ => some (0xFC000000, 0x7C000000)
  | .ldd _ _ _ _ => some (0xFC000000, 0x80000000)
  | .ldq _ _ _ _ => some (0xFC000000, 0x84000000)
  | .stb _ _ _ _ => some (0xFC000000, 0x88000000)
  | .sth _ _ _ _ => some (0xFC000000, 0x8C000000)
  | .stw _ _ _ _ => some (0xFC000000, 0x90000000)
  | .std _ _ _ _ => some (0xFC000000, 0x94000000)
  | .stq _ _ _ _ => some (0xFC000000, 0x98000000)
  | .uldw _ _ _ _ => some (0xFC000000, 0x9C000000)
  | .uldd _ _ _ _ => some (0xFC000000, 0xA0000000)
  | .atomAdd _ _ _ _ _ _ => some (0xFC0000E0, 0xA4000000)
  | .atomMin _ _ _ _ _ _ => some (0xFC0000E0, 0xA4000020)
  | .atomMax _ _ _ _ _ _ => some (0xFC0000E0, 0xA4000040)
  | .atomMinz _ _ _ _ _ _ => some (0xFC0000E0, 0xA4000060)
  | .atomMaxz _ _ _ _ _ _ => some (0xFC0000E0, 0xA4000080)
  | .atomAnd _ _ _ _ _ _ => some (0xFC0000E0, 0xA40000A0)
  | .atomOr _ _ _ _ _ _ => some (0xFC0000E0, 0xA40000C0)
  | .atomXor _ _ _ _ _ _ => some (0xFC0000E0, 0xA40000E0)
  | .atomxExch _ _ _ _ _ _ => some (0xFC0000E0, 0xA8000000)
  | .atomxCas _ _ _ _ _ _ => some (0xFC0000E0, 0xA8000020)
  | .atomxFadd _ _ _ _ _ => some (0xFC0000E1, 0xA8000040)
  | .fence _ _ => some (0xFC00FFFF, 0xAC000000)
  | .setclr _ => some (0xFC7FFFFF, 0xAC000001)
  | .mon _ => some (0xFC07FFFF, 0xAC000002)
  | .monClr => some (0xFFFFFFFF, 0xAC040002)
  | .mwait _ _ => some (0xFC00FFFF, 0xAC000003)
  | .cede _ => some (0xFC0003FF, 0xAC000004)
  | .invl1 _ => some (0xFCFFFFFF, 0xAC000005)
  | .pref _ _ => some (0xFC03FFFF, 0xAC000006)
  | .qfence _ => some (0xFC3FFFFF, 0xAC000007)
  | .clkrd _ => some (0xFC1FFFFF, 0xAC000008)
  | .binit _ _ => some (0xFC00FFFF, 0xB0000000)
  | .bexp _ _ => some (0xFC00FFFF, 0xB0000001)
  | .barv _ _ => some (0xFC00FFFF, 0xB0000002)
  | .bwait _ _ _ _ => some (0xFC00007F, 0xB0000003)
  | .btest _ _ _ _ => some (0xFC00007F, 0xB0000004)
  | .rinit _ _ _ => some (0xFC0007FF, 0xB4000000)
  | .awaitf _ _ _ _ => some (0xFC00007F, 0xB4000001)
  | .rels _ => some (0xFC1FFFFF, 0xB4000002)
  | .rstat _ _ _ => some (0xFC1F007F, 0xB4000003)
  | .awaitfEmpty _ _ _ _ => some (0xFC00007F, 0xB4000004)
  | .cpy _ _ _ => some (0xFC0007FF, 0xB8000000)
  | .cpyt _ _ _ => some (0xFC0007FF, 0xB8000001)
  | .cpys _ _ _ => some (0xFC0007FF, 0xB8000002)
  | .cpym _ _ _ => some (0xFC0007FF, 0xB8000003)
  | .cpyr _ _ _ => some (0xFC0007FF, 0xB8000004)
  | .bra _ _ _ => some (0xFC000000, 0xBC000000)
  | .call _ _ _ => some (0xFC000000, 0xC0000000)
  | .calli _ => some (0xFC07FFFF, 0xC4000000)
  | .bri _ => some (0xFC07FFFF, 0xC4000001)
  | .ret => some (0xFFFFFFFF, 0xC4000002)
  | .join _ => some (0xFC3FFFFF, 0xC4000003)
  | .jmrk _ => some (0xFC3FFFFF, 0xC4000004)
  | .jclr _ => some (0xFC3FFFFF, 0xC4000005)
  | .jsav _ _ => some (0xFC007FFF, 0xC4000006)
  | .jrst _ _ => some (0xFC007FFF, 0xC4000007)
  | .exit => some (0xFFFFFFFF, 0xC4000008)
  | .yield => some (0xFFFFFFFF, 0xC4000009)
  | .nop => some (0xFFFFFFFF, 0xC400000A)
  | .mma _ _ _ _ _ _ => some (0xFC00007E, 0xC8000000)
  | .mma2 _ _ _ _ _ _ => some (0xFC00007E, 0xC8000002)
  | .acqa _ => some (0xFC7FFFFF, 0xCC000000)
  | .rela _ => some (0xFC7FFFFF, 0xCC000001)
  | .lda _ _ _ => some (0xFC0E0FFF, 0xCC000002)
  | .sta _ _ _ => some (0xFC0E0FFF, 0xCC000003)
  | .drain _ _ _ _ => some (0xFC000FFF, 0xCC000004)
  | .zacc _ => some (0xFC7FFFFF, 0xCC000005)
  | .accrd _ _ _ => some (0xFC000FFF, 0xCC000006)
  | .accwr _ _ _ => some (0xFC000FFF, 0xCC000007)
  | .srd _ _ => some (0xFFF00007, 0xD0000000)
  | .swr _ _ => some (0xFFF00007, 0xD0100000)
  | .trap _ => some (0xFFFFE007, 0xD0200000)
  | .bkpt _ => some (0xFFFFE007, 0xD0300000)
  | .emit _ _ => some (0xFFF00007, 0xD0400000)
  | .migr _ => some (0xFFF01FFF, 0xD0500000)
  | .launch _ _ => some (0xFFF01F07, 0xD0600000)
  | .haltctx _ _ => some (0xFFFFEF07, 0xD0700000)
  | .rft => some (0xFFFFFFFF, 0xD0800000)
  | .cycrd _ => some (0xFFF01FFF, 0xD0900000)
  | .trapDelivery _ => none
  | .workgroupStart _ _ _ => none
  | .roundApply _ => none
  | .groupWake _ => none
  | .mwaitTimeout _ => none
  | .cedeExpiry _ => none
  | .deadlock _ => none
  | .externalWriteLand _ => none
  | .hostBarWrite _ _ => none
  | .hostCompletion _ _ _ => none
  | .loadResponse _ _ => none
  | .storePerform _ _ => none
  | .atomicPerform _ _ => none
  | .copyPerform _ _ => none
  | .mxuComplete _ => none
  | .migrArrival _ _ => none
  | .haltctxComplete _ => none
  | .tierMigration _ _ => none
  | .wayMove _ _ _ => none
  | .timeSliceSwitch => none
  | .machineCheck _ _ => none
  | .faultRingWrite _ => none
  | .tinvPage _ _ => none
  | .tinvAsid _ _ => none
  | .tinvFunction _ => none
  | .tinvComplete _ => none
  | .facmdBaseFrame _ => none
  | .facmdHugeFrame _ => none
  | .facmdTableFrame _ => none
  | .facmdRelease => none
  | .freplyRetry _ _ => none
  | .freplyFail _ _ => none
  | .qctlEnable _ _ => none
  | .qctlDisable _ _ => none
  | .qtailDoorbell _ _ => none
  | .packetFetch _ => none
  | .nopPacket _ _ => none
  | .launchPacket _ _ => none
  | .waitseq _ _ => none
  | .signal _ _ => none
  | .quiesceStop _ _ => none
  | .quiesceResume _ _ => none
  | .quiesceStopAndSave _ _ => none
  | .domainQuiesced _ => none
  | .telemAttach _ _ => none
  | .telemDetach _ _ => none
  | .gridComplete _ => none
  | .pctlSave _ => none
  | .saveDone _ => none
  | .pctlRestore _ => none
  | .pctlDiscard _ => none
  | .pcrEnable _ _ => none
  | .pcrDisable _ _ => none
  | .pcrFlr _ _ => none
  | .pcieFlr _ => none
  | .flrDone _ => none
  | .pfResourceWrite _ _ => none
  | .tbudWrite _ _ => none
  | .mergeSum _ _ => none
  | .mergeMax _ _ => none
  | .registerWrite _ _ _ => none
  | .tcoRecordIntake _ => none
  | .tcoRun _ _ => none
  | .budgetWindow _ => none
  | .fabricFlitReceive _ _ _ => none
  | .reductionResult _ _ => none
  | .boot _ => none
  | .spdmRequest _ => none
  | .copySourceReadDone _ => none
  | .barrierNetworkArrival _ => none
  | .nackRetry _ => none
  | .correctableError _ _ => none
  | .mergeComplete _ => none
  | .tdispRequest _ _ => none

/-- The word of an instruction agrees with the opcode table on every fixed bit. -/
def Statement (i : Instr) : Prop :=
  match encode i, fixedBits i with
  | some w, some r => w &&& r.1 = r.2
  | none, none => True
  | _, _ => False

/-- A field that the mask leaves out. -/
theorem free {w : Nat} (x : BitVec w) : x &&& 0#w = 0#w := BitVec.and_zero

/-- A field that the mask holds whole. -/
theorem held {w : Nat} (x : BitVec w) : x &&& BitVec.allOnes w = x := BitVec.and_allOnes

/-- Two fields. -/
theorem both {v w : Nat} {x m c : BitVec v} {y n d : BitVec w} (h : x &&& m = c) (k : y &&& n = d) :
    (x ++ y) &&& (m ++ n) = c ++ d := by rw [BitVec.and_append, h, k]

theorem shape1 (c0 : BitVec 6) (c1 : BitVec 26) :
    (c0 ++ c1) &&& 0xFFFFFFFF#32 = c0 ++ c1 := (both (held c0) (held c1))
theorem shape2 (c0 : BitVec 6) (c1 : BitVec 2) (v2 : BitVec 24) :
    (c0 ++ c1 ++ v2) &&& 0xFF000000#32 = c0 ++ c1 ++ 0#24 := (both (both (held c0) (held c1)) (free v2))
theorem shape3 (c0 : BitVec 6) (c1 : BitVec 15) (v2 : BitVec 4) (v3 : BitVec 7) :
    (c0 ++ c1 ++ v2 ++ v3) &&& 0xFFFFF800#32 = c0 ++ c1 ++ 0#4 ++ 0#7 := (both (both (both (held c0) (held c1)) (free v2)) (free v3))
theorem shape4 (c0 : BitVec 6) (c1 : BitVec 18) (v2 : BitVec 1) (v3 : BitVec 3) (v4 : BitVec 2) (v5 : BitVec 2) :
    (c0 ++ c1 ++ v2 ++ v3 ++ v4 ++ v5) &&& 0xFFFFFF00#32 = c0 ++ c1 ++ 0#1 ++ 0#3 ++ 0#2 ++ 0#2 := (both (both (both (both (both (held c0) (held c1)) (free v2)) (free v3)) (free v4)) (free v5))
theorem shape5 (c0 : BitVec 6) (v1 : BitVec 7) (v2 : BitVec 7) (v3 : BitVec 7) (c4 : BitVec 5) :
    (c0 ++ v1 ++ v2 ++ v3 ++ c4) &&& 0xFC00001F#32 = c0 ++ 0#7 ++ 0#7 ++ 0#7 ++ c4 := (both (both (both (both (held c0) (free v1)) (free v2)) (free v3)) (held c4))
theorem shape6 (c0 : BitVec 6) (v1 : BitVec 7) (v2 : BitVec 7) (c3 : BitVec 12) :
    (c0 ++ v1 ++ v2 ++ c3) &&& 0xFC000FFF#32 = c0 ++ 0#7 ++ 0#7 ++ c3 := (both (both (both (held c0) (free v1)) (free v2)) (held c3))
theorem shape7 (c0 : BitVec 6) (v1 : BitVec 7) (v2 : BitVec 7) (v3 : BitVec 12) :
    (c0 ++ v1 ++ v2 ++ v3) &&& 0xFC000000#32 = c0 ++ 0#7 ++ 0#7 ++ 0#12 := (both (both (both (held c0) (free v1)) (free v2)) (free v3))
theorem shape8 (c0 : BitVec 6) (v1 : BitVec 7) (v2 : BitVec 7) (c3 : BitVec 7) (v4 : BitVec 5) :
    (c0 ++ v1 ++ v2 ++ c3 ++ v4) &&& 0xFC000FE0#32 = c0 ++ 0#7 ++ 0#7 ++ c3 ++ 0#5 := (both (both (both (both (held c0) (free v1)) (free v2)) (held c3)) (free v4))
theorem shape9 (c0 : BitVec 6) (v1 : BitVec 7) (v2 : BitVec 19) :
    (c0 ++ v1 ++ v2) &&& 0xFC000000#32 = c0 ++ 0#7 ++ 0#19 := (both (both (held c0) (free v1)) (free v2))
theorem shape10 (c0 : BitVec 6) (v1 : BitVec 3) (v2 : BitVec 2) (v3 : BitVec 7) (v4 : BitVec 7) (v5 : BitVec 4) (v6 : BitVec 3) :
    (c0 ++ v1 ++ v2 ++ v3 ++ v4 ++ v5 ++ v6) &&& 0xFC000000#32 = c0 ++ 0#3 ++ 0#2 ++ 0#7 ++ 0#7 ++ 0#4 ++ 0#3 := (both (both (both (both (both (both (held c0) (free v1)) (free v2)) (free v3)) (free v4)) (free v5)) (free v6))
theorem shape11 (c0 : BitVec 6) (v1 : BitVec 3) (v2 : BitVec 4) (v3 : BitVec 7) (v4 : BitVec 12) :
    (c0 ++ v1 ++ v2 ++ v3 ++ v4) &&& 0xFC000000#32 = c0 ++ 0#3 ++ 0#4 ++ 0#7 ++ 0#12 := (both (both (both (both (held c0) (free v1)) (free v2)) (free v3)) (free v4))
theorem shape12 (c0 : BitVec 6) (v1 : BitVec 7) (v2 : BitVec 7) (v3 : BitVec 7) (v4 : BitVec 4) (c5 : BitVec 1) :
    (c0 ++ v1 ++ v2 ++ v3 ++ v4 ++ c5) &&& 0xFC000001#32 = c0 ++ 0#7 ++ 0#7 ++ 0#7 ++ 0#4 ++ c5 := (both (both (both (both (both (held c0) (free v1)) (free v2)) (free v3)) (free v4)) (held c5))
theorem shape13 (c0 : BitVec 6) (v1 : BitVec 7) (v2 : BitVec 7) (v3 : BitVec 5) (v4 : BitVec 5) (c5 : BitVec 2) :
    (c0 ++ v1 ++ v2 ++ v3 ++ v4 ++ c5) &&& 0xFC000003#32 = c0 ++ 0#7 ++ 0#7 ++ 0#5 ++ 0#5 ++ c5 := (both (both (both (both (both (held c0) (free v1)) (free v2)) (free v3)) (free v4)) (held c5))
theorem shape14 (c0 : BitVec 6) (v1 : BitVec 7) (c2 : BitVec 7) (v3 : BitVec 5) (v4 : BitVec 5) (c5 : BitVec 2) :
    (c0 ++ v1 ++ c2 ++ v3 ++ v4 ++ c5) &&& 0xFC07F003#32 = c0 ++ 0#7 ++ c2 ++ 0#5 ++ 0#5 ++ c5 := (both (both (both (both (both (held c0) (free v1)) (held c2)) (free v3)) (free v4)) (held c5))
theorem shape15 (c0 : BitVec 6) (v1 : BitVec 7) (v2 : BitVec 7) (v3 : BitVec 5) (c4 : BitVec 7) :
    (c0 ++ v1 ++ v2 ++ v3 ++ c4) &&& 0xFC00007F#32 = c0 ++ 0#7 ++ 0#7 ++ 0#5 ++ c4 := (both (both (both (both (held c0) (free v1)) (free v2)) (free v3)) (held c4))
theorem shape16 (c0 : BitVec 6) (v1 : BitVec 5) (v2 : BitVec 5) (v3 : BitVec 5) (c4 : BitVec 11) :
    (c0 ++ v1 ++ v2 ++ v3 ++ c4) &&& 0xFC0007FF#32 = c0 ++ 0#5 ++ 0#5 ++ 0#5 ++ c4 := (both (both (both (both (held c0) (free v1)) (free v2)) (free v3)) (held c4))
theorem shape17 (c0 : BitVec 6) (v1 : BitVec 5) (v2 : BitVec 5) (v3 : BitVec 16) :
    (c0 ++ v1 ++ v2 ++ v3) &&& 0xFC000000#32 = c0 ++ 0#5 ++ 0#5 ++ 0#16 := (both (both (both (held c0) (free v1)) (free v2)) (free v3))
theorem shape18 (c0 : BitVec 6) (v1 : BitVec 5) (c2 : BitVec 5) (v3 : BitVec 16) :
    (c0 ++ v1 ++ c2 ++ v3) &&& 0xFC1F0000#32 = c0 ++ 0#5 ++ c2 ++ 0#16 := (both (both (both (held c0) (free v1)) (held c2)) (free v3))
theorem shape19 (c0 : BitVec 6) (v1 : BitVec 7) (v2 : BitVec 5) (c3 : BitVec 14) :
    (c0 ++ v1 ++ v2 ++ c3) &&& 0xFC003FFF#32 = c0 ++ 0#7 ++ 0#5 ++ c3 := (both (both (both (held c0) (free v1)) (free v2)) (held c3))
theorem shape20 (c0 : BitVec 6) (v1 : BitVec 7) (v2 : BitVec 5) (v3 : BitVec 5) (c4 : BitVec 9) :
    (c0 ++ v1 ++ v2 ++ v3 ++ c4) &&& 0xFC0001FF#32 = c0 ++ 0#7 ++ 0#5 ++ 0#5 ++ c4 := (both (both (both (both (held c0) (free v1)) (free v2)) (free v3)) (held c4))
theorem shape21 (c0 : BitVec 6) (v1 : BitVec 7) (v2 : BitVec 7) (v3 : BitVec 4) (v4 : BitVec 8) :
    (c0 ++ v1 ++ v2 ++ v3 ++ v4) &&& 0xFC000000#32 = c0 ++ 0#7 ++ 0#7 ++ 0#4 ++ 0#8 := (both (both (both (both (held c0) (free v1)) (free v2)) (free v3)) (free v4))
theorem shape22 (c0 : BitVec 6) (v1 : BitVec 5) (v2 : BitVec 5) (v3 : BitVec 4) (v4 : BitVec 12) :
    (c0 ++ v1 ++ v2 ++ v3 ++ v4) &&& 0xFC000000#32 = c0 ++ 0#5 ++ 0#5 ++ 0#4 ++ 0#12 := (both (both (both (both (held c0) (free v1)) (free v2)) (free v3)) (free v4))
theorem shape23 (c0 : BitVec 6) (v1 : BitVec 7) (v2 : BitVec 7) (v3 : BitVec 4) (c4 : BitVec 3) (v5 : BitVec 2) (v6 : BitVec 2) (v7 : BitVec 1) :
    (c0 ++ v1 ++ v2 ++ v3 ++ c4 ++ v5 ++ v6 ++ v7) &&& 0xFC0000E0#32 = c0 ++ 0#7 ++ 0#7 ++ 0#4 ++ c4 ++ 0#2 ++ 0#2 ++ 0#1 := (both (both (both (both (both (both (both (held c0) (free v1)) (free v2)) (free v3)) (held c4)) (free v5)) (free v6)) (free v7))
theorem shape24 (c0 : BitVec 6) (v1 : BitVec 7) (v2 : BitVec 7) (v3 : BitVec 4) (c4 : BitVec 3) (v5 : BitVec 2) (v6 : BitVec 2) (c7 : BitVec 1) :
    (c0 ++ v1 ++ v2 ++ v3 ++ c4 ++ v5 ++ v6 ++ c7) &&& 0xFC0000E1#32 = c0 ++ 0#7 ++ 0#7 ++ 0#4 ++ c4 ++ 0#2 ++ 0#2 ++ c7 := (both (both (both (both (both (both (both (held c0) (free v1)) (free v2)) (free v3)) (held c4)) (free v5)) (free v6)) (held c7))
theorem shape25 (c0 : BitVec 6) (v1 : BitVec 8) (v2 : BitVec 2) (c3 : BitVec 16) :
    (c0 ++ v1 ++ v2 ++ c3) &&& 0xFC00FFFF#32 = c0 ++ 0#8 ++ 0#2 ++ c3 := (both (both (both (held c0) (free v1)) (free v2)) (held c3))
theorem shape26 (c0 : BitVec 6) (v1 : BitVec 3) (c2 : BitVec 23) :
    (c0 ++ v1 ++ c2) &&& 0xFC7FFFFF#32 = c0 ++ 0#3 ++ c2 := (both (both (held c0) (free v1)) (held c2))
theorem shape27 (c0 : BitVec 6) (v1 : BitVec 7) (c2 : BitVec 19) :
    (c0 ++ v1 ++ c2) &&& 0xFC07FFFF#32 = c0 ++ 0#7 ++ c2 := (both (both (held c0) (free v1)) (held c2))
theorem shape28 (c0 : BitVec 6) (v1 : BitVec 5) (v2 : BitVec 5) (c3 : BitVec 16) :
    (c0 ++ v1 ++ v2 ++ c3) &&& 0xFC00FFFF#32 = c0 ++ 0#5 ++ 0#5 ++ c3 := (both (both (both (held c0) (free v1)) (free v2)) (held c3))
theorem shape29 (c0 : BitVec 6) (v1 : BitVec 16) (c2 : BitVec 10) :
    (c0 ++ v1 ++ c2) &&& 0xFC0003FF#32 = c0 ++ 0#16 ++ c2 := (both (both (held c0) (free v1)) (held c2))
theorem shape30 (c0 : BitVec 6) (v1 : BitVec 2) (c2 : BitVec 24) :
    (c0 ++ v1 ++ c2) &&& 0xFCFFFFFF#32 = c0 ++ 0#2 ++ c2 := (both (both (held c0) (free v1)) (held c2))
theorem shape31 (c0 : BitVec 6) (v1 : BitVec 7) (v2 : BitVec 1) (c3 : BitVec 18) :
    (c0 ++ v1 ++ v2 ++ c3) &&& 0xFC03FFFF#32 = c0 ++ 0#7 ++ 0#1 ++ c3 := (both (both (both (held c0) (free v1)) (free v2)) (held c3))
theorem shape32 (c0 : BitVec 6) (v1 : BitVec 4) (c2 : BitVec 22) :
    (c0 ++ v1 ++ c2) &&& 0xFC3FFFFF#32 = c0 ++ 0#4 ++ c2 := (both (both (held c0) (free v1)) (held c2))
theorem shape33 (c0 : BitVec 6) (v1 : BitVec 5) (c2 : BitVec 21) :
    (c0 ++ v1 ++ c2) &&& 0xFC1FFFFF#32 = c0 ++ 0#5 ++ c2 := (both (both (held c0) (free v1)) (held c2))
theorem shape34 (c0 : BitVec 6) (v1 : BitVec 5) (v2 : BitVec 5) (v3 : BitVec 5) (v4 : BitVec 4) (c5 : BitVec 7) :
    (c0 ++ v1 ++ v2 ++ v3 ++ v4 ++ c5) &&& 0xFC00007F#32 = c0 ++ 0#5 ++ 0#5 ++ 0#5 ++ 0#4 ++ c5 := (both (both (both (both (both (held c0) (free v1)) (free v2)) (free v3)) (free v4)) (held c5))
theorem shape35 (c0 : BitVec 6) (v1 : BitVec 5) (c2 : BitVec 5) (v3 : BitVec 5) (v4 : BitVec 4) (c5 : BitVec 7) :
    (c0 ++ v1 ++ c2 ++ v3 ++ v4 ++ c5) &&& 0xFC1F007F#32 = c0 ++ 0#5 ++ c2 ++ 0#5 ++ 0#4 ++ c5 := (both (both (both (both (both (held c0) (free v1)) (held c2)) (free v3)) (free v4)) (held c5))
theorem shape36 (c0 : BitVec 6) (v1 : BitVec 4) (v2 : BitVec 4) (v3 : BitVec 18) :
    (c0 ++ v1 ++ v2 ++ v3) &&& 0xFC000000#32 = c0 ++ 0#4 ++ 0#4 ++ 0#18 := (both (both (both (held c0) (free v1)) (free v2)) (free v3))
theorem shape37 (c0 : BitVec 6) (v1 : BitVec 4) (v2 : BitVec 7) (c3 : BitVec 15) :
    (c0 ++ v1 ++ v2 ++ c3) &&& 0xFC007FFF#32 = c0 ++ 0#4 ++ 0#7 ++ c3 := (both (both (both (held c0) (free v1)) (free v2)) (held c3))
theorem shape38 (c0 : BitVec 6) (v1 : BitVec 3) (v2 : BitVec 3) (v3 : BitVec 3) (v4 : BitVec 5) (v5 : BitVec 5) (c6 : BitVec 6) (v7 : BitVec 1) :
    (c0 ++ v1 ++ v2 ++ v3 ++ v4 ++ v5 ++ c6 ++ v7) &&& 0xFC00007E#32 = c0 ++ 0#3 ++ 0#3 ++ 0#3 ++ 0#5 ++ 0#5 ++ c6 ++ 0#1 := (both (both (both (both (both (both (both (held c0) (free v1)) (free v2)) (free v3)) (free v4)) (free v5)) (held c6)) (free v7))
theorem shape39 (c0 : BitVec 6) (v1 : BitVec 3) (v2 : BitVec 3) (c3 : BitVec 3) (v4 : BitVec 5) (c5 : BitVec 12) :
    (c0 ++ v1 ++ v2 ++ c3 ++ v4 ++ c5) &&& 0xFC0E0FFF#32 = c0 ++ 0#3 ++ 0#3 ++ c3 ++ 0#5 ++ c5 := (both (both (both (both (both (held c0) (free v1)) (free v2)) (held c3)) (free v4)) (held c5))
theorem shape40 (c0 : BitVec 6) (v1 : BitVec 3) (v2 : BitVec 3) (v3 : BitVec 3) (v4 : BitVec 5) (c5 : BitVec 12) :
    (c0 ++ v1 ++ v2 ++ v3 ++ v4 ++ c5) &&& 0xFC000FFF#32 = c0 ++ 0#3 ++ 0#3 ++ 0#3 ++ 0#5 ++ c5 := (both (both (both (both (both (held c0) (free v1)) (free v2)) (free v3)) (free v4)) (held c5))
theorem shape41 (c0 : BitVec 6) (v1 : BitVec 3) (v2 : BitVec 6) (v3 : BitVec 5) (c4 : BitVec 12) :
    (c0 ++ v1 ++ v2 ++ v3 ++ c4) &&& 0xFC000FFF#32 = c0 ++ 0#3 ++ 0#6 ++ 0#5 ++ c4 := (both (both (both (both (held c0) (free v1)) (free v2)) (free v3)) (held c4))
theorem shape42 (c0 : BitVec 6) (c1 : BitVec 6) (v2 : BitVec 7) (v3 : BitVec 10) (c4 : BitVec 3) :
    (c0 ++ c1 ++ v2 ++ v3 ++ c4) &&& 0xFFF00007#32 = c0 ++ c1 ++ 0#7 ++ 0#10 ++ c4 := (both (both (both (both (held c0) (held c1)) (free v2)) (free v3)) (held c4))
theorem shape43 (c0 : BitVec 6) (c1 : BitVec 13) (v2 : BitVec 10) (c3 : BitVec 3) :
    (c0 ++ c1 ++ v2 ++ c3) &&& 0xFFFFE007#32 = c0 ++ c1 ++ 0#10 ++ c3 := (both (both (both (held c0) (held c1)) (free v2)) (held c3))
theorem shape44 (c0 : BitVec 6) (c1 : BitVec 6) (v2 : BitVec 7) (c3 : BitVec 13) :
    (c0 ++ c1 ++ v2 ++ c3) &&& 0xFFF01FFF#32 = c0 ++ c1 ++ 0#7 ++ c3 := (both (both (both (held c0) (held c1)) (free v2)) (held c3))
theorem shape45 (c0 : BitVec 6) (c1 : BitVec 6) (v2 : BitVec 7) (c3 : BitVec 5) (v4 : BitVec 5) (c5 : BitVec 3) :
    (c0 ++ c1 ++ v2 ++ c3 ++ v4 ++ c5) &&& 0xFFF01F07#32 = c0 ++ c1 ++ 0#7 ++ c3 ++ 0#5 ++ c5 := (both (both (both (both (both (held c0) (held c1)) (free v2)) (held c3)) (free v4)) (held c5))
theorem shape46 (c0 : BitVec 6) (c1 : BitVec 13) (v2 : BitVec 1) (c3 : BitVec 4) (v4 : BitVec 5) (c5 : BitVec 3) :
    (c0 ++ c1 ++ v2 ++ c3 ++ v4 ++ c5) &&& 0xFFFFEF07#32 = c0 ++ c1 ++ 0#1 ++ c3 ++ 0#5 ++ c5 := (both (both (both (both (both (held c0) (held c1)) (free v2)) (held c3)) (free v4)) (held c5))

theorem ill : Statement (.ill) := shape1 0x0 0x0
theorem xtImm (p : BitVec 24) : Statement (.xtImm p) := shape2 0x3F 0x0 p
theorem xtOpd (l : BitVec 4) (c : BitVec 7) : Statement (.xtOpd l c) := shape3 0x3F 0x2000 l c
theorem xtMem (e : BitVec 1) (k : BitVec 3) (t : BitVec 2) (p : BitVec 2) : Statement (.xtMem e k t p) := shape4 0x3F 0x20000 e k t p
theorem add (d : BitVec 7) (a : BitVec 7) (b : BitVec 7) : Statement (.add d a b) := shape5 0x1 d a b 0x0
theorem sub (d : BitVec 7) (a : BitVec 7) (b : BitVec 7) : Statement (.sub d a b) := shape5 0x1 d a b 0x1
theorem and (d : BitVec 7) (a : BitVec 7) (b : BitVec 7) : Statement (.and d a b) := shape5 0x1 d a b 0x2
theorem or (d : BitVec 7) (a : BitVec 7) (b : BitVec 7) : Statement (.or d a b) := shape5 0x1 d a b 0x3
theorem xor (d : BitVec 7) (a : BitVec 7) (b : BitVec 7) : Statement (.xor d a b) := shape5 0x1 d a b 0x4
theorem andn (d : BitVec 7) (a : BitVec 7) (b : BitVec 7) : Statement (.andn d a b) := shape5 0x1 d a b 0x5
theorem shl (d : BitVec 7) (a : BitVec 7) (b : BitVec 7) : Statement (.shl d a b) := shape5 0x1 d a b 0x6
theorem shr (d : BitVec 7) (a : BitVec 7) (b : BitVec 7) : Statement (.shr d a b) := shape5 0x1 d a b 0x7
theorem sar (d : BitVec 7) (a : BitVec 7) (b : BitVec 7) : Statement (.sar d a b) := shape5 0x1 d a b 0x8
theorem rotl (d : BitVec 7) (a : BitVec 7) (b : BitVec 7) : Statement (.rotl d a b) := shape5 0x1 d a b 0x9
theorem min (d : BitVec 7) (a : BitVec 7) (b : BitVec 7) : Statement (.min d a b) := shape5 0x1 d a b 0xA
theorem max (d : BitVec 7) (a : BitVec 7) (b : BitVec 7) : Statement (.max d a b) := shape5 0x1 d a b 0xB
theorem minz (d : BitVec 7) (a : BitVec 7) (b : BitVec 7) : Statement (.minz d a b) := shape5 0x1 d a b 0xC
theorem maxz (d : BitVec 7) (a : BitVec 7) (b : BitVec 7) : Statement (.maxz d a b) := shape5 0x1 d a b 0xD
theorem mul (d : BitVec 7) (a : BitVec 7) (b : BitVec 7) : Statement (.mul d a b) := shape5 0x1 d a b 0xE
theorem mulh (d : BitVec 7) (a : BitVec 7) (b : BitVec 7) : Statement (.mulh d a b) := shape5 0x1 d a b 0xF
theorem mulhz (d : BitVec 7) (a : BitVec 7) (b : BitVec 7) : Statement (.mulhz d a b) := shape5 0x1 d a b 0x10
theorem absd (d : BitVec 7) (a : BitVec 7) (b : BitVec 7) : Statement (.absd d a b) := shape5 0x1 d a b 0x11
theorem add64 (d : BitVec 7) (a : BitVec 7) (b : BitVec 7) : Statement (.add64 d a b) := shape5 0x1 d a b 0x12
theorem sub64 (d : BitVec 7) (a : BitVec 7) (b : BitVec 7) : Statement (.sub64 d a b) := shape5 0x1 d a b 0x13
theorem popc (d : BitVec 7) (a : BitVec 7) : Statement (.popc d a) := shape6 0x1 d a 0x14
theorem clz (d : BitVec 7) (a : BitVec 7) : Statement (.clz d a) := shape6 0x1 d a 0x15
theorem brev (d : BitVec 7) (a : BitVec 7) : Statement (.brev d a) := shape6 0x1 d a 0x16
theorem sadd (d : BitVec 7) (a : BitVec 7) (b : BitVec 7) : Statement (.sadd d a b) := shape5 0x1 d a b 0x17
theorem ssub (d : BitVec 7) (a : BitVec 7) (b : BitVec 7) : Statement (.ssub d a b) := shape5 0x1 d a b 0x18
theorem addi (d : BitVec 7) (a : BitVec 7) (i : BitVec 12) : Statement (.addi d a i) := shape7 0x2 d a i
theorem andi (d : BitVec 7) (a : BitVec 7) (i : BitVec 12) : Statement (.andi d a i) := shape7 0x3 d a i
theorem ori (d : BitVec 7) (a : BitVec 7) (i : BitVec 12) : Statement (.ori d a i) := shape7 0x4 d a i
theorem xori (d : BitVec 7) (a : BitVec 7) (i : BitVec 12) : Statement (.xori d a i) := shape7 0x5 d a i
theorem shfiShl (d : BitVec 7) (a : BitVec 7) (n : BitVec 5) : Statement (.shfiShl d a n) := shape8 0x6 d a 0x0 n
theorem shfiShr (d : BitVec 7) (a : BitVec 7) (n : BitVec 5) : Statement (.shfiShr d a n) := shape8 0x6 d a 0x20 n
theorem shfiSar (d : BitVec 7) (a : BitVec 7) (n : BitVec 5) : Statement (.shfiSar d a n) := shape8 0x6 d a 0x40 n
theorem shfiRotl (d : BitVec 7) (a : BitVec 7) (n : BitVec 5) : Statement (.shfiRotl d a n) := shape8 0x6 d a 0x60 n
theorem movi (d : BitVec 7) (i : BitVec 19) : Statement (.movi d i) := shape9 0x7 d i
theorem movh (d : BitVec 7) (i : BitVec 19) : Statement (.movh d i) := shape9 0x8 d i
theorem icmp (p : BitVec 3) (m : BitVec 2) (a : BitVec 7) (b : BitVec 7) (c : BitVec 4) (t : BitVec 3) : Statement (.icmp p m a b c t) := shape10 0x9 p m a b c t
theorem icmpi (p : BitVec 3) (c : BitVec 4) (a : BitVec 7) (i : BitVec 12) : Statement (.icmpi p c a i) := shape11 0xA p c a i
theorem sel (d : BitVec 7) (a : BitVec 7) (b : BitVec 7) (g : BitVec 4) : Statement (.sel d a b g) := shape12 0xB d a b g 0x0
theorem imad (d : BitVec 7) (a : BitVec 7) (b : BitVec 7) : Statement (.imad d a b) := shape5 0xC d a b 0x0
theorem imadw (d : BitVec 7) (a : BitVec 7) (b : BitVec 7) : Statement (.imadw d a b) := shape5 0xC d a b 0x1
theorem imadwz (d : BitVec 7) (a : BitVec 7) (b : BitVec 7) : Statement (.imadwz d a b) := shape5 0xC d a b 0x2
theorem bfe (d : BitVec 7) (a : BitVec 7) (p : BitVec 5) (l : BitVec 5) : Statement (.bfe d a p l) := shape13 0xD d a p l 0x0
theorem bfez (d : BitVec 7) (a : BitVec 7) (p : BitVec 5) (l : BitVec 5) : Statement (.bfez d a p l) := shape13 0xD d a p l 0x1
theorem bfi (d : BitVec 7) (a : BitVec 7) (p : BitVec 5) (l : BitVec 5) : Statement (.bfi d a p l) := shape13 0xD d a p l 0x2
theorem bmsk (d : BitVec 7) (p : BitVec 5) (l : BitVec 5) : Statement (.bmsk d p l) := shape14 0xD d 0x0 p l 0x3
theorem padd (d : BitVec 7) (a : BitVec 7) (b : BitVec 7) : Statement (.padd d a b) := shape5 0xE d a b 0x0
theorem ptag (d : BitVec 7) (a : BitVec 7) (b : BitVec 7) : Statement (.ptag d a b) := shape5 0xE d a b 0x1
theorem prank (d : BitVec 7) (a : BitVec 7) (b : BitVec 7) : Statement (.prank d a b) := shape5 0xE d a b 0x2
theorem pinfo (d : BitVec 7) (a : BitVec 7) : Statement (.pinfo d a) := shape6 0xE d a 0x3
theorem phnd (d : BitVec 7) (a : BitVec 7) : Statement (.phnd d a) := shape6 0xE d a 0x4
theorem fadd (d : BitVec 7) (a : BitVec 7) (b : BitVec 7) : Statement (.fadd d a b) := shape5 0xF d a b 0x0
theorem fsub (d : BitVec 7) (a : BitVec 7) (b : BitVec 7) : Statement (.fsub d a b) := shape5 0xF d a b 0x1
theorem fmul (d : BitVec 7) (a : BitVec 7) (b : BitVec 7) : Statement (.fmul d a b) := shape5 0xF d a b 0x2
theorem fmin (d : BitVec 7) (a : BitVec 7) (b : BitVec 7) : Statement (.fmin d a b) := shape5 0xF d a b 0x3
theorem fmax (d : BitVec 7) (a : BitVec 7) (b : BitVec 7) : Statement (.fmax d a b) := shape5 0xF d a b 0x4
theorem fabs (d : BitVec 7) (a : BitVec 7) : Statement (.fabs d a) := shape6 0xF d a 0x5
theorem fneg (d : BitVec 7) (a : BitVec 7) : Statement (.fneg d a) := shape6 0xF d a 0x6
theorem fcpys (d : BitVec 7) (a : BitVec 7) (b : BitVec 7) : Statement (.fcpys d a b) := shape5 0xF d a b 0x7
theorem frndN (d : BitVec 7) (a : BitVec 7) : Statement (.frndN d a) := shape6 0xF d a 0x8
theorem frndZ (d : BitVec 7) (a : BitVec 7) : Statement (.frndZ d a) := shape6 0xF d a 0x9
theorem frndP (d : BitVec 7) (a : BitVec 7) : Statement (.frndP d a) := shape6 0xF d a 0xA
theorem frndM (d : BitVec 7) (a : BitVec 7) : Statement (.frndM d a) := shape6 0xF d a 0xB
theorem hadd2F16 (d : BitVec 7) (a : BitVec 7) (b : BitVec 7) : Statement (.hadd2F16 d a b) := shape5 0x10 d a b 0x0
theorem hsub2F16 (d : BitVec 7) (a : BitVec 7) (b : BitVec 7) : Statement (.hsub2F16 d a b) := shape5 0x10 d a b 0x1
theorem hmul2F16 (d : BitVec 7) (a : BitVec 7) (b : BitVec 7) : Statement (.hmul2F16 d a b) := shape5 0x10 d a b 0x2
theorem hmin2F16 (d : BitVec 7) (a : BitVec 7) (b : BitVec 7) : Statement (.hmin2F16 d a b) := shape5 0x10 d a b 0x3
theorem hmax2F16 (d : BitVec 7) (a : BitVec 7) (b : BitVec 7) : Statement (.hmax2F16 d a b) := shape5 0x10 d a b 0x4
theorem hadd2Bf16 (d : BitVec 7) (a : BitVec 7) (b : BitVec 7) : Statement (.hadd2Bf16 d a b) := shape5 0x10 d a b 0x10
theorem hsub2Bf16 (d : BitVec 7) (a : BitVec 7) (b : BitVec 7) : Statement (.hsub2Bf16 d a b) := shape5 0x10 d a b 0x11
theorem hmul2Bf16 (d : BitVec 7) (a : BitVec 7) (b : BitVec 7) : Statement (.hmul2Bf16 d a b) := shape5 0x10 d a b 0x12
theorem hmin2Bf16 (d : BitVec 7) (a : BitVec 7) (b : BitVec 7) : Statement (.hmin2Bf16 d a b) := shape5 0x10 d a b 0x13
theorem hmax2Bf16 (d : BitVec 7) (a : BitVec 7) (b : BitVec 7) : Statement (.hmax2Bf16 d a b) := shape5 0x10 d a b 0x14
theorem ffma (d : BitVec 7) (a : BitVec 7) (b : BitVec 7) : Statement (.ffma d a b) := shape5 0x11 d a b 0x0
theorem ffms (d : BitVec 7) (a : BitVec 7) (b : BitVec 7) : Statement (.ffms d a b) := shape5 0x11 d a b 0x1
theorem fnma (d : BitVec 7) (a : BitVec 7) (b : BitVec 7) : Statement (.fnma d a b) := shape5 0x11 d a b 0x2
theorem hfma2F16 (d : BitVec 7) (a : BitVec 7) (b : BitVec 7) : Statement (.hfma2F16 d a b) := shape5 0x11 d a b 0x3
theorem hfma2Bf16 (d : BitVec 7) (a : BitVec 7) (b : BitVec 7) : Statement (.hfma2Bf16 d a b) := shape5 0x11 d a b 0x4
theorem fcmp (p : BitVec 3) (m : BitVec 2) (a : BitVec 7) (b : BitVec 7) (c : BitVec 4) (t : BitVec 3) : Statement (.fcmp p m a b c t) := shape10 0x12 p m a b c t
theorem rcp (d : BitVec 7) (a : BitVec 7) : Statement (.rcp d a) := shape6 0x13 d a 0x0
theorem rsq (d : BitVec 7) (a : BitVec 7) : Statement (.rsq d a) := shape6 0x13 d a 0x1
theorem sqrt (d : BitVec 7) (a : BitVec 7) : Statement (.sqrt d a) := shape6 0x13 d a 0x2
theorem exp2 (d : BitVec 7) (a : BitVec 7) : Statement (.exp2 d a) := shape6 0x13 d a 0x3
theorem log2 (d : BitVec 7) (a : BitVec 7) : Statement (.log2 d a) := shape6 0x13 d a 0x4
theorem sinpi (d : BitVec 7) (a : BitVec 7) : Statement (.sinpi d a) := shape6 0x13 d a 0x5
theorem cospi (d : BitVec 7) (a : BitVec 7) : Statement (.cospi d a) := shape6 0x13 d a 0x6
theorem tanh (d : BitVec 7) (a : BitVec 7) : Statement (.tanh d a) := shape6 0x13 d a 0x7
theorem cvtF32F16 (d : BitVec 7) (a : BitVec 7) : Statement (.cvtF32F16 d a) := shape6 0x14 d a 0x0
theorem cvtF16F32 (d : BitVec 7) (a : BitVec 7) : Statement (.cvtF16F32 d a) := shape6 0x14 d a 0x1
theorem cvtF32Bf16 (d : BitVec 7) (a : BitVec 7) : Statement (.cvtF32Bf16 d a) := shape6 0x14 d a 0x2
theorem cvtBf16F32 (d : BitVec 7) (a : BitVec 7) : Statement (.cvtBf16F32 d a) := shape6 0x14 d a 0x3
theorem cvtS32F32 (d : BitVec 7) (a : BitVec 7) : Statement (.cvtS32F32 d a) := shape6 0x14 d a 0x4
theorem cvtZ32F32 (d : BitVec 7) (a : BitVec 7) : Statement (.cvtZ32F32 d a) := shape6 0x14 d a 0x5
theorem cvtF32S32 (d : BitVec 7) (a : BitVec 7) : Statement (.cvtF32S32 d a) := shape6 0x14 d a 0x6
theorem cvtF32Z32 (d : BitVec 7) (a : BitVec 7) : Statement (.cvtF32Z32 d a) := shape6 0x14 d a 0x7
theorem pack2 (d : BitVec 7) (a : BitVec 7) (b : BitVec 7) : Statement (.pack2 d a b) := shape5 0x14 d a b 0x8
theorem shfl (d : BitVec 7) (a : BitVec 7) (g : BitVec 5) : Statement (.shfl d a g) := shape15 0x15 d a g 0x0
theorem shflup (d : BitVec 7) (a : BitVec 7) (g : BitVec 5) : Statement (.shflup d a g) := shape15 0x15 d a g 0x8
theorem shfldn (d : BitVec 7) (a : BitVec 7) (g : BitVec 5) : Statement (.shfldn d a g) := shape15 0x15 d a g 0x10
theorem shflx (d : BitVec 7) (a : BitVec 7) (g : BitVec 5) : Statement (.shflx d a g) := shape15 0x15 d a g 0x18
theorem bcst (d : BitVec 7) (a : BitVec 7) (g : BitVec 5) : Statement (.bcst d a g) := shape15 0x15 d a g 0x20
theorem prev (d : BitVec 7) (a : BitVec 7) (g : BitVec 5) : Statement (.prev d a g) := shape15 0x15 d a g 0x28
theorem scanAdd (d : BitVec 7) (a : BitVec 7) (g : BitVec 5) : Statement (.scanAdd d a g) := shape15 0x15 d a g 0x30
theorem scanMin (d : BitVec 7) (a : BitVec 7) (g : BitVec 5) : Statement (.scanMin d a g) := shape15 0x15 d a g 0x31
theorem scanMax (d : BitVec 7) (a : BitVec 7) (g : BitVec 5) : Statement (.scanMax d a g) := shape15 0x15 d a g 0x32
theorem scanMinz (d : BitVec 7) (a : BitVec 7) (g : BitVec 5) : Statement (.scanMinz d a g) := shape15 0x15 d a g 0x33
theorem scanMaxz (d : BitVec 7) (a : BitVec 7) (g : BitVec 5) : Statement (.scanMaxz d a g) := shape15 0x15 d a g 0x34
theorem scanAnd (d : BitVec 7) (a : BitVec 7) (g : BitVec 5) : Statement (.scanAnd d a g) := shape15 0x15 d a g 0x35
theorem scanOr (d : BitVec 7) (a : BitVec 7) (g : BitVec 5) : Statement (.scanOr d a g) := shape15 0x15 d a g 0x36
theorem scanFadd (d : BitVec 7) (a : BitVec 7) (g : BitVec 5) : Statement (.scanFadd d a g) := shape15 0x15 d a g 0x37
theorem redAdd (d : BitVec 7) (a : BitVec 7) (g : BitVec 5) : Statement (.redAdd d a g) := shape15 0x15 d a g 0x38
theorem redMin (d : BitVec 7) (a : BitVec 7) (g : BitVec 5) : Statement (.redMin d a g) := shape15 0x15 d a g 0x39
theorem redMax (d : BitVec 7) (a : BitVec 7) (g : BitVec 5) : Statement (.redMax d a g) := shape15 0x15 d a g 0x3A
theorem redMinz (d : BitVec 7) (a : BitVec 7) (g : BitVec 5) : Statement (.redMinz d a g) := shape15 0x15 d a g 0x3B
theorem redMaxz (d : BitVec 7) (a : BitVec 7) (g : BitVec 5) : Statement (.redMaxz d a g) := shape15 0x15 d a g 0x3C
theorem redAnd (d : BitVec 7) (a : BitVec 7) (g : BitVec 5) : Statement (.redAnd d a g) := shape15 0x15 d a g 0x3D
theorem redOr (d : BitVec 7) (a : BitVec 7) (g : BitVec 5) : Statement (.redOr d a g) := shape15 0x15 d a g 0x3E
theorem redFadd (d : BitVec 7) (a : BitVec 7) (g : BitVec 5) : Statement (.redFadd d a g) := shape15 0x15 d a g 0x3F
theorem voteAny (d : BitVec 7) (a : BitVec 7) (g : BitVec 5) : Statement (.voteAny d a g) := shape15 0x15 d a g 0x40
theorem voteAll (d : BitVec 7) (a : BitVec 7) (g : BitVec 5) : Statement (.voteAll d a g) := shape15 0x15 d a g 0x41
theorem voteUni (d : BitVec 7) (a : BitVec 7) (g : BitVec 5) : Statement (.voteUni d a g) := shape15 0x15 d a g 0x42
theorem ballot (d : BitVec 7) (a : BitVec 7) (g : BitVec 5) : Statement (.ballot d a g) := shape15 0x15 d a g 0x48
theorem matchEq (d : BitVec 7) (a : BitVec 7) (g : BitVec 5) : Statement (.matchEq d a g) := shape15 0x15 d a g 0x50
theorem uadd (d : BitVec 5) (a : BitVec 5) (b : BitVec 5) : Statement (.uadd d a b) := shape16 0x16 d a b 0x0
theorem usub (d : BitVec 5) (a : BitVec 5) (b : BitVec 5) : Statement (.usub d a b) := shape16 0x16 d a b 0x1
theorem uand (d : BitVec 5) (a : BitVec 5) (b : BitVec 5) : Statement (.uand d a b) := shape16 0x16 d a b 0x2
theorem uor (d : BitVec 5) (a : BitVec 5) (b : BitVec 5) : Statement (.uor d a b) := shape16 0x16 d a b 0x3
theorem uxor (d : BitVec 5) (a : BitVec 5) (b : BitVec 5) : Statement (.uxor d a b) := shape16 0x16 d a b 0x4
theorem ushl (d : BitVec 5) (a : BitVec 5) (b : BitVec 5) : Statement (.ushl d a b) := shape16 0x16 d a b 0x5
theorem ushr (d : BitVec 5) (a : BitVec 5) (b : BitVec 5) : Statement (.ushr d a b) := shape16 0x16 d a b 0x6
theorem usar (d : BitVec 5) (a : BitVec 5) (b : BitVec 5) : Statement (.usar d a b) := shape16 0x16 d a b 0x7
theorem umul (d : BitVec 5) (a : BitVec 5) (b : BitVec 5) : Statement (.umul d a b) := shape16 0x16 d a b 0x8
theorem umin (d : BitVec 5) (a : BitVec 5) (b : BitVec 5) : Statement (.umin d a b) := shape16 0x16 d a b 0x9
theorem umax (d : BitVec 5) (a : BitVec 5) (b : BitVec 5) : Statement (.umax d a b) := shape16 0x16 d a b 0xA
theorem uminz (d : BitVec 5) (a : BitVec 5) (b : BitVec 5) : Statement (.uminz d a b) := shape16 0x16 d a b 0xB
theorem umaxz (d : BitVec 5) (a : BitVec 5) (b : BitVec 5) : Statement (.umaxz d a b) := shape16 0x16 d a b 0xC
theorem uaddi (d : BitVec 5) (a : BitVec 5) (i : BitVec 16) : Statement (.uaddi d a i) := shape17 0x17 d a i
theorem umovi (d : BitVec 5) (i : BitVec 16) : Statement (.umovi d i) := shape18 0x18 d 0x0 i
theorem umovh (d : BitVec 5) (i : BitVec 16) : Statement (.umovh d i) := shape18 0x19 d 0x0 i
theorem rdg (x : BitVec 7) (g : BitVec 5) : Statement (.rdg x g) := shape19 0x1A x g 0x0
theorem wrgf (x : BitVec 7) (g : BitVec 5) : Statement (.wrgf x g) := shape19 0x1A x g 0x1
theorem wrgt (x : BitVec 7) (g : BitVec 5) (n : BitVec 5) : Statement (.wrgt x g n) := shape20 0x1A x g n 0x2
theorem ldb (d : BitVec 7) (a : BitVec 7) (l : BitVec 4) (o : BitVec 8) : Statement (.ldb d a l o) := shape21 0x1B d a l o
theorem ldbs (d : BitVec 7) (a : BitVec 7) (l : BitVec 4) (o : BitVec 8) : Statement (.ldbs d a l o) := shape21 0x1C d a l o
theorem ldh (d : BitVec 7) (a : BitVec 7) (l : BitVec 4) (o : BitVec 8) : Statement (.ldh d a l o) := shape21 0x1D d a l o
theorem ldhs (d : BitVec 7) (a : BitVec 7) (l : BitVec 4) (o : BitVec 8) : Statement (.ldhs d a l o) := shape21 0x1E d a l o
theorem ldw (d : BitVec 7) (a : BitVec 7) (l : BitVec 4) (o : BitVec 8) : Statement (.ldw d a l o) := shape21 0x1F d a l o
theorem ldd (d : BitVec 7) (a : BitVec 7) (l : BitVec 4) (o : BitVec 8) : Statement (.ldd d a l o) := shape21 0x20 d a l o
theorem ldq (d : BitVec 7) (a : BitVec 7) (l : BitVec 4) (o : BitVec 8) : Statement (.ldq d a l o) := shape21 0x21 d a l o
theorem stb (s : BitVec 7) (a : BitVec 7) (g : BitVec 4) (o : BitVec 8) : Statement (.stb s a g o) := shape21 0x22 s a g o
theorem sth (s : BitVec 7) (a : BitVec 7) (g : BitVec 4) (o : BitVec 8) : Statement (.sth s a g o) := shape21 0x23 s a g o
theorem stw (s : BitVec 7) (a : BitVec 7) (g : BitVec 4) (o : BitVec 8) : Statement (.stw s a g o) := shape21 0x24 s a g o
theorem std (s : BitVec 7) (a : BitVec 7) (g : BitVec 4) (o : BitVec 8) : Statement (.std s a g o) := shape21 0x25 s a g o
theorem stq (s : BitVec 7) (a : BitVec 7) (g : BitVec 4) (o : BitVec 8) : Statement (.stq s a g o) := shape21 0x26 s a g o
theorem uldw (d : BitVec 5) (a : BitVec 5) (l : BitVec 4) (o : BitVec 12) : Statement (.uldw d a l o) := shape22 0x27 d a l o
theorem uldd (d : BitVec 5) (a : BitVec 5) (l : BitVec 4) (o : BitVec 12) : Statement (.uldd d a l o) := shape22 0x28 d a l o
theorem atomAdd (d : BitVec 7) (a : BitVec 7) (g : BitVec 4) (r : BitVec 2) (s : BitVec 2) (w : BitVec 1) : Statement (.atomAdd d a g r s w) := shape23 0x29 d a g 0x0 r s w
theorem atomMin (d : BitVec 7) (a : BitVec 7) (g : BitVec 4) (r : BitVec 2) (s : BitVec 2) (w : BitVec 1) : Statement (.atomMin d a g r s w) := shape23 0x29 d a g 0x1 r s w
theorem atomMax (d : BitVec 7) (a : BitVec 7) (g : BitVec 4) (r : BitVec 2) (s : BitVec 2) (w : BitVec 1) : Statement (.atomMax d a g r s w) := shape23 0x29 d a g 0x2 r s w
theorem atomMinz (d : BitVec 7) (a : BitVec 7) (g : BitVec 4) (r : BitVec 2) (s : BitVec 2) (w : BitVec 1) : Statement (.atomMinz d a g r s w) := shape23 0x29 d a g 0x3 r s w
theorem atomMaxz (d : BitVec 7) (a : BitVec 7) (g : BitVec 4) (r : BitVec 2) (s : BitVec 2) (w : BitVec 1) : Statement (.atomMaxz d a g r s w) := shape23 0x29 d a g 0x4 r s w
theorem atomAnd (d : BitVec 7) (a : BitVec 7) (g : BitVec 4) (r : BitVec 2) (s : BitVec 2) (w : BitVec 1) : Statement (.atomAnd d a g r s w) := shape23 0x29 d a g 0x5 r s w
theorem atomOr (d : BitVec 7) (a : BitVec 7) (g : BitVec 4) (r : BitVec 2) (s : BitVec 2) (w : BitVec 1) : Statement (.atomOr d a g r s w) := shape23 0x29 d a g 0x6 r s w
theorem atomXor (d : BitVec 7) (a : BitVec 7) (g : BitVec 4) (r : BitVec 2) (s : BitVec 2) (w : BitVec 1) : Statement (.atomXor d a g r s w) := shape23 0x29 d a g 0x7 r s w
theorem atomxExch (d : BitVec 7) (a : BitVec 7) (g : BitVec 4) (r : BitVec 2) (s : BitVec 2) (w : BitVec 1) : Statement (.atomxExch d a g r s w) := shape23 0x2A d a g 0x0 r s w
theorem atomxCas (d : BitVec 7) (a : BitVec 7) (g : BitVec 4) (r : BitVec 2) (s : BitVec 2) (w : BitVec 1) : Statement (.atomxCas d a g r s w) := shape23 0x2A d a g 0x1 r s w
theorem atomxFadd (d : BitVec 7) (a : BitVec 7) (g : BitVec 4) (r : BitVec 2) (s : BitVec 2) : Statement (.atomxFadd d a g r s) := shape24 0x2A d a g 0x2 r s 0x0
theorem fence (m : BitVec 8) (s : BitVec 2) : Statement (.fence m s) := shape25 0x2B m s 0x0
theorem setclr (c : BitVec 3) : Statement (.setclr c) := shape26 0x2B c 0x1
theorem mon (a : BitVec 7) : Statement (.mon a) := shape27 0x2B a 0x2
theorem monClr : Statement (.monClr) := shape1 0x2B 0x40002
theorem mwait (d : BitVec 5) (t : BitVec 5) : Statement (.mwait d t) := shape28 0x2B d t 0x3
theorem cede (n : BitVec 16) : Statement (.cede n) := shape29 0x2B n 0x4
theorem invl1 (s : BitVec 2) : Statement (.invl1 s) := shape30 0x2B s 0x5
theorem pref (a : BitVec 7) (v : BitVec 1) : Statement (.pref a v) := shape31 0x2B a v 0x6
theorem qfence (q : BitVec 4) : Statement (.qfence q) := shape32 0x2B q 0x7
theorem clkrd (d : BitVec 5) : Statement (.clkrd d) := shape33 0x2B d 0x8
theorem binit (a : BitVec 5) (b : BitVec 5) : Statement (.binit a b) := shape28 0x2C a b 0x0
theorem bexp (a : BitVec 5) (b : BitVec 5) : Statement (.bexp a b) := shape28 0x2C a b 0x1
theorem barv (a : BitVec 5) (b : BitVec 5) : Statement (.barv a b) := shape28 0x2C a b 0x2
theorem bwait (a : BitVec 5) (b : BitVec 5) (c : BitVec 5) (l : BitVec 4) : Statement (.bwait a b c l) := shape34 0x2C a b c l 0x3
theorem btest (a : BitVec 5) (b : BitVec 5) (c : BitVec 5) (l : BitVec 4) : Statement (.btest a b c l) := shape34 0x2C a b c l 0x4
theorem rinit (a : BitVec 5) (b : BitVec 5) (c : BitVec 5) : Statement (.rinit a b c) := shape16 0x2D a b c 0x0
theorem awaitf (a : BitVec 5) (b : BitVec 5) (c : BitVec 5) (l : BitVec 4) : Statement (.awaitf a b c l) := shape34 0x2D a b c l 0x1
theorem rels (a : BitVec 5) : Statement (.rels a) := shape33 0x2D a 0x2
theorem rstat (a : BitVec 5) (c : BitVec 5) (l : BitVec 4) : Statement (.rstat a c l) := shape35 0x2D a 0x0 c l 0x3
theorem awaitfEmpty (a : BitVec 5) (b : BitVec 5) (c : BitVec 5) (l : BitVec 4) : Statement (.awaitfEmpty a b c l) := shape34 0x2D a b c l 0x4
theorem cpy (a : BitVec 5) (b : BitVec 5) (c : BitVec 5) : Statement (.cpy a b c) := shape16 0x2E a b c 0x0
theorem cpyt (a : BitVec 5) (b : BitVec 5) (c : BitVec 5) : Statement (.cpyt a b c) := shape16 0x2E a b c 0x1
theorem cpys (a : BitVec 5) (b : BitVec 5) (c : BitVec 5) : Statement (.cpys a b c) := shape16 0x2E a b c 0x2
theorem cpym (a : BitVec 5) (b : BitVec 5) (c : BitVec 5) : Statement (.cpym a b c) := shape16 0x2E a b c 0x3
theorem cpyr (a : BitVec 5) (b : BitVec 5) (c : BitVec 5) : Statement (.cpyr a b c) := shape16 0x2E a b c 0x4
theorem bra (g : BitVec 4) (j : BitVec 4) (d : BitVec 18) : Statement (.bra g j d) := shape36 0x2F g j d
theorem call (g : BitVec 4) (j : BitVec 4) (d : BitVec 18) : Statement (.call g j d) := shape36 0x30 g j d
theorem calli (a : BitVec 7) : Statement (.calli a) := shape27 0x31 a 0x0
theorem bri (a : BitVec 7) : Statement (.bri a) := shape27 0x31 a 0x1
theorem ret : Statement (.ret) := shape1 0x31 0x2
theorem join (j : BitVec 4) : Statement (.join j) := shape32 0x31 j 0x3
theorem jmrk (j : BitVec 4) : Statement (.jmrk j) := shape32 0x31 j 0x4
theorem jclr (j : BitVec 4) : Statement (.jclr j) := shape32 0x31 j 0x5
theorem jsav (j : BitVec 4) (x : BitVec 7) : Statement (.jsav j x) := shape37 0x31 j x 0x6
theorem jrst (j : BitVec 4) (x : BitVec 7) : Statement (.jrst j x) := shape37 0x31 j x 0x7
theorem exit : Statement (.exit) := shape1 0x31 0x8
theorem yield : Statement (.yield) := shape1 0x31 0x9
theorem nop : Statement (.nop) := shape1 0x31 0xA
theorem mma (c : BitVec 3) (s : BitVec 3) (t : BitVec 3) (a : BitVec 5) (b : BitVec 5) (z : BitVec 1) : Statement (.mma c s t a b z) := shape38 0x32 c s t a b 0x0 z
theorem mma2 (c : BitVec 3) (s : BitVec 3) (t : BitVec 3) (a : BitVec 5) (b : BitVec 5) (z : BitVec 1) : Statement (.mma2 c s t a b z) := shape38 0x32 c s t a b 0x1 z
theorem acqa (c : BitVec 3) : Statement (.acqa c) := shape26 0x33 c 0x0
theorem rela (c : BitVec 3) : Statement (.rela c) := shape26 0x33 c 0x1
theorem lda (c : BitVec 3) (s : BitVec 3) (a : BitVec 5) : Statement (.lda c s a) := shape39 0x33 c s 0x0 a 0x2
theorem sta (c : BitVec 3) (s : BitVec 3) (a : BitVec 5) : Statement (.sta c s a) := shape39 0x33 c s 0x0 a 0x3
theorem drain (c : BitVec 3) (s : BitVec 3) (t : BitVec 3) (a : BitVec 5) : Statement (.drain c s t a) := shape40 0x33 c s t a 0x4
theorem zacc (c : BitVec 3) : Statement (.zacc c) := shape26 0x33 c 0x5
theorem accrd (c : BitVec 3) (x : BitVec 6) (a : BitVec 5) : Statement (.accrd c x a) := shape41 0x33 c x a 0x6
theorem accwr (c : BitVec 3) (x : BitVec 6) (a : BitVec 5) : Statement (.accwr c x a) := shape41 0x33 c x a 0x7
theorem srd (x : BitVec 7) (i : BitVec 10) : Statement (.srd x i) := shape42 0x34 0x0 x i 0x0
theorem swr (x : BitVec 7) (i : BitVec 10) : Statement (.swr x i) := shape42 0x34 0x1 x i 0x0
theorem trap (n : BitVec 10) : Statement (.trap n) := shape43 0x34 0x100 n 0x0
theorem bkpt (n : BitVec 10) : Statement (.bkpt n) := shape43 0x34 0x180 n 0x0
theorem emit (x : BitVec 7) (n : BitVec 10) : Statement (.emit x n) := shape42 0x34 0x4 x n 0x0
theorem migr (x : BitVec 7) : Statement (.migr x) := shape44 0x34 0x5 x 0x0
theorem launch (x : BitVec 7) (g : BitVec 5) : Statement (.launch x g) := shape45 0x34 0x6 x 0x0 g 0x0
theorem haltctx (c : BitVec 1) (g : BitVec 5) : Statement (.haltctx c g) := shape46 0x34 0x380 c 0x0 g 0x0
theorem rft : Statement (.rft) := shape1 0x34 0x800000
theorem cycrd (x : BitVec 7) : Statement (.cycrd x) := shape44 0x34 0x9 x 0x0
theorem trapDelivery (g : Nat) : Statement (.trapDelivery g) := trivial
theorem workgroupStart (gd : Nat) (team : Nat) (core : Nat) : Statement (.workgroupStart gd team core) := trivial
theorem roundApply (dom : Nat) : Statement (.roundApply dom) := trivial
theorem groupWake (g : Nat) : Statement (.groupWake g) := trivial
theorem mwaitTimeout (g : Nat) : Statement (.mwaitTimeout g) := trivial
theorem cedeExpiry (g : Nat) : Statement (.cedeExpiry g) := trivial
theorem deadlock (dom : Nat) : Statement (.deadlock dom) := trivial
theorem externalWriteLand (i : Nat) : Statement (.externalWriteLand i) := trivial
theorem hostBarWrite (addr : Nat) (data : List (BitVec 8)) : Statement (.hostBarWrite addr data) := trivial
theorem hostCompletion (g : Nat) (status : BitVec 8) (data : List (BitVec 8)) : Statement (.hostCompletion g status data) := trivial
theorem loadResponse (g : Nat) (k : Nat) : Statement (.loadResponse g k) := trivial
theorem storePerform (g : Nat) (k : Nat) : Statement (.storePerform g k) := trivial
theorem atomicPerform (g : Nat) (k : Nat) : Statement (.atomicPerform g k) := trivial
theorem copyPerform (i : Nat) (status : BitVec 8) : Statement (.copyPerform i status) := trivial
theorem mxuComplete (core : Nat) : Statement (.mxuComplete core) := trivial
theorem migrArrival (g : Nat) (core : Nat) : Statement (.migrArrival g core) := trivial
theorem haltctxComplete (g : Nat) : Statement (.haltctxComplete g) := trivial
theorem tierMigration (pte : Nat) (frame : Nat) : Statement (.tierMigration pte frame) := trivial
theorem wayMove (slice : Nat) (src : Nat) (dst : Nat) : Statement (.wayMove slice src dst) := trivial
theorem timeSliceSwitch : Statement (.timeSliceSwitch) := trivial
theorem machineCheck (unit : BitVec 4) (loc : BitVec 64) : Statement (.machineCheck unit loc) := trivial
theorem faultRingWrite (i : Nat) : Statement (.faultRingWrite i) := trivial
theorem tinvPage (f : Nat) (va : BitVec 55) : Statement (.tinvPage f va) := trivial
theorem tinvAsid (f : Nat) (asid : BitVec 12) : Statement (.tinvAsid f asid) := trivial
theorem tinvFunction (f : Nat) : Statement (.tinvFunction f) := trivial
theorem tinvComplete (f : Nat) : Statement (.tinvComplete f) := trivial
theorem facmdBaseFrame (frame : Nat) : Statement (.facmdBaseFrame frame) := trivial
theorem facmdHugeFrame (frame : Nat) : Statement (.facmdHugeFrame frame) := trivial
theorem facmdTableFrame (frame : Nat) : Statement (.facmdTableFrame frame) := trivial
theorem facmdRelease : Statement (.facmdRelease) := trivial
theorem freplyRetry (f : Nat) (id : BitVec 32) : Statement (.freplyRetry f id) := trivial
theorem freplyFail (f : Nat) (id : BitVec 32) : Statement (.freplyFail f id) := trivial
theorem qctlEnable (q : Nat) (v : BitVec 64) : Statement (.qctlEnable q v) := trivial
theorem qctlDisable (q : Nat) (v : BitVec 64) : Statement (.qctlDisable q v) := trivial
theorem qtailDoorbell (q : Nat) (v : BitVec 32) : Statement (.qtailDoorbell q v) := trivial
theorem packetFetch (q : Nat) : Statement (.packetFetch q) := trivial
theorem nopPacket (q : Nat) (seq : Nat) : Statement (.nopPacket q seq) := trivial
theorem launchPacket (q : Nat) (seq : Nat) : Statement (.launchPacket q seq) := trivial
theorem waitseq (q : Nat) (seq : Nat) : Statement (.waitseq q seq) := trivial
theorem signal (q : Nat) (seq : Nat) : Statement (.signal q seq) := trivial
theorem quiesceStop (q : Nat) (seq : Nat) : Statement (.quiesceStop q seq) := trivial
theorem quiesceResume (q : Nat) (seq : Nat) : Statement (.quiesceResume q seq) := trivial
theorem quiesceStopAndSave (q : Nat) (seq : Nat) : Statement (.quiesceStopAndSave q seq) := trivial
theorem domainQuiesced (dom : Nat) : Statement (.domainQuiesced dom) := trivial
theorem telemAttach (q : Nat) (seq : Nat) : Statement (.telemAttach q seq) := trivial
theorem telemDetach (q : Nat) (seq : Nat) : Statement (.telemDetach q seq) := trivial
theorem gridComplete (gd : Nat) : Statement (.gridComplete gd) := trivial
theorem pctlSave (q : Nat) : Statement (.pctlSave q) := trivial
theorem saveDone (q : Nat) : Statement (.saveDone q) := trivial
theorem pctlRestore (q : Nat) : Statement (.pctlRestore q) := trivial
theorem pctlDiscard (q : Nat) : Statement (.pctlDiscard q) := trivial
theorem pcrEnable (f : Nat) (v : BitVec 64) : Statement (.pcrEnable f v) := trivial
theorem pcrDisable (f : Nat) (v : BitVec 64) : Statement (.pcrDisable f v) := trivial
theorem pcrFlr (f : Nat) (v : BitVec 64) : Statement (.pcrFlr f v) := trivial
theorem pcieFlr (f : Nat) : Statement (.pcieFlr f) := trivial
theorem flrDone (f : Nat) : Statement (.flrDone f) := trivial
theorem pfResourceWrite (off : Nat) (v : BitVec 64) : Statement (.pfResourceWrite off v) := trivial
theorem tbudWrite (f : Nat) (v : BitVec 64) : Statement (.tbudWrite f v) := trivial
theorem mergeSum (f : Nat) (v : BitVec 64) : Statement (.mergeSum f v) := trivial
theorem mergeMax (f : Nat) (v : BitVec 64) : Statement (.mergeMax f v) := trivial
theorem registerWrite (off : Nat) (size : Nat) (v : BitVec 64) : Statement (.registerWrite off size v) := trivial
theorem tcoRecordIntake (t : Nat) : Statement (.tcoRecordIntake t) := trivial
theorem tcoRun (t : Nat) (f : Nat) : Statement (.tcoRun t f) := trivial
theorem budgetWindow (t : Nat) : Statement (.budgetWindow t) := trivial
theorem fabricFlitReceive (w0 : BitVec 64) (w1 : BitVec 64) (data : List (BitVec 8)) : Statement (.fabricFlitReceive w0 w1 data) := trivial
theorem reductionResult (w : Nat) (o : Nat) : Statement (.reductionResult w o) := trivial
theorem boot (images : List (List (BitVec 8))) : Statement (.boot images) := trivial
theorem spdmRequest (req : List (BitVec 8)) : Statement (.spdmRequest req) := trivial
theorem copySourceReadDone (i : Nat) : Statement (.copySourceReadDone i) := trivial
theorem barrierNetworkArrival (i : Nat) : Statement (.barrierNetworkArrival i) := trivial
theorem nackRetry (g : Nat) : Statement (.nackRetry g) := trivial
theorem correctableError (unit : BitVec 4) (loc : BitVec 64) : Statement (.correctableError unit loc) := trivial
theorem mergeComplete (f : Nat) : Statement (.mergeComplete f) := trivial
theorem tdispRequest (f : Nat) (msg : BitVec 8) : Statement (.tdispRequest f msg) := trivial

end Sys2Proof.Laws.TableBits
end

