-- ==== Sys2Proof/Laws/Total.lean ====
section
/-!
SUPPORT. Every instruction, every event and every step answers a next state: the machine never faults and refuses
nothing. Every stop that the spec describes is a trap, and a trap is a next state.
-/
namespace Sys2Proof.Machine

theorem telemDetach_next (q seq : Nat) (s : State) : ∃ t, execTelemDetach q seq s = .next t := by
  unfold execTelemDetach
  split <;> exact ⟨_, rfl⟩

/-- Every instruction of the opcode table answers a next state, in every state. -/
theorem exec_next (i : Instr) (s : State) : ∃ t, exec i s = .next t := by
  cases i
  case atomxCas d a g r sc w =>
    show ∃ t, execAtomxCas d a g r sc w s = .next t
    unfold execAtomxCas
    split <;> exact ⟨_, rfl⟩
  case telemDetach q seq => exact telemDetach_next q seq s
  all_goals exact ⟨_, rfl⟩

theorem runWord_next (s : State) (w : Word) : ∃ t, s.runWord w = .next t := by
  unfold State.runWord
  split
  · exact exec_next _ _
  · exact ⟨_, rfl⟩

theorem runPair_next (s : State) (w v : Word) : ∃ t, s.runPair w v = .next t := by
  unfold State.runPair
  split
  · exact ⟨_, rfl⟩
  · rename_i x _
    obtain ⟨t, ht⟩ := exec_next x { s with ir := w }
    simp only [ht]
    split
    · exact ⟨_, rfl⟩
    · exact runWord_next _ _

theorem issueGroup_next (s : State) (i : Nat) : ∃ t, s.issueGroup i = .next t := by
  unfold State.issueGroup
  dsimp only
  split
  · exact ⟨_, rfl⟩
  · split
    · exact ⟨_, rfl⟩
    · exact runWord_next _ _
    · exact runPair_next _ _ _

theorem issueOrHalt_next (s : State) (i : Nat) : ∃ t, s.issueOrHalt i = .next t := by
  obtain ⟨t, ht⟩ := issueGroup_next s i
  unfold State.issueOrHalt
  simp only [ht]
  split <;> exact ⟨_, rfl⟩

theorem turnTo_next (s : State) (i c : Nat) : ∃ t, s.turnTo i c = .next t := by
  unfold State.turnTo
  dsimp only
  split
  · obtain ⟨t, ht⟩ := issueOrHalt_next { s with cut := some c } i
    simp only [ht]
    exact ⟨_, rfl⟩
  · exact ⟨_, rfl⟩

theorem turn_next (s : State) (i : Nat) : ∃ t, s.turn i = .next t := by
  unfold State.turn
  split
  · exact issueOrHalt_next s i
  · exact ⟨_, rfl⟩

theorem performRow_next (s : State) (c : Command) : ∃ t, s.performRow c = .next t := by
  cases c <;> exact ⟨_, rfl⟩

theorem perform_next (s : State) (c : Command) : ∃ t, s.perform c = .next t := by
  unfold State.perform
  cases s.rowOf c
  · exact ⟨_, rfl⟩
  · exact performRow_next s _

theorem runItem_next (s : State) (it : Item) : ∃ t, s.runItem it = .next t := by
  unfold State.runItem
  split
  · exact turn_next s _
  · exact turnTo_next s _ _
  · split
    · exact exec_next _ s
    · exact ⟨_, rfl⟩
  · exact ⟨_, rfl⟩

theorem firstOf_next {α : Type} (xs : List α) (p : α → Bool) (f : α → State → Next)
    (h : ∀ x s, ∃ t, f x s = .next t) (s : State) (o : Next) (e : firstOf xs p f s = some o) : ∃ t, o = .next t := by
  unfold firstOf at e
  cases hx : xs.find? p with
  | none => simp [hx] at e
  | some x =>
    simp only [hx, Option.map_some, Option.some.injEq] at e
    exact e ▸ h x s

theorem pick_next (s : State) (l : List (State → Option Next)) (h : ∀ c ∈ l, ∀ o, c s = some o → ∃ t, o = .next t) :
    ∃ t, s.pick l = .next t := by
  induction l with
  | nil => exact ⟨s, rfl⟩
  | cons c r ih =>
    unfold State.pick
    cases hc : c s with
    | some o => exact h c (by simp) o hc
    | none => exact ih (fun c' hm => h c' (by simp [hm]))

theorem idle_next (s : State) : ∃ t, s.idle = .next t := by
  apply pick_next
  intro c hc
  have one : ∀ {α : Type} (xs : List α) (p : α → Bool) (f : α → State → Next), (∀ x s, ∃ t, f x s = .next t) →
      ∀ o, firstOf xs p f s = some o → ∃ t, o = .next t := fun xs p f h o e => firstOf_next xs p f h s o e
  have perform : ∀ x s, ∃ t, performMove x s = .next t := by
    intro x s; unfold performMove; split
    · exact ⟨_, rfl⟩
    · split <;> exact ⟨_, rfl⟩
  have alloc : ∀ s, ∃ t, allocMove s = .next t := by
    intro s; unfold allocMove; dsimp only; repeat' split
    all_goals exact ⟨_, rfl⟩
  have begins : ∀ p s, ∃ t, beginMove p s = .next t := by
    intro p s
    unfold beginMove
    generalize p.kind = k
    rcases k with _ | _ | _ | _ | _ | _ | k <;> try exact ⟨_, rfl⟩
    · generalize (p.word 3).toNat % 4 = op
      rcases op with _ | _ | _ | op <;> exact ⟨_, rfl⟩
    · show ∃ t, (if p.telDetach then execTelemDetach p.queue p.seq else execTelemAttach p.queue p.seq) s = .next t
      cases p.telDetach
      · exact ⟨_, rfl⟩
      · exact telemDetach_next _ _ s
  have group : ∀ i s, ∃ t, groupTurn i s = .next t := by
    intro i s; unfold groupTurn; split
    · exact turn_next s i
    · split <;> exact ⟨_, rfl⟩
  have starts : ∀ o, startMove s = some o → ∃ t, o = .next t := by
    intro o e
    obtain ⟨gd, _, hgd⟩ := List.exists_of_findSome?_eq_some e
    split at hgd
    · cases hgd
    · simp only [Option.map_eq_some_iff] at hgd
      obtain ⟨x, _, rfl⟩ := hgd
      exact ⟨_, rfl⟩
  have arrives : ∀ o, arrivalMove s = some o → ∃ t, o = .next t := by
    intro o e
    obtain ⟨i, _, hi⟩ := List.exists_of_findSome?_eq_some e
    split at hi
    · cases hi
    · simp only [Option.map_eq_some_iff] at hi
      obtain ⟨x, _, rfl⟩ := hi
      exact ⟨_, rfl⟩
  simp only [State.agents, List.mem_cons, List.not_mem_nil, or_false] at hc
  rcases hc with rfl | rfl | rfl | rfl | rfl | rfl | rfl | rfl | rfl | rfl | rfl | rfl | rfl | rfl | rfl | rfl | rfl | rfl |
    rfl | rfl | rfl | rfl | rfl | rfl | rfl | rfl | rfl | rfl | rfl | rfl | rfl
  all_goals first
    | exact starts
    | exact arrives
    | exact one _ _ _ (fun _ s => turn_next s _)
    | exact one _ _ _ perform
    | exact one _ _ _ (fun _ s => alloc s)
    | exact one _ _ _ begins
    | exact one _ _ _ group
    | exact one _ _ _ (fun _ s => telemDetach_next _ _ s)
    | exact one _ _ _ (fun _ _ => ⟨_, rfl⟩)

theorem follow_next (s : State) : ∃ t, s.follow = .next t := by
  unfold State.follow
  split
  · exact runItem_next _ _
  · exact idle_next s

/-- Every step answers a next state. -/
theorem step_next (s : State) : ∃ t, step s = .next t := by
  unfold step State.advance
  split
  · split
    · exact perform_next _ _
    · exact follow_next s
  · exact follow_next s

end Sys2Proof.Machine
end

