-- ==== Sys2Proof/Tests/Slice0.lean ====
section
/-!
SUPPORT. Tests of the model: ill-formed terms that the check refuses, a word for every encoding of the opcode map, steps
whose results the spec works out, and for every statement a state and operands that meet its hypotheses.
-/
open Sys2Proof Sys2Proof.Machine

namespace Sys2Proof.Tests

set_option Elab.async false
set_option maxRecDepth 100000
set_option exponentiation.threshold 1024

/-! ### States for the tests -/

/-- A translation of the data page, known and dirty. -/
def dataPage : TlbEntry := ⟨0, 0xFFF, 2, 0x50000, 0x50209, 0x30010, none, 2, none, true⟩

/-- Threads 0 and 1 of one group before an instruction at 0x10000, under the record flags `flags`. x20:x21 and g20:g21
point to the data page, x22:x23 and g22:g23 to scratchpad. -/
def program (flags : Byte) : State :=
  let s := State.reset.withFetchWord 32 0
  { s with
    agenda := [], at' := 0x10000, tlb := [dataPage]
    grids := s.grids.map (fun (g : Grid) => { g with lrec := g.lrec.set 0x2B flags })
    groups := s.groups.map (fun (g : Group) => { g with
      exited := 0xFFFFFFFC
      x := [(20, 0x20000), (23, 0x10000000), (148, 0x20000), (151, 0x10000000)]
      g := [(20, 0x20000), (23, 0x10000000)] }) }

/-- A FREE group. -/
def free : State := program 0

/-- An ORDERED group. -/
def ordered : State := program 1

/-- The group changed. -/
def grp0 (s : State) (f : Group → Group) : State := { s with groups := s.groups.map f }

/-- Registers of both threads. -/
def regs (s : State) (l : List (Nat × Word)) : State :=
  grp0 s (fun g => l.foldl (fun (g : Group) e => (g.wx 0 e.1 e.2).wx 1 e.1 e.2) g)

/-- Uniform registers. -/
def unis (s : State) (l : List (Nat × Word)) : State :=
  grp0 s (fun g => l.foldl (fun (g : Group) e => g.wg' e.1 e.2) g)

/-- Thread 1 stands elsewhere. -/
def apart (s : State) : State := grp0 s (fun g => g.wpc 1 0x10040)

/-- The grid changed. -/
def grid0 (s : State) (f : Grid → Grid) : State := { s with grids := s.grids.map f }

/-- A byte of the launch record. -/
def recByte (s : State) (o : Nat) (b : Byte) : State := grid0 s (fun g => { g with lrec := g.lrec.set o b })

/-- FLAGS with a handler, in FREE and in ORDERED mode. -/
def handled : State := program 0x11

/-! ### Well-formedness -/

/-- A code outside its range is refused, one at the end of the range is not (R270, R271, R289, R316). -/
theorem test_wf_conditions :
    (Instr.icmp 0 0 1 2 10 0).wf = false ∧ (Instr.icmp 0 0 1 2 9 2).wf = false ∧ (Instr.icmp 0 0 1 2 9 1).wf = true ∧
      (Instr.icmpi 0 10 1 0).wf = false ∧ (Instr.icmpi 0 9 1 0).wf = true ∧ (Instr.fcmp 0 0 1 2 8 0).wf = false ∧
      (Instr.fcmp 0 0 1 2 7 3).wf = false ∧ (Instr.fcmp 0 0 1 2 7 2).wf = true := by decide +kernel

/-- A bit field that runs past bit 31 is refused (R292). -/
theorem test_wf_bit_fields :
    (Instr.bfe 1 2 31 1).wf = false ∧ (Instr.bfez 1 2 16 16).wf = false ∧ (Instr.bfi 1 2 1 31).wf = false ∧
      (Instr.bmsk 1 30 2).wf = false ∧ (Instr.bfe 1 2 31 0).wf = true ∧ (Instr.bmsk 1 0 31).wf = true := by decide +kernel

/-- Cores 0 to 1151, slices 0 to 127, functions 0 to 31, coprocessors 0 to 8, windows 0 to 31 (R5, R435, R408, R459). -/
theorem test_wf_units :
    (Instr.mxuComplete 1152).wf = false ∧ (Instr.migrArrival 0 1152).wf = false ∧ (Instr.wayMove 128 0 1).wf = false ∧
      (Instr.wayMove 0 33 1).wf = false ∧ (Instr.wayMove 0 1 33).wf = false ∧ (Instr.wayMove 127 32 0).wf = true ∧
      (Instr.tcoRecordIntake 9).wf = false ∧ (Instr.tcoRun 9 0).wf = false ∧ (Instr.tcoRun 0 32).wf = false ∧
      (Instr.budgetWindow 9).wf = false ∧ (Instr.reductionResult 32 0).wf = false ∧ (Instr.tcoRun 8 31).wf = true := by
  decide +kernel

/-- Functions of translation, partitioning, merging and TDISP. -/
theorem test_wf_functions :
    ∀ i ∈ [Instr.tinvPage 32 0, .tinvAsid 32 0, .tinvFunction 32, .tinvComplete 32, .freplyRetry 32 0, .freplyFail 32 0,
      .pcrEnable 32 0, .pcrDisable 32 0, .pcrFlr 32 0, .pcieFlr 32, .flrDone 32, .tbudWrite 32 0, .mergeSum 32 0,
      .mergeMax 32 0, .mergeComplete 32, .tdispRequest 32 0], i.wf = false := by decide +kernel

/-- Queues 0 to 16383, and register writes of 4 or 8 bytes (R48, R218). -/
theorem test_wf_queues :
    (∀ i ∈ [Instr.qctlEnable 16384 0, .qctlDisable 16384 0, .qtailDoorbell 16384 0, .packetFetch 16384, .pctlSave 16384,
      .saveDone 16384, .pctlRestore 16384, .pctlDiscard 16384, .registerWrite 0 2 0, .registerWrite 0 16 0],
      i.wf = false) ∧ (Instr.registerWrite 0 8 0).wf = true ∧ (Instr.pctlSave 16383).wf = true := by decide +kernel

/-! ### Decoding

A word of every encoding, written out in its fields from the formats and the opcode map (R259, R270). -/

theorem test_decode_00 :
    decodeWord 0b000000_00000000000000000000000000 = .ok .ill :=
  rfl

theorem test_decode_01_a :
    decodeWord 0b000001_1000110_0010011_1100010_00000 = .ok (.add 70 19 98) ∧
    decodeWord 0b000001_1000110_0010011_1100010_00001 = .ok (.sub 70 19 98) ∧
    decodeWord 0b000001_1000110_0010011_1100010_00010 = .ok (.and 70 19 98) ∧
    decodeWord 0b000001_1000110_0010011_1100010_00011 = .ok (.or 70 19 98) ∧
    decodeWord 0b000001_1000110_0010011_1100010_00100 = .ok (.xor 70 19 98) ∧
    decodeWord 0b000001_1000110_0010011_1100010_00101 = .ok (.andn 70 19 98) ∧
    decodeWord 0b000001_1000110_0010011_1100010_00110 = .ok (.shl 70 19 98) ∧
    decodeWord 0b000001_1000110_0010011_1100010_00111 = .ok (.shr 70 19 98) ∧
    decodeWord 0b000001_1000110_0010011_1100010_01000 = .ok (.sar 70 19 98) ∧
    decodeWord 0b000001_1000110_0010011_1100010_01001 = .ok (.rotl 70 19 98) ∧
    decodeWord 0b000001_1000110_0010011_1100010_01010 = .ok (.min 70 19 98) ∧
    decodeWord 0b000001_1000110_0010011_1100010_01011 = .ok (.max 70 19 98) ∧
    decodeWord 0b000001_1000110_0010011_1100010_01100 = .ok (.minz 70 19 98) ∧
    decodeWord 0b000001_1000110_0010011_1100010_01101 = .ok (.maxz 70 19 98) :=
  ⟨rfl, rfl, rfl, rfl, rfl, rfl, rfl, rfl, rfl, rfl, rfl, rfl, rfl, rfl⟩

theorem test_decode_01_b :
    decodeWord 0b000001_1000110_0010011_1100010_01110 = .ok (.mul 70 19 98) ∧
    decodeWord 0b000001_1000110_0010011_1100010_01111 = .ok (.mulh 70 19 98) ∧
    decodeWord 0b000001_1000110_0010011_1100010_10000 = .ok (.mulhz 70 19 98) ∧
    decodeWord 0b000001_1000110_0010011_1100010_10001 = .ok (.absd 70 19 98) ∧
    decodeWord 0b000001_1000110_0010011_1100010_10010 = .ok (.add64 70 19 98) ∧
    decodeWord 0b000001_1000110_0010011_1100010_10011 = .ok (.sub64 70 19 98) ∧
    decodeWord 0b000001_1000110_0010011_000000010100 = .ok (.popc 70 19) ∧
    decodeWord 0b000001_1000110_0010011_000000010101 = .ok (.clz 70 19) ∧
    decodeWord 0b000001_1000110_0010011_000000010110 = .ok (.brev 70 19) ∧
    decodeWord 0b000001_1000110_0010011_1100010_10111 = .ok (.sadd 70 19 98) ∧
    decodeWord 0b000001_1000110_0010011_1100010_11000 = .ok (.ssub 70 19 98) :=
  ⟨rfl, rfl, rfl, rfl, rfl, rfl, rfl, rfl, rfl, rfl, rfl⟩

theorem test_decode_02_to_06 :
    decodeWord 0b000010_1000110_0010011_010110101001 = .ok (.addi 70 19 1449) ∧
    decodeWord 0b000011_1000110_0010011_010110101001 = .ok (.andi 70 19 1449) ∧
    decodeWord 0b000100_1000110_0010011_010110101001 = .ok (.ori 70 19 1449) ∧
    decodeWord 0b000101_1000110_0010011_010110101001 = .ok (.xori 70 19 1449) ∧
    decodeWord 0b000110_1000110_0010011_0000000_01101 = .ok (.shfiShl 70 19 13) ∧
    decodeWord 0b000110_1000110_0010011_0100000_01101 = .ok (.shfiShr 70 19 13) ∧
    decodeWord 0b000110_1000110_0010011_1000000_01101 = .ok (.shfiSar 70 19 13) ∧
    decodeWord 0b000110_1000110_0010011_1100000_01101 = .ok (.shfiRotl 70 19 13) :=
  ⟨rfl, rfl, rfl, rfl, rfl, rfl, rfl, rfl⟩

theorem test_decode_07_to_0C :
    decodeWord 0b000111_1000110_0111110010110101001 = .ok (.movi 70 255401) ∧
    decodeWord 0b001000_1000110_0111110010110101001 = .ok (.movh 70 255401) ∧
    decodeWord 0b001001_101_11_1100010_0101100_1001_001 = .ok (.icmp 5 3 98 44 9 1) ∧
    decodeWord 0b001010_101_1001_1100010_010110101001 = .ok (.icmpi 5 9 98 1449) ∧
    decodeWord 0b001011_1000110_0010011_1100010_0110_0 = .ok (.sel 70 19 98 6) ∧
    decodeWord 0b001100_1000110_0010011_1100010_00000 = .ok (.imad 70 19 98) ∧
    decodeWord 0b001100_1000110_0010011_1100010_00001 = .ok (.imadw 70 19 98) ∧
    decodeWord 0b001100_1000110_0010011_1100010_00010 = .ok (.imadwz 70 19 98) :=
  ⟨rfl, rfl, rfl, rfl, rfl, rfl, rfl, rfl⟩

theorem test_decode_0D_to_0E :
    decodeWord 0b001101_1000110_0010011_10010_01101_00 = .ok (.bfe 70 19 18 13) ∧
    decodeWord 0b001101_1000110_0010011_10010_01101_01 = .ok (.bfez 70 19 18 13) ∧
    decodeWord 0b001101_1000110_0010011_10010_01101_10 = .ok (.bfi 70 19 18 13) ∧
    decodeWord 0b001101_1000110_0000000_10010_01101_11 = .ok (.bmsk 70 18 13) ∧
    decodeWord 0b001110_1000110_0010011_1100010_00000 = .ok (.padd 70 19 98) ∧
    decodeWord 0b001110_1000110_0010011_1100010_00001 = .ok (.ptag 70 19 98) ∧
    decodeWord 0b001110_1000110_0010011_1100010_00010 = .ok (.prank 70 19 98) ∧
    decodeWord 0b001110_1000110_0010011_000000000011 = .ok (.pinfo 70 19) ∧
    decodeWord 0b001110_1000110_0010011_000000000100 = .ok (.phnd 70 19) :=
  ⟨rfl, rfl, rfl, rfl, rfl, rfl, rfl, rfl, rfl⟩

theorem test_decode_0F :
    decodeWord 0b001111_1000110_0010011_1100010_00000 = .ok (.fadd 70 19 98) ∧
    decodeWord 0b001111_1000110_0010011_1100010_00001 = .ok (.fsub 70 19 98) ∧
    decodeWord 0b001111_1000110_0010011_1100010_00010 = .ok (.fmul 70 19 98) ∧
    decodeWord 0b001111_1000110_0010011_1100010_00011 = .ok (.fmin 70 19 98) ∧
    decodeWord 0b001111_1000110_0010011_1100010_00100 = .ok (.fmax 70 19 98) ∧
    decodeWord 0b001111_1000110_0010011_000000000101 = .ok (.fabs 70 19) ∧
    decodeWord 0b001111_1000110_0010011_000000000110 = .ok (.fneg 70 19) ∧
    decodeWord 0b001111_1000110_0010011_1100010_00111 = .ok (.fcpys 70 19 98) ∧
    decodeWord 0b001111_1000110_0010011_000000001000 = .ok (.frndN 70 19) ∧
    decodeWord 0b001111_1000110_0010011_000000001001 = .ok (.frndZ 70 19) ∧
    decodeWord 0b001111_1000110_0010011_000000001010 = .ok (.frndP 70 19) ∧
    decodeWord 0b001111_1000110_0010011_000000001011 = .ok (.frndM 70 19) :=
  ⟨rfl, rfl, rfl, rfl, rfl, rfl, rfl, rfl, rfl, rfl, rfl, rfl⟩

theorem test_decode_10 :
    decodeWord 0b010000_1000110_0010011_1100010_00000 = .ok (.hadd2F16 70 19 98) ∧
    decodeWord 0b010000_1000110_0010011_1100010_00001 = .ok (.hsub2F16 70 19 98) ∧
    decodeWord 0b010000_1000110_0010011_1100010_00010 = .ok (.hmul2F16 70 19 98) ∧
    decodeWord 0b010000_1000110_0010011_1100010_00011 = .ok (.hmin2F16 70 19 98) ∧
    decodeWord 0b010000_1000110_0010011_1100010_00100 = .ok (.hmax2F16 70 19 98) ∧
    decodeWord 0b010000_1000110_0010011_1100010_10000 = .ok (.hadd2Bf16 70 19 98) ∧
    decodeWord 0b010000_1000110_0010011_1100010_10001 = .ok (.hsub2Bf16 70 19 98) ∧
    decodeWord 0b010000_1000110_0010011_1100010_10010 = .ok (.hmul2Bf16 70 19 98) ∧
    decodeWord 0b010000_1000110_0010011_1100010_10011 = .ok (.hmin2Bf16 70 19 98) ∧
    decodeWord 0b010000_1000110_0010011_1100010_10100 = .ok (.hmax2Bf16 70 19 98) :=
  ⟨rfl, rfl, rfl, rfl, rfl, rfl, rfl, rfl, rfl, rfl⟩

theorem test_decode_11_to_13 :
    decodeWord 0b010001_1000110_0010011_1100010_00000 = .ok (.ffma 70 19 98) ∧
    decodeWord 0b010001_1000110_0010011_1100010_00001 = .ok (.ffms 70 19 98) ∧
    decodeWord 0b010001_1000110_0010011_1100010_00010 = .ok (.fnma 70 19 98) ∧
    decodeWord 0b010001_1000110_0010011_1100010_00011 = .ok (.hfma2F16 70 19 98) ∧
    decodeWord 0b010001_1000110_0010011_1100010_00100 = .ok (.hfma2Bf16 70 19 98) ∧
    decodeWord 0b010010_101_11_1100010_0101100_0111_010 = .ok (.fcmp 5 3 98 44 7 2) ∧
    decodeWord 0b010011_1000110_0010011_000000000000 = .ok (.rcp 70 19) ∧
    decodeWord 0b010011_1000110_0010011_000000000001 = .ok (.rsq 70 19) ∧
    decodeWord 0b010011_1000110_0010011_000000000010 = .ok (.sqrt 70 19) ∧
    decodeWord 0b010011_1000110_0010011_000000000011 = .ok (.exp2 70 19) ∧
    decodeWord 0b010011_1000110_0010011_000000000100 = .ok (.log2 70 19) ∧
    decodeWord 0b010011_1000110_0010011_000000000101 = .ok (.sinpi 70 19) ∧
    decodeWord 0b010011_1000110_0010011_000000000110 = .ok (.cospi 70 19) ∧
    decodeWord 0b010011_1000110_0010011_000000000111 = .ok (.tanh 70 19) :=
  ⟨rfl, rfl, rfl, rfl, rfl, rfl, rfl, rfl, rfl, rfl, rfl, rfl, rfl, rfl⟩

theorem test_decode_14 :
    decodeWord 0b010100_1000110_0010011_000000000000 = .ok (.cvtF32F16 70 19) ∧
    decodeWord 0b010100_1000110_0010011_000000000001 = .ok (.cvtF16F32 70 19) ∧
    decodeWord 0b010100_1000110_0010011_000000000010 = .ok (.cvtF32Bf16 70 19) ∧
    decodeWord 0b010100_1000110_0010011_000000000011 = .ok (.cvtBf16F32 70 19) ∧
    decodeWord 0b010100_1000110_0010011_000000000100 = .ok (.cvtS32F32 70 19) ∧
    decodeWord 0b010100_1000110_0010011_000000000101 = .ok (.cvtZ32F32 70 19) ∧
    decodeWord 0b010100_1000110_0010011_000000000110 = .ok (.cvtF32S32 70 19) ∧
    decodeWord 0b010100_1000110_0010011_000000000111 = .ok (.cvtF32Z32 70 19) ∧
    decodeWord 0b010100_1000110_0010011_1100010_01000 = .ok (.pack2 70 19 98) :=
  ⟨rfl, rfl, rfl, rfl, rfl, rfl, rfl, rfl, rfl⟩

theorem test_decode_15_a :
    decodeWord 0b010101_1000110_0010011_01101_0000000 = .ok (.shfl 70 19 13) ∧
    decodeWord 0b010101_1000110_0010011_01101_0001000 = .ok (.shflup 70 19 13) ∧
    decodeWord 0b010101_1000110_0010011_01101_0010000 = .ok (.shfldn 70 19 13) ∧
    decodeWord 0b010101_1000110_0010011_01101_0011000 = .ok (.shflx 70 19 13) ∧
    decodeWord 0b010101_1000110_0010011_01101_0100000 = .ok (.bcst 70 19 13) ∧
    decodeWord 0b010101_1000110_0010011_01101_0101000 = .ok (.prev 70 19 13) ∧
    decodeWord 0b010101_1000110_0010011_01101_0110000 = .ok (.scanAdd 70 19 13) ∧
    decodeWord 0b010101_1000110_0010011_01101_0110001 = .ok (.scanMin 70 19 13) ∧
    decodeWord 0b010101_1000110_0010011_01101_0110010 = .ok (.scanMax 70 19 13) ∧
    decodeWord 0b010101_1000110_0010011_01101_0110011 = .ok (.scanMinz 70 19 13) ∧
    decodeWord 0b010101_1000110_0010011_01101_0110100 = .ok (.scanMaxz 70 19 13) ∧
    decodeWord 0b010101_1000110_0010011_01101_0110101 = .ok (.scanAnd 70 19 13) ∧
    decodeWord 0b010101_1000110_0010011_01101_0110110 = .ok (.scanOr 70 19 13) ∧
    decodeWord 0b010101_1000110_0010011_01101_0110111 = .ok (.scanFadd 70 19 13) :=
  ⟨rfl, rfl, rfl, rfl, rfl, rfl, rfl, rfl, rfl, rfl, rfl, rfl, rfl, rfl⟩

theorem test_decode_15_b :
    decodeWord 0b010101_1000110_0010011_01101_0111000 = .ok (.redAdd 70 19 13) ∧
    decodeWord 0b010101_1000110_0010011_01101_0111001 = .ok (.redMin 70 19 13) ∧
    decodeWord 0b010101_1000110_0010011_01101_0111010 = .ok (.redMax 70 19 13) ∧
    decodeWord 0b010101_1000110_0010011_01101_0111011 = .ok (.redMinz 70 19 13) ∧
    decodeWord 0b010101_1000110_0010011_01101_0111100 = .ok (.redMaxz 70 19 13) ∧
    decodeWord 0b010101_1000110_0010011_01101_0111101 = .ok (.redAnd 70 19 13) ∧
    decodeWord 0b010101_1000110_0010011_01101_0111110 = .ok (.redOr 70 19 13) ∧
    decodeWord 0b010101_1000110_0010011_01101_0111111 = .ok (.redFadd 70 19 13) ∧
    decodeWord 0b010101_1000110_0010011_01101_1000000 = .ok (.voteAny 70 19 13) ∧
    decodeWord 0b010101_1000110_0010011_01101_1000001 = .ok (.voteAll 70 19 13) ∧
    decodeWord 0b010101_1000110_0010011_01101_1000010 = .ok (.voteUni 70 19 13) ∧
    decodeWord 0b010101_1000110_0010011_01101_1001000 = .ok (.ballot 70 19 13) ∧
    decodeWord 0b010101_1000110_0010011_01101_1010000 = .ok (.matchEq 70 19 13) :=
  ⟨rfl, rfl, rfl, rfl, rfl, rfl, rfl, rfl, rfl, rfl, rfl, rfl, rfl⟩

theorem test_decode_16 :
    decodeWord 0b010110_01001_10010_01101_00000000000 = .ok (.uadd 9 18 13) ∧
    decodeWord 0b010110_01001_10010_01101_00000000001 = .ok (.usub 9 18 13) ∧
    decodeWord 0b010110_01001_10010_01101_00000000010 = .ok (.uand 9 18 13) ∧
    decodeWord 0b010110_01001_10010_01101_00000000011 = .ok (.uor 9 18 13) ∧
    decodeWord 0b010110_01001_10010_01101_00000000100 = .ok (.uxor 9 18 13) ∧
    decodeWord 0b010110_01001_10010_01101_00000000101 = .ok (.ushl 9 18 13) ∧
    decodeWord 0b010110_01001_10010_01101_00000000110 = .ok (.ushr 9 18 13) ∧
    decodeWord 0b010110_01001_10010_01101_00000000111 = .ok (.usar 9 18 13) ∧
    decodeWord 0b010110_01001_10010_01101_00000001000 = .ok (.umul 9 18 13) ∧
    decodeWord 0b010110_01001_10010_01101_00000001001 = .ok (.umin 9 18 13) ∧
    decodeWord 0b010110_01001_10010_01101_00000001010 = .ok (.umax 9 18 13) ∧
    decodeWord 0b010110_01001_10010_01101_00000001011 = .ok (.uminz 9 18 13) ∧
    decodeWord 0b010110_01001_10010_01101_00000001100 = .ok (.umaxz 9 18 13) :=
  ⟨rfl, rfl, rfl, rfl, rfl, rfl, rfl, rfl, rfl, rfl, rfl, rfl, rfl⟩

theorem test_decode_17_to_1C :
    decodeWord 0b010111_01001_10010_1110010110101001 = .ok (.uaddi 9 18 58793) ∧
    decodeWord 0b011000_01001_00000_1110010110101001 = .ok (.umovi 9 58793) ∧
    decodeWord 0b011001_01001_00000_1110010110101001 = .ok (.umovh 9 58793) ∧
    decodeWord 0b011010_1000110_10010_00000000000000 = .ok (.rdg 70 18) ∧
    decodeWord 0b011010_1000110_10010_00000000000001 = .ok (.wrgf 70 18) ∧
    decodeWord 0b011010_1000110_10010_01101_000000010 = .ok (.wrgt 70 18 13) ∧
    decodeWord 0b011011_1000110_0010011_0100_11111101 = .ok (.ldb 70 19 4 253) ∧
    decodeWord 0b011100_1000110_0010011_0100_11111101 = .ok (.ldbs 70 19 4 253) :=
  ⟨rfl, rfl, rfl, rfl, rfl, rfl, rfl, rfl⟩

theorem test_decode_1D_to_24 :
    decodeWord 0b011101_1000110_0010011_0100_11111101 = .ok (.ldh 70 19 4 253) ∧
    decodeWord 0b011110_1000110_0010011_0100_11111101 = .ok (.ldhs 70 19 4 253) ∧
    decodeWord 0b011111_1000110_0010011_0100_11111101 = .ok (.ldw 70 19 4 253) ∧
    decodeWord 0b100000_1000110_0010011_0100_11111101 = .ok (.ldd 70 19 4 253) ∧
    decodeWord 0b100001_1000110_0010011_0100_11111101 = .ok (.ldq 70 19 4 253) ∧
    decodeWord 0b100010_1000110_0010011_0100_11111101 = .ok (.stb 70 19 4 253) ∧
    decodeWord 0b100011_1000110_0010011_0100_11111101 = .ok (.sth 70 19 4 253) ∧
    decodeWord 0b100100_1000110_0010011_0100_11111101 = .ok (.stw 70 19 4 253) :=
  ⟨rfl, rfl, rfl, rfl, rfl, rfl, rfl, rfl⟩

theorem test_decode_25_to_29 :
    decodeWord 0b100101_1000110_0010011_0100_11111101 = .ok (.std 70 19 4 253) ∧
    decodeWord 0b100110_1000110_0010011_0100_11111101 = .ok (.stq 70 19 4 253) ∧
    decodeWord 0b100111_01001_10010_0100_010110101001 = .ok (.uldw 9 18 4 1449) ∧
    decodeWord 0b101000_01001_10010_0100_010110101001 = .ok (.uldd 9 18 4 1449) ∧
    decodeWord 0b101001_1000110_0010011_0100_000_10_11_1 = .ok (.atomAdd 70 19 4 2 3 1) ∧
    decodeWord 0b101001_1000110_0010011_0100_001_10_11_1 = .ok (.atomMin 70 19 4 2 3 1) ∧
    decodeWord 0b101001_1000110_0010011_0100_010_10_11_1 = .ok (.atomMax 70 19 4 2 3 1) ∧
    decodeWord 0b101001_1000110_0010011_0100_011_10_11_1 = .ok (.atomMinz 70 19 4 2 3 1) ∧
    decodeWord 0b101001_1000110_0010011_0100_100_10_11_1 = .ok (.atomMaxz 70 19 4 2 3 1) ∧
    decodeWord 0b101001_1000110_0010011_0100_101_10_11_1 = .ok (.atomAnd 70 19 4 2 3 1) ∧
    decodeWord 0b101001_1000110_0010011_0100_110_10_11_1 = .ok (.atomOr 70 19 4 2 3 1) ∧
    decodeWord 0b101001_1000110_0010011_0100_111_10_11_1 = .ok (.atomXor 70 19 4 2 3 1) :=
  ⟨rfl, rfl, rfl, rfl, rfl, rfl, rfl, rfl, rfl, rfl, rfl, rfl⟩

theorem test_decode_2A_to_2B :
    decodeWord 0b101010_1000110_0010011_0100_000_10_11_1 = .ok (.atomxExch 70 19 4 2 3 1) ∧
    decodeWord 0b101010_1000110_0010011_0100_001_10_11_1 = .ok (.atomxCas 70 19 4 2 3 1) ∧
    decodeWord 0b101010_1000110_0010011_0100_010_10_11_0 = .ok (.atomxFadd 70 19 4 2 3) ∧
    decodeWord 0b101011_00110101_11_0000000000000000 = .ok (.fence 53 3) ∧
    decodeWord 0b101011_101_00000000000000000000001 = .ok (.setclr 5) ∧
    decodeWord 0b101011_1000110_0000000000000000010 = .ok (.mon 70) ∧
    decodeWord 0b101011_00000001000000000000000010 = .ok .monClr ∧
    decodeWord 0b101011_01001_10010_0000000000000011 = .ok (.mwait 9 18) ∧
    decodeWord 0b101011_1110010110101001_0000000100 = .ok (.cede 58793) ∧
    decodeWord 0b101011_10_000000000000000000000101 = .ok (.invl1 2) ∧
    decodeWord 0b101011_1000110_1_000000000000000110 = .ok (.pref 70 1) ∧
    decodeWord 0b101011_0101_0000000000000000000111 = .ok (.qfence 5) ∧
    decodeWord 0b101011_01001_000000000000000001000 = .ok (.clkrd 9) :=
  ⟨rfl, rfl, rfl, rfl, rfl, rfl, rfl, rfl, rfl, rfl, rfl, rfl, rfl⟩

theorem test_decode_2C_to_2D :
    decodeWord 0b101100_01001_10010_0000000000000000 = .ok (.binit 9 18) ∧
    decodeWord 0b101100_01001_10010_0000000000000001 = .ok (.bexp 9 18) ∧
    decodeWord 0b101100_01001_10010_0000000000000010 = .ok (.barv 9 18) ∧
    decodeWord 0b101100_01001_10010_01101_0110_0000011 = .ok (.bwait 9 18 13 6) ∧
    decodeWord 0b101100_01001_10010_01101_0110_0000100 = .ok (.btest 9 18 13 6) ∧
    decodeWord 0b101101_01001_10010_01101_00000000000 = .ok (.rinit 9 18 13) ∧
    decodeWord 0b101101_01001_10010_01101_0110_0000001 = .ok (.awaitf 9 18 13 6) ∧
    decodeWord 0b101101_01001_000000000000000000010 = .ok (.rels 9) ∧
    decodeWord 0b101101_01001_00000_10010_0100_0000011 = .ok (.rstat 9 18 4) ∧
    decodeWord 0b101101_01001_10010_01101_0110_0000100 = .ok (.awaitfEmpty 9 18 13 6) :=
  ⟨rfl, rfl, rfl, rfl, rfl, rfl, rfl, rfl, rfl, rfl⟩

theorem test_decode_2E_to_30 :
    decodeWord 0b101110_01001_10010_01101_00000000000 = .ok (.cpy 9 18 13) ∧
    decodeWord 0b101110_01001_10010_01101_00000000001 = .ok (.cpyt 9 18 13) ∧
    decodeWord 0b101110_01001_10010_01101_00000000010 = .ok (.cpys 9 18 13) ∧
    decodeWord 0b101110_01001_10010_01101_00000000011 = .ok (.cpym 9 18 13) ∧
    decodeWord 0b101110_01001_10010_01101_00000000100 = .ok (.cpyr 9 18 13) ∧
    decodeWord 0b101111_0101_1001_111110010110101001 = .ok (.bra 5 9 255401) ∧
    decodeWord 0b110000_0101_1001_111110010110101001 = .ok (.call 5 9 255401) :=
  ⟨rfl, rfl, rfl, rfl, rfl, rfl, rfl⟩

theorem test_decode_31 :
    decodeWord 0b110001_1000110_0000000000000000000 = .ok (.calli 70) ∧
    decodeWord 0b110001_1000110_0000000000000000001 = .ok (.bri 70) ∧
    decodeWord 0b110001_00000000000000000000000010 = .ok .ret ∧
    decodeWord 0b110001_0101_0000000000000000000011 = .ok (.join 5) ∧
    decodeWord 0b110001_0101_0000000000000000000100 = .ok (.jmrk 5) ∧
    decodeWord 0b110001_0101_0000000000000000000101 = .ok (.jclr 5) ∧
    decodeWord 0b110001_0101_0010011_000000000000110 = .ok (.jsav 5 19) ∧
    decodeWord 0b110001_0101_0010011_000000000000111 = .ok (.jrst 5 19) ∧
    decodeWord 0b110001_00000000000000000000001000 = .ok .exit ∧
    decodeWord 0b110001_00000000000000000000001001 = .ok .yield ∧
    decodeWord 0b110001_00000000000000000000001010 = .ok .nop :=
  ⟨rfl, rfl, rfl, rfl, rfl, rfl, rfl, rfl, rfl, rfl, rfl⟩

theorem test_decode_32_to_33 :
    decodeWord 0b110010_101_110_011_00100_01001_000000_1 = .ok (.mma 5 6 3 4 9 1) ∧
    decodeWord 0b110010_101_110_011_00100_01001_000001_1 = .ok (.mma2 5 6 3 4 9 1) ∧
    decodeWord 0b110011_101_00000000000000000000000 = .ok (.acqa 5) ∧
    decodeWord 0b110011_101_00000000000000000000001 = .ok (.rela 5) ∧
    decodeWord 0b110011_101_110_000_01101_000000000010 = .ok (.lda 5 6 13) ∧
    decodeWord 0b110011_101_110_000_01101_000000000011 = .ok (.sta 5 6 13) ∧
    decodeWord 0b110011_101_110_011_00100_000000000100 = .ok (.drain 5 6 3 4) ∧
    decodeWord 0b110011_101_00000000000000000000101 = .ok (.zacc 5) ∧
    decodeWord 0b110011_101_100101_01101_000000000110 = .ok (.accrd 5 37 13) ∧
    decodeWord 0b110011_101_100101_01101_000000000111 = .ok (.accwr 5 37 13) :=
  ⟨rfl, rfl, rfl, rfl, rfl, rfl, rfl, rfl, rfl, rfl⟩

theorem test_decode_34 :
    decodeWord 0b110100_000000_1000110_0110101001_000 = .ok (.srd 70 425) ∧
    decodeWord 0b110100_000001_1000110_0110101001_000 = .ok (.swr 70 425) ∧
    decodeWord 0b110100_0000100000000_0110101001_000 = .ok (.trap 425) ∧
    decodeWord 0b110100_0000110000000_0110101001_000 = .ok (.bkpt 425) ∧
    decodeWord 0b110100_000100_1000110_0110101001_000 = .ok (.emit 70 425) ∧
    decodeWord 0b110100_000101_1000110_0000000000000 = .ok (.migr 70) ∧
    decodeWord 0b110100_000110_1000110_00000_10010_000 = .ok (.launch 70 18) ∧
    decodeWord 0b110100_0001110000000_1_0000_10010_000 = .ok (.haltctx 1 18) ∧
    decodeWord 0b110100_00100000000000000000000000 = .ok .rft ∧
    decodeWord 0b110100_001001_1000110_0000000000000 = .ok (.cycrd 70) :=
  ⟨rfl, rfl, rfl, rfl, rfl, rfl, rfl, rfl, rfl, rfl⟩

theorem test_decode_3F :
    decodeWord 0b111111_00_110000111110010110101001 = .ok (.xtImm 12838313) ∧
    decodeWord 0b111111_010000000000000_0101_0010011 = .ok (.xtOpd 5 19) ∧
    decodeWord 0b111111_100000000000000000_1_110_01_10 = .ok (.xtMem 1 6 1 2) :=
  ⟨rfl, rfl, rfl⟩

/-! The words that the spec works out beside them. -/

theorem test_decode_worked :
    decodeWord 0x805063FD = .ok (.ldd 10 6 3 0xFD) ∧ decodeWord 0x90606702 = .ok (.stw 12 6 7 2) ∧
    decodeWord 0xFE000001 = .ok (.xtMem 0 0 0 1) ∧ decodeWord 0xFC000018 = .ok (.xtImm 0x18) ∧
    decodeWord 0x082056A0 = .ok (.addi 4 5 0x6A0) ∧ decodeWord 0xBC3FFFFE = .ok (.bra 0 15 0x3FFFE) ∧
    decodeWord 0xC400000A = .ok .nop ∧ decodeWord 0x042050C0 = .ok (.add 4 5 6) ∧
    decodeWord 0x3420540D = .ok (.bfez 4 5 8 3) ∧ decodeWord 0x24A081B0 = .ok (.icmp 1 1 2 3 6 0) ∧
    decodeWord 0x28201000 = .ok (.icmpi 0 4 1 0) ∧ decodeWord 0x2C2050D4 = .ok (.sel 4 5 6 10) ∧
    decodeWord 0x38506100 = .ok (.padd 10 6 8) ∧ decodeWord 0x58642800 = .ok (.uadd 3 4 5) ∧
    decodeWord 0x68489A02 = .ok (.wrgt 9 2 13) ∧ decodeWord 0xC1FC0040 = .ok (.call 7 15 0x40) ∧
    decodeWord 0xC48A0006 = .ok (.jsav 2 20) :=
  ⟨rfl, rfl, rfl, rfl, rfl, rfl, rfl, rfl, rfl, rfl, rfl, rfl, rfl, rfl, rfl, rfl, rfl⟩

theorem test_decode_worked_memory :
    decodeWord 0x3C409140 = .ok (.fadd 8 9 10) ∧ decodeWord 0x402050D0 = .ok (.hadd2Bf16 4 5 6) ∧
    decodeWord 0x48808190 = .ok (.fcmp 1 0 2 3 2 0) ∧ decodeWord 0x4C182000 = .ok (.rcp 3 2) ∧
    decodeWord 0x50205001 = .ok (.cvtF16F32 4 5) ∧ decodeWord 0x542051B7 = .ok (.scanFadd 4 5 3) ∧
    decodeWord 0x54307048 = .ok (.ballot 6 7 0) ∧ decodeWord 0x7C406200 = .ok (.ldw 8 6 2 0) ∧
    decodeWord 0x98406701 = .ok (.stq 8 6 7 1) ∧ decodeWord 0xA0820001 = .ok (.uldd 4 2 0 1) ∧
    decodeWord 0xA4506705 = .ok (.atomAdd 10 6 7 0 2 1) ∧ decodeWord 0xA840672C = .ok (.atomxCas 8 6 7 1 2 0) ∧
    decodeWord 0xAFFE0000 = .ok (.fence 0xFF 2) ∧ decodeWord 0xAC200002 = .ok (.mon 4) ∧
    decodeWord 0xAD000003 = .ok (.mwait 8 0) ∧ decodeWord 0xAC000C04 = .ok (.cede 3) ∧
    decodeWord 0xB0863803 = .ok (.bwait 4 6 7 0) ∧ decodeWord 0xB54B4801 = .ok (.awaitf 10 11 9 0) ∧
    decodeWord 0xB98D7001 = .ok (.cpyt 12 13 14) ∧ decodeWord 0xC894C683 = .ok (.mma2 1 1 2 12 13 1) ∧
    decodeWord 0xCD000000 = .ok (.acqa 2) ∧ decodeWord 0xCCD0E004 = .ok (.drain 1 5 0 14) :=
  ⟨rfl, rfl, rfl, rfl, rfl, rfl, rfl, rfl, rfl, rfl, rfl, rfl, rfl, rfl, rfl, rfl, rfl, rfl, rfl, rfl, rfl, rfl⟩

/-- Words that are no instruction: unused majors and codes, a field that must be zero, values out of range, and fewer than
four bytes (R261, R270 to R272). -/
theorem test_decode_refuses :
    decodeWord 0xD4000000 = .error .illegalMajor ∧ decodeWord 0x0420501F = .error .illegalCode ∧
    decodeWord 0xC410000A = .error .nonzeroField ∧ decodeWord 0x24A08550 = .error .codeRange ∧
    decodeWord 0x37FFFF84 = .error .codeRange ∧ decode [0, 0, 0] = .error .short :=
  ⟨rfl, rfl, rfl, rfl, rfl, rfl⟩

/-- Events have no word. -/
theorem test_events_have_no_word :
    encode (.roundApply 0) = none ∧ encode (.tdispRequest 1 0x83) = none ∧ encode (.packetFetch 0) = none := by decide +kernel

/-! ### One step each -/

/-- The state that an instruction answers. -/
def run (j : Instr) (s : State) : State :=
  match exec j s with
  | .next t => t
  | _ => s

/-- Register `r` of thread 0 after an instruction d, a, b with a and b in x5 and x6. -/
def two (f : BitVec 7 → BitVec 7 → BitVec 7 → Instr) (a b : Word) : Word :=
  (run (f 4 5 6) (regs free [(5, a), (6, b)])).me.rx 0 4

/-- Register 4 of thread 1 and the flags after an instruction d, a with a in x5. -/
def one (f : BitVec 7 → BitVec 7 → Instr) (a : Word) : Word × BitVec 7 :=
  let t := run (f 4 5) (regs free [(5, a)])
  (t.me.rx 1 4, t.me.fx)

/-- R285, worked example. -/
theorem test_integer_two :
    two .add 0x7FFFFFF0 0x20 = 0x80000010 ∧ two .sadd 0x7FFFFFF0 0x20 = 0x7FFFFFFF ∧
      two .mul 0xFFFFFFFE 3 = 0xFFFFFFFA ∧ two .mulh 0xFFFFFFFE 3 = 0xFFFFFFFF ∧ two .mulhz 0xFFFFFFFE 3 = 2 ∧
      two .absd 0xFFFFFFFB 0x7FFFFFFF = 0x80000004 ∧ two .sar 0x80000000 0x23 = 0xF0000000 ∧
      two .rotl 0x80000001 1 = 3 := by decide +kernel

/-- R285: subtraction wraps and saturates, shifts take b[4:0], minima differ in sign. -/
theorem test_integer_table :
    two .sub 0 1 = 0xFFFFFFFF ∧ two .ssub 0x80000000 1 = 0x80000000 ∧ two .andn 0xFF 0x0F = 0xF0 ∧
      two .shl 1 0x3F = 0x80000000 ∧ two .shr 0x80000000 0x3F = 1 ∧ two .min 0xFFFFFFFF 1 = 0xFFFFFFFF ∧
      two .minz 0xFFFFFFFF 1 = 1 ∧ two .max 0xFFFFFFFF 1 = 1 ∧ two .maxz 0xFFFFFFFF 1 = 0xFFFFFFFF := by decide +kernel

/-- R285, worked example. -/
theorem test_integer_one :
    one .clz 0x10000 = (0xF, 0) ∧ one .clz 0 = (32, 0) ∧ one .brev 1 = (0x80000000, 0) ∧
      one .popc 0xF0F0 = (8, 0) := by decide +kernel

/-- R285: the carry of the low word reaches the high word. -/
theorem test_add64 :
    (run (.add64 4 6 8) (regs free [(6, 0xFFFFFFFF), (7, 1), (8, 1), (9, 0)])).me.rx64 0 4 = 0x200000000 := by decide +kernel

/-- R286, R288: a signed immediate, and the high bits kept apart from the low ones. -/
theorem test_immediates :
    (run (.addi 4 5 0xFFF) (regs free [(5, 0)])).me.rx 0 4 = 0xFFFFFFFF ∧
      (run (.movi 4 0x40000) free).me.rx 1 4 = 0xFFFC0000 ∧
      (run (.movh 4 1) (regs free [(4, 0xFFFFFFFF)])).me.rx 0 4 = 0x3FFF := by decide +kernel

/-- R291, worked example. -/
theorem test_imadwz :
    (run (.imadwz 4 8 9) (regs free [(4, 1), (5, 0), (8, 0xFFFFFFFF), (9, 2)])).me.rx64 0 4 = 0x1FFFFFFFF := by decide +kernel

/-- R291: the signed form extends the sign. -/
theorem test_imadw :
    (run (.imadw 4 8 9) (regs free [(4, 0), (5, 0), (8, 0xFFFFFFFF), (9, 2)])).me.rx64 0 4 = 0xFFFFFFFFFFFFFFFE := by
  decide +kernel

/-- R292, worked example. -/
theorem test_fields :
    (run (.bfe 4 5 7 4) (regs free [(5, 0xF80)])).me.rx 0 4 = 0xFFFFFFFF ∧
      (run (.bfez 4 5 7 4) (regs free [(5, 0xF80)])).me.rx 0 4 = 0x1F ∧
      (run (.bfi 4 5 4 7) (regs free [(4, 0xFFFFFFFF)])).me.rx 0 4 = 0xFFFFF00F ∧
      (run (.bmsk 4 4 7) free).me.rx 0 4 = 0xFF0 := by decide +kernel

/-- R289: a signed compare, and an unsigned one of the same operands. -/
theorem test_icmp :
    (run (.icmp 1 0 5 6 2 0) (regs free [(5, 0xFFFFFFFF), (6, 1)])).me.rp 0 1 = true ∧
      (run (.icmp 1 0 5 6 6 0) (regs free [(5, 0xFFFFFFFF), (6, 1)])).me.rp 0 1 = false := by decide +kernel

/-- Thread 1's pointer is at the end of its space. -/
def walked : State :=
  run (.padd 10 6 8) (grp0 (regs handled [(6, 0x100000), (7, 0), (8, 0x100)])
    (fun (g : Group) => (g.wx 1 6 0xFFFFFFF0).wx 1 7 0x007FFFFF))

/-- R293, worked example: the thread before the fault is written, the thread that faults is not. -/
theorem test_padd :
    walked.me.rx64 0 10 = 0x100100 ∧ walked.me.rx64 1 10 = 0 ∧ walked.me.priv = 1 ∧ walked.me.rix = 1 := by decide +kernel

/-- R314, worked example. -/
theorem test_hadd2 :
    let t := run (.hadd2F16 4 5 6) (regs free [(5, 0x7BFF3C00), (6, 0x6000FC00)])
    t.me.rx 0 4 = 0x7C00FC00 ∧ t.me.fx = 0b101 := by decide +kernel

/-- R315, worked example: one rounding. -/
theorem test_ffma :
    let s := regs free [(4, 0xBF800002), (5, 0x3F800001), (6, 0x3F800001)]
    (run (.ffma 4 5 6) s).me.rx 1 4 = 0x28800000 ∧ (run (.ffma 4 5 6) s).me.fx = 0 ∧
      (run (.fmul 7 5 6) s).me.rx 1 7 = 0x3F800002 ∧ (run (.fmul 7 5 6) s).me.fx = 1 := by decide +kernel

/-- R316: zeros of both signs are equal, and a NaN is unordered. -/
theorem test_fcmp :
    (run (.fcmp 1 0 5 6 0 0) (regs free [(5, 0x80000000), (6, 0)])).me.rp 0 1 = true ∧
      (run (.fcmp 1 0 5 6 6 0) (regs free [(5, 0x7FC00000), (6, 0)])).me.rp 1 1 = true := by decide +kernel

/-- R317, worked example. -/
theorem test_special_functions :
    one .rcp 0x40400000 = (0x3EAAAAAB, 1) ∧ one .sqrt 0x40000000 = (0x3FB504F3, 1) ∧
      one .log2 0x41000000 = (0x40400000, 0) ∧ one .cospi 0x3F000000 = (0, 0) ∧
      one .rsq 0x80000000 = (0xFF800000, 8) := by decide +kernel

/-- R317, worked example: a tie between 0 and the least subnormal. -/
theorem test_exp2_tie : one .exp2 0xC3160000 = (0, 0b11) := by decide +kernel

/-- R318, worked example. -/
theorem test_conversions :
    one .cvtF16F32 0x477FF000 = (0x7C00, 0b101) ∧ one .cvtS32F32 0xC0200000 = (0xFFFFFFFE, 1) ∧
      one .cvtS32F32 0x4F32D05E = (0x7FFFFFFF, 0x10) ∧ one .cvtZ32F32 0xBF800000 = (0, 0x10) ∧
      one .cvtF32S32 0x01000001 = (0x4B800000, 1) := by decide +kernel

/-- Threads 0 to 2 issue, with 2^24, 1 and 1. -/
def three : State :=
  grp0 free (fun (g : Group) => ((({ g with exited := 0xFFFFFFF8 } : Group).wx 0 5 0x4B800000).wx 1 5 0x3F800000).wx 2 5 0x3F800000 |>.wg' 3 7)

/-- R323, worked example: members are added in order, and each sum is rounded. -/
theorem test_scan_fadd :
    let t := run (.scanFadd 4 5 3) three
    t.me.rx 0 4 = 0x4B800000 ∧ t.me.rx 1 4 = 0x4B800000 ∧ t.me.rx 2 4 = 0x4B800000 ∧ t.me.fx = 1 := by decide +kernel

/-- Threads 0, 1 and 3 issue, thread 2 has exited and thread 4 waits elsewhere; their a values are 5, 7, 100, 1, 20. -/
def five : State :=
  grp0 handled (fun (g : Group) =>
    (((((({ g with exited := 0xFFFFFFE4 } : Group).wx 0 5 5).wx 1 5 7).wx 2 5 100).wx 3 5 1).wx 4 5 20).wpc 4 0x10040
      |>.wg' 3 0x1F)

/-- R324, worked example: an exited member adds nothing, a waiting one adds and is not written. -/
theorem test_scan_red :
    (run (.scanAdd 4 5 3) five).me.rx 1 4 = 12 ∧ (run (.scanAdd 4 5 3) five).me.rx 3 4 = 13 ∧
      (run (.redAdd 4 5 3) five).me.rx 0 4 = 33 ∧ (run (.redAdd 4 5 3) five).me.rx 4 4 = 0 ∧
      (run (.redAdd 4 5 3) five).me.fx = 0x40 := by decide +kernel

/-- R324, worked example. -/
theorem test_ballot_prev :
    (run (.ballot 4 5 3) five).me.rx 3 4 = 0x1B ∧ (run (.prev 4 5 3) five).me.rx 1 4 = 5 ∧
      (run (.prev 4 5 3) five).me.rx 3 4 = 0 := by decide +kernel

/-- R320, worked example: an active thread outside the members traps, and nothing is written. -/
theorem test_member :
    let t := run (.scanAdd 4 5 3) (unis five [(3, 7)])
    t.me.rx 0 4 = 0 ∧ t.me.rx 1 4 = 0 ∧ t.me.rix = 3 ∧ t.me.priv = 1 := by decide +kernel

/-- R295, R255: a uniform sum, and g0 discards it. -/
theorem test_uadd :
    (run (.uadd 3 1 2) (unis free [(1, 0xFFFFFFFF), (2, 3)])).me.rg 3 = 2 ∧
      (run (.uadd 0 1 2) (unis free [(1, 5), (2, 3)])).me.rg 0 = 0 := by decide +kernel

/-- R331, R10: the low byte at the lowest address, in FREE mode at once. -/
theorem test_stw_scratch :
    let t := run (.stw 5 22 7 1) (grp0 (regs free [(5, 0x11223344)]) (fun (g : Group) => { g with exited := 0xFFFFFFFE }))
    (run (.ldb 6 22 0 4) t).me.rx 0 6 = 0x44 ∧ (run (.ldb 6 22 0 7) t).me.rx 0 6 = 0x11 ∧
      (run (.ldhs 6 22 0 2) t).me.rx 0 6 = 0x3344 := by decide +kernel

/-- R338. -/
theorem test_setclr : (run (.setclr 5) free).me.clr = 5 := by decide +kernel

/-- R300 and R302, worked example: JMRK marks the path, and threads leave it by CALL. -/
theorem test_call :
    let t := run (.call 0 1 0x40) (grp0 free (fun (g : Group) => g.wp 0 0 true))
    t.me.pcOf 0 = 0x10100 ∧ t.me.pcOf 1 = 0x10004 ∧ t.me.rsd.get 0 = 1 ∧ t.me.rsd.get 1 = 0 := by decide +kernel

/-- R302: the path's threads. -/
theorem test_jmrk : (run (.jmrk 2) free).me.rj 2 = 3 := by decide +kernel

/-- R303, R114: every thread exits, and the round closes. -/
theorem test_exit :
    (run .exit ordered).me.exited = 0xFFFFFFFF ∧ (run .exit free).me.exited = 0xFFFFFFFF := by decide +kernel

/-- R377: the handler is entered once the trap has completed. -/
theorem test_trap :
    (run (.trap 5) handled).me.priv = 1 ∧ (run (.trap 5) handled).me.savedPc.get 0 = 0x10004 := by decide +kernel

/-- R272: the all-zero word traps. -/
theorem test_ill : (run .ill handled).me.priv = 1 := by decide +kernel

/-- The step fetches, runs and passes the word. -/
theorem test_step :
    (match step (regs (State.reset.withFetchWord 32 0x042050C0) [(5, 2), (6, 3)]) with
      | .next t => (t.me.rx 0 4, t.me.pcOf 0)
      | _ => (0, 0)) = (5, 0x10004) := by decide +kernel
/-! ### Hypotheses that can be met: instructions -/

theorem witness_IntegerTwoSourceResults :
    Ready ordered ∧ InRound ordered 1 ∧ pfxOpd false ordered.pfx = true ∧ ThreadRegs ordered 127 1 ∧
      ThreadRegs ordered 0 1 := by decide +kernel

theorem witness_IntegerPairAndUnaryResults :
    Ready free ∧ InRound free 1 ∧ pfxOpd false free.pfx = true ∧ ThreadRegs free 126 2 ∧ ThreadRegs free 0 2 ∧
      ThreadRegs free 127 1 := by decide +kernel

/-- An XT.OPD word with lookahead 2 and register 126. -/
def opd : State := { ordered with pfx := some 0xFD00017E }

theorem witness_MultiplyAddResults :
    Ready opd ∧ InRound opd 1 ∧ pfxOpd true opd.pfx = true ∧ ThreadRegs opd 127 1 ∧ ThreadRegs opd 4 2 ∧
      (opd.pfx.map (fun w => (w.extractLsb' 0 7).toNat)).getD 4 = 126 ∧ ThreadRegs opd 126 2 ∧
      ThreadRegs opd 126 1 := by decide +kernel

theorem witness_ImmediateResults_plain :
    Ready ordered ∧ InRound ordered 1 ∧ ThreadRegs ordered 127 1 ∧ ThreadRegs ordered 0 1 ∧ ordered.pfx = none := by
  decide +kernel

/-- An XT.IMM word. -/
def imm : State := { free with pfx := some (0xFC0#12 ++ 0xFFFFF#20) }

theorem witness_ImmediateResults_wide :
    Ready imm ∧ InRound imm 1 ∧ ThreadRegs imm 127 1 ∧ imm.pfx = some (0xFC0#12 ++ 0xFFFFF#20) := by decide +kernel

theorem witness_FieldAndSelectResults :
    Ready free ∧ InRound free 1 ∧ ThreadRegs free 127 1 ∧ free.pfx = none ∧ pfxOpd false free.pfx = true ∧
      (31#5).toNat + ((0#5).toNat + 1) ≤ 32 ∧ (0#5).toNat + ((31#5).toNat + 1) ≤ 32 := by decide +kernel

theorem witness_IntegerCompareResults :
    Ready free ∧ InRound free 1 ∧ (6#3).toNat < 7 ∧ (9#4).toNat < 10 ∧ free.pfx = none ∧ ThreadRegs free 127 1 ∧
      ThreadRegs free 126 2 ∧ Ready imm ∧ InRound imm 1 ∧ imm.pfx = some (0xFC0#12 ++ 0xFFFFF#20) ∧
      ThreadRegs imm 127 1 := by decide +kernel

/-- Pointers at the ends of their spaces: x10:x11 the last global byte less 15, x12:x13 the last scratchpad byte, and
x8 = 15. -/
def ends : State := regs free [(8, 15), (10, 0xFFFFFFF0), (11, 0x007FFFFF), (12, 0x0007FFFF), (13, 0x10000000)]

theorem witness_PointerResults_sum :
    Ready ends ∧ InRound ends 1 ∧ pfxOpd false ends.pfx = true ∧ ThreadRegs ends 10 2 ∧ ThreadRegs ends 126 2 ∧
      ThreadRegs ends 8 1 ∧
      ∀ k ∈ ends.me.path, 0 ≤ ((ends.me.rx64 k 10).toNat % 2 ^ 55 : Int) + (ends.me.rx k 8).toInt ∧
        ((ends.me.rx64 k 10).toNat % 2 ^ 55 : Int) + (ends.me.rx k 8).toInt < 2 ^ 55 := by decide +kernel

theorem witness_PointerResults_scratch :
    Ready ends ∧ ThreadRegs ends 12 2 ∧ ThreadRegs ends 4 1 ∧
      (∀ k ∈ ends.me.path, (ends.me.rx64 k 12).toNat / 2 ^ 60 = 1 ∧ (ends.me.rx k 4).toNat < (ends.gridOf ends.cur).teamCores) ∧
      ∀ k ∈ ends.me.path, (ends.me.rx64 k 12).toNat / 2 ^ 60 = 1 ∧ (ends.me.rx64 k 12).toNat / 2 ^ 19 % 2 ^ 36 = 0 := by
  decide +kernel

theorem witness_UniformResults :
    Ready ordered ∧ InRound ordered 1 ∧ UniformRegs ordered 31 1 ∧ UniformRegs ordered 0 1 ∧ ordered.pfx = none ∧
      ThreadRegs ordered 127 1 ∧ 0 ∈ ordered.me.path ∧ (∀ k ∈ ordered.me.path, 0 ≤ k) := by decide +kernel

/-- An XT.IMM word of a uniform instruction. -/
def immUniform : State := { free with pfx := some (0xFC00#16 ++ 0xFFFF#16) }

theorem witness_UniformResults_wide :
    Ready immUniform ∧ InRound immUniform 1 ∧ UniformRegs immUniform 31 1 ∧ UniformRegs immUniform 0 1 ∧
      immUniform.pfx = some (0xFC00#16 ++ 0xFFFF#16) := by decide +kernel

theorem witness_FloatResults :
    Ready free ∧ InRound free 1 ∧ ThreadRegs free 127 1 ∧ ThreadRegs free 0 1 ∧ pfxOpd false free.pfx = true ∧
      Ready opd ∧ InRound opd 1 ∧ pfxOpd true opd.pfx = true ∧
      ThreadRegs opd ((opd.pfx.map (fun w => (w.extractLsb' 0 7).toNat)).getD 4) 1 := by decide +kernel

theorem witness_FloatCompareResults :
    Ready free ∧ InRound free 1 ∧ free.pfx = none ∧ (6#3).toNat < 7 ∧ (7#4).toNat < 8 ∧ (2#3).toNat < 3 ∧
      ThreadRegs free 127 1 := by decide +kernel

/-- The smallest subnormal of FP16 is its own value; the largest finite value as well; 2049 lies in the middle of 2048 and 2050,
and 2051 of 2050 and 2052. -/
theorem witness_RoundingIsCorrect :
    0 < 1 ∧ 0 < 2 ^ 24 ∧ decodeFp .f16 (roundFp .f16 .rne false false (.fin true 1 (2 ^ 24))).code = .fin true 1 (2 ^ 24) ∧
      decodeFp .f16 (roundFp .f16 .rtz false false (.fin false 65535 1)).code = .fin false 65504 1 ∧
      decodeFp .f16 (roundFp .f16 .rne false false (.fin false 2049 1)).code = .fin false 2048 1 ∧
      decodeFp .f16 (roundFp .f16 .rne false false (.fin false 2051 1)).code = .fin false 2052 1 ∧
      ((2048 : Int) * 1 - 2049 * 1).natAbs * 1 = ((2050 : Int) * 1 - 2049 * 1).natAbs * 1 ∧ 2050 * 1 ≠ 2048 * 1 := by decide +kernel

theorem witness_NanAndInvalidResults :
    decodeFp .f32 0x7FC00000 = .nan ∧ decodeFtzi 0 .f32 0x7F800000 = .inf false ∧
      decodeFtzi 0 .f32 0xFF800000 = .inf (!false) ∧ (∃ n d, decodeFtzi 0 .f32 0x80000000 = .fin true n d ∧ n = 0) ∧
      decodeFp .f16 0x7E00 = .nan ∧ decodeFp .f16 0x3C00 ≠ .nan ∧ Fmt.f16 ≠ .e4m3 :=
  ⟨by decide, by decide, by decide, ⟨_, _, by rfl, by decide⟩, by decide, by decide, by decide⟩

/-- g5 names both threads. -/
def members : State := unis free [(5, 3)]

theorem witness_ExchangeResults :
    Ready members ∧ InRound members 1 ∧ pfxOpd false members.pfx = true ∧ ThreadRegs members 127 1 ∧
      UniformRegs members 5 1 ∧ (∀ k ∈ members.me.path, (members.me.rg 5).getLsbD k = true) ∧
      ∀ k ∈ members.me.path, (maskOf members.me.path).getLsbD k = true := by decide +kernel

/-- x10:x11 = 0 and x12:x13 = 2^55 − 4: the ends of the code addresses. -/
def targets : State := regs free [(12, 0xFFFFFFFC), (13, 0x007FFFFF)]

theorem witness_BranchResults :
    Ready targets ∧ InRound targets 1 ∧ targets.pfx = none ∧ (targets.at' : Int) + 4 * (0x3C000#18).toInt = 0 ∧
      targets.me.path.filter (fun k => decide (Holds targets 15 k)) = [] ∧ ThreadRegs targets 12 2 ∧
      (∀ k ∈ targets.me.path, (targets.me.rx64 k 12).toNat < 2 ^ 55 ∧ (targets.me.rx64 k 12).toNat % 4 = 0) ∧
      ∀ k ∈ targets.me.path, (targets.me.rx64 k 10).toNat < 2 ^ 55 ∧ (targets.me.rx64 k 10).toNat % 4 = 0 := by decide +kernel

/-- Both threads have called three times; the newest return address is 0x10020. -/
def called : State := grp0 ordered (fun g => { g with
  rsd := [(0, 3), (1, 3)], rst := [(2, 0x10020), (6, 0x10020)], x := [(12, 0x10000), (140, 0x10000)] })

theorem witness_CallAndReturnResults :
    Ready called ∧ InRound called 1 ∧ called.pfx = none ∧
      (∀ k ∈ called.me.path, (called.me.rsd.get k).toNat < 4) ∧ ThreadRegs called 12 2 ∧
      (∀ k ∈ called.me.path, (called.me.rx64 k 12).toNat < 2 ^ 55 ∧ (called.me.rx64 k 12).toNat % 4 = 0) ∧
      (∀ k ∈ called.me.path, 0 < (called.me.rsd.get k).toNat ∧ (called.me.rsd.get k).toNat ≤ 4 ∧
        (called.me.rst.get (4 * k + ((called.me.rsd.get k).toNat - 1) % 4)).toNat < 2 ^ 55 ∧
        (called.me.rst.get (4 * k + ((called.me.rsd.get k).toNat - 1) % 4)).toNat % 4 = 0) := by decide +kernel

/-- j3 holds both threads, and thread 1 stands elsewhere. -/
def rejoin : State := grp0 (apart free) (fun g => { g with j := [(3, 3)] })

/-- The same, and thread 1 waits at the JOIN. -/
def joined : State := grp0 free (fun g => { g with j := [(3, 3)], parked := 2 })

theorem witness_RejoinAndPlainControlResults_masks :
    Ready free ∧ InRound free 1 ∧ free.pfx = none ∧ (14#4) ≠ 15 ∧ ThreadRegs free 127 1 ∧ (30#5) ≠ 0 ∧
      UniformRegs free 30 2 := by decide +kernel

theorem witness_RejoinAndPlainControlResults_met :
    Ready joined ∧ InRound joined 1 ∧ joined.pfx = none ∧ (3#4) ≠ 15 ∧
      ∀ k ∈ joined.me.alive, inMask (joined.me.rj 3) k = true → k ∈ joined.me.path ∨
        k ∈ joined.me.alive.filter (fun k => inMask joined.me.parked k && joined.me.pcOf k == joined.at') := by decide +kernel

theorem witness_RejoinAndPlainControlResults_waits :
    Ready rejoin ∧ InRound rejoin 1 ∧ rejoin.pfx = none ∧ (∃ k ∈ rejoin.me.eligible, k ∉ rejoin.me.path) ∧
      ¬∀ k ∈ rejoin.me.alive, inMask (rejoin.me.rj 3) k = true → k ∈ rejoin.me.path ∨
        k ∈ rejoin.me.alive.filter (fun k => inMask rejoin.me.parked k && rejoin.me.pcOf k == rejoin.at') := by decide +kernel

theorem witness_ExitResults :
    Ready free ∧ (free.gridOf free.cur).ordered = false ∧ free.pfx = none ∧ (∀ k ∈ free.me.alive, k ∈ free.me.path) ∧
      free.me.grid < free.grids.length ∧ free.me.wg < free.wgs.length ∧ Ready (apart free) ∧ (apart free).pfx = none ∧
      ∃ k ∈ (apart free).me.eligible, k ∉ (apart free).me.path := by decide +kernel

/-- An access that passes its checks and changes nothing. -/
theorem ok_of {ε α : Type} {s : State} {r : State × Except ε α} {x : α} (h : r.1 = s ∧ r.2.toOption = some x) :
    r = (s, .ok x) := by
  obtain ⟨a, b⟩ := r
  cases b with
  | error => simp [Except.toOption] at h
  | ok => simp_all [Except.toOption]

/-- The access of each thread of the path through the pointer of register `r` passes its checks and goes to `x`. -/
def passes (s : State) (u : Use) (r : Nat) (disp : Int) (n : Nat) (natural : Bool) (x : Target) : Bool :=
  s.me.path.all (fun k =>
    let c := s.check s.cur k u (s.me.rx64 k r) disp n natural
    decide (c.1 = s ∧ c.2.toOption = some x))

theorem passes_ok {s : State} {u : Use} {r : Nat} {disp : Int} {n : Nat} {natural : Bool} {x : Target}
    (h : passes s u r disp n natural x = true) :
    ∀ k ∈ s.me.path, s.check s.cur k u (s.me.rx64 k r) disp n natural = (s, .ok x) := fun k hk =>
  ok_of (of_decide_eq_true (List.all_eq_true.mp h k hk))

/-- Where x22:x23 leads. -/
def inScratch : Target := ⟨.scratch, 0x1000000000000000, 0, 0, 0, false, false⟩

/-- Where x20:x21 leads. -/
def inData : Target := ⟨.glob, 0x20000, 0, 0x20000, 0x50000, false, false⟩

/-- x20:x21 points to the last 16 bytes of the data page. -/
def last : State := regs ordered [(20, 0x2FFF0)]

/-- Where it leads. -/
def atLast : Target := ⟨.glob, 0x2FFF0, 0, 0x2FFF0, 0x5FFF0, false, false⟩

theorem witness_LoadResults :
    Ready free ∧ InRound free 1 ∧ free.late = false ∧ free.poison = [] ∧ free.slots = [] ∧
      (∀ q ∈ free.mxu, q.group ≠ free.cur) ∧ Coherent free ∧
      (free.rootOf free.cur).extLines = [] ∧ (free.rootOf free.cur).extFrames = [] ∧ ThreadRegs free 22 2 ∧
      pfxLoad 0 free.pfx = true ∧ ThreadRegs free 127 ((1 + 3) / 4) ∧
      (∀ k ∈ free.me.path, free.check free.cur k .load (free.me.rx64 k 22) (dispL free.pfx 0 1) 1
        (pfxAtomicity free.pfx ≠ 0) = (free, .ok inScratch)) ∧ inScratch.reach = .scratch :=
  ⟨by decide, by decide, by decide, by decide, by decide, by decide, by decide, by decide, by decide, by decide,
    by decide, by decide, passes_ok (by decide), by decide⟩

theorem witness_LoadResults_memory :
    Ready last ∧ InRound last 1 ∧ last.late = false ∧ last.poison = [] ∧ last.slots = [] ∧
      (∀ q ∈ last.mxu, q.group ≠ last.cur) ∧ Coherent last ∧
      (last.rootOf last.cur).extLines = [] ∧ (last.rootOf last.cur).extFrames = [] ∧ ThreadRegs last 20 2 ∧
      pfxLoad 2 last.pfx = true ∧ ThreadRegs last 124 ((16 + 3) / 4) ∧
      (∀ k ∈ last.me.path, last.check last.cur k .load (last.me.rx64 k 20) (dispL last.pfx 0 16) 16
        (pfxAtomicity last.pfx ≠ 0) = (last, .ok atLast)) ∧
      atLast.reach = .glob ∧ (last.gridOf last.cur).ordered = true :=
  ⟨by decide, by decide, by decide, by decide, by decide, by decide, by decide, by decide, by decide, by decide,
    by decide, by decide, passes_ok (by decide), by decide, by decide⟩

/-- An XT.MEM word with policy 1. -/
def bypass : State := { free with pfx := some 0xFE000001 }

theorem witness_LoadResults_bypass :
    Ready bypass ∧ pfxLoad 0 bypass.pfx = true ∧ pfxPolicy bypass.pfx = 1 ∧
      (∀ k ∈ bypass.me.path, bypass.check bypass.cur k .load (bypass.me.rx64 k 20) (dispL bypass.pfx 0 4) 4
        (pfxAtomicity bypass.pfx ≠ 0) = (bypass, .ok inData)) :=
  ⟨by decide, by decide, by decide, passes_ok (by decide)⟩

theorem witness_LoadResults_old :
    (free.rootOf free.cur).old = [] ∧ (last.rootOf last.cur).old = [] ∧ (ordered.rootOf ordered.cur).old = [] := by
  decide +kernel

theorem witness_UniformLoadResults :
    Ready ordered ∧ InRound ordered 1 ∧ ordered.late = false ∧ ordered.poison = [] ∧ ordered.slots = [] ∧
      (∀ q ∈ ordered.mxu, q.group ≠ ordered.cur) ∧ Coherent ordered ∧
      (ordered.rootOf ordered.cur).extLines = [] ∧ (ordered.rootOf ordered.cur).extFrames = [] ∧ UniformRegs ordered 20 2 ∧
      UniformRegs ordered 22 2 ∧ UniformRegs ordered 30 2 ∧ UniformRegs ordered 31 1 ∧ pfxUload ordered.pfx = true ∧
      ordered.check ordered.cur ordered.me.lowest .uload (ordered.me.rg64 20) (dispUl ordered.pfx 0 8) 8 false =
        (ordered, .ok inData) ∧
      ordered.check ordered.cur ordered.me.lowest .uload (ordered.me.rg64 22) (dispUl ordered.pfx 0 4) 4 false =
        (ordered, .ok inScratch) :=
  ⟨by decide, by decide, by decide, by decide, by decide, by decide, by decide, by decide, by decide, by decide,
    by decide, by decide, by decide, by decide, ok_of (by decide), ok_of (by decide)⟩

theorem witness_OrderedStoreResults :
    Ready ordered ∧ (ordered.gridOf ordered.cur).ordered = true ∧ ordered.slots = [] ∧ ordered.posted = [] ∧
      ThreadRegs ordered 20 2 ∧ pfxStore 0 ordered.pfx = true ∧ ThreadRegs ordered 127 ((1 + 3) / 4) ∧
      ThreadRegs ordered 124 ((16 + 3) / 4) ∧
      (∀ k ∈ ordered.me.path.filter (fun k => decide (Holds ordered 7 k)), ordered.check ordered.cur k .store
        (ordered.me.rx64 k 20) (dispL ordered.pfx 0 16) 16 (pfxAtomicity ordered.pfx ≠ 0) = (ordered, .ok inData)) ∧
      InRound ordered 1 ∧ ordered.me.take = [] :=
  ⟨by decide, by decide, by decide, by decide, by decide, by decide, by decide, by decide,
    fun k h => passes_ok (by decide) k (List.mem_filter.mp h).1, by decide, by decide⟩

/-- A take buffer with a line in it and no quota left. -/
def full : State := grp0 (recByte ordered 0x29 0) (fun g => { g with take := [⟨true, 0, 5, 5, 1, 7, 0, false, false⟩] })

theorem witness_OrderedStoreResults_full :
    Ready full ∧ (full.gridOf full.cur).ordered = true ∧ full.slots = [] ∧ full.posted = [] ∧ ThreadRegs full 20 2 ∧
      pfxStore 0 full.pfx = true ∧ ThreadRegs full 127 1 ∧
      (∀ k ∈ full.me.path.filter (fun k => decide (Holds full 7 k)), full.check full.cur k .store
        (full.me.rx64 k 20) (dispL full.pfx 0 4) 4 (pfxAtomicity full.pfx ≠ 0) = (full, .ok inData)) ∧
      full.me.take ≠ [] ∧ 16 * (full.gridOf full.cur).takeQuota < full.me.take.length + 0 ∧ full.copies = [] ∧ full.mxu = [] ∧
      (full.gridOf full.cur).root < full.grids.length :=
  ⟨by decide, by decide, by decide, by decide, by decide, by decide, by decide,
    fun k h => passes_ok (by decide) k (List.mem_filter.mp h).1, by decide, by decide, by decide, by decide, by decide⟩

theorem witness_FreeStoreResults :
    Ready free ∧ (free.gridOf free.cur).ordered = false ∧ free.late = false ∧ free.slots = [] ∧
      (∀ q ∈ free.mxu, q.group ≠ free.cur) ∧ free.posted = [] ∧ free.linesOk noDomain [inData.addr / 64] = true ∧
      ThreadRegs free 20 2 ∧
      pfxStore 2 free.pfx = true ∧ ThreadRegs free 124 ((16 + 3) / 4) ∧
      (∀ k ∈ free.me.path.filter (fun k => decide (Holds free 7 k)), free.check free.cur k .store
        (free.me.rx64 k 20) (dispL free.pfx 0 16) 16 (pfxAtomicity free.pfx ≠ 0) = (free, .ok inData)) :=
  ⟨by decide, by decide, by decide, by decide, by decide, by decide, by decide, by decide, by decide, by decide,
    fun k h => passes_ok (by decide) k (List.mem_filter.mp h).1⟩

theorem witness_AtomicResults :
    Ready free ∧ free.slots = [] ∧ free.poison = [] ∧ free.mxu = [] ∧ pfxAtom free.pfx = true ∧ ThreadRegs free 22 2 ∧
      ThreadRegs free 126 2 ∧ ThreadRegs free 124 (2 * 2) ∧
      (∀ k ∈ free.me.path.filter (fun k => decide (Holds free 7 k)), free.check free.cur k .atomic
        (free.me.rx64 k 22) 0 8 true = (free, .ok inScratch)) ∧
      (free.gridOf free.cur).ordered = false ∧ free.late = false ∧ (∀ g ∈ free.groups, g.flight = []) ∧
      free.linesOk noDomain [inData.addr / 64] = true :=
  ⟨by decide, by decide, by decide, by decide, by decide, by decide, by decide, by decide,
    fun k h => passes_ok (by decide) k (List.mem_filter.mp h).1, by decide, by decide, by decide, by decide⟩

theorem witness_AtomicResults_ordered :
    Ready ordered ∧ ordered.slots = [] ∧ ordered.poison = [] ∧ ordered.mxu = [] ∧ pfxAtom ordered.pfx = true ∧
      ThreadRegs ordered 20 2 ∧ ThreadRegs ordered 127 1 ∧
      (∀ k ∈ ordered.me.path.filter (fun k => decide (Holds ordered 7 k)), ordered.check ordered.cur k .atomic
        (ordered.me.rx64 k 20) 0 4 true = (ordered, .ok inData)) ∧
      (ordered.gridOf ordered.cur).ordered = true ∧ Settled ordered :=
  ⟨by decide, by decide, by decide, by decide, by decide, by decide, by decide,
    fun k h => passes_ok (by decide) k (List.mem_filter.mp h).1, by decide, by decide⟩

/-- Pointers at the edges of the checks, one register pair each: SPACE 6; a scratchpad offset of 2^19; a scratchpad offset
of the group's 64 KiB; private space at PRIV (0); uniform space at 2^32; a line crossed; a uniform pointer. -/
def edges : State := regs free [(24, 0), (25, 0x60000000), (26, 0x80000), (27, 0x10000000), (28, 0x10000), (29, 0x10000000),
  (30, 0), (31, 0x20000000), (32, 0), (33, 0x30000001), (34, 61), (35, 0x10000000), (36, 0), (37, 0x30000000),
  (38, 60), (39, 0x10000000)]

theorem witness_AccessFaultsInOrder :
    Ready edges ∧ edges.pfx = none ∧ ThreadRegs edges 127 1 ∧ (∀ r ∈ [24, 26, 28, 30, 32, 34, 36], ThreadRegs edges r 2) ∧
      (∀ r ∈ [24, 26, 28, 30, 32, 34, 36], (edges.me.rx64 0 r).toNat / 2 ^ 60 ≠ 4 ∧ (edges.me.rx64 0 r).toNat / 2 ^ 60 ≠ 5) ∧
      (edges.gridOf edges.cur).ordered = false ∧ Holds edges 7 0 ∧
      (edges.me.rx64 0 24).toNat / 2 ^ 60 = 6 ∧ (edges.me.rx64 0 26).toNat % 2 ^ 55 = 2 ^ 19 ∧
      (edges.me.rx64 0 28).toNat % 2 ^ 55 = (edges.gridOf edges.cur).scratchBytes ∧
      (edges.me.rx64 0 30).toNat % 2 ^ 55 = (edges.gridOf edges.cur).priv ∧ (edges.me.rx64 0 32).toNat % 2 ^ 55 = 2 ^ 32 ∧
      (edges.me.rx64 0 34).toNat % 64 = 61 ∧ (edges.me.rx64 0 36).toNat / 2 ^ 60 = 3 := by decide +kernel

theorem witness_FenceAndCacheResults :
    Ready free ∧ InRound free 1 ∧ free.pfx = none ∧ (∀ q ∈ free.mxu, q.group ≠ free.cur) ∧
      (free.gridOf free.cur).ordered = false ∧ pfxPref free.pfx = true ∧ ThreadRegs free 22 2 ∧
      (∀ k ∈ free.me.path, (free.me.rx64 k 22).toNat / 2 ^ 60 ≠ 5) ∧ (free.gridOf free.cur).producer = free.me.gix ∧
      (free.gridOf free.cur).producer ≠ 0xFF ∧ (15#4) ≠ 0 ∧ free.me.wg < free.wgs.length ∧ Ready ordered ∧
      InRound ordered 1 ∧ (ordered.gridOf ordered.cur).ordered = true ∧
      (ordered.gridOf ordered.cur).producer = ordered.me.gix := by decide +kernel

/-- A line is armed. -/
def armed (s : State) (fired : Bool) : State := grp0 s (fun g => { g with armed := [⟨true, 0, 5, 5, fired, false⟩] })

theorem witness_MonitorAndSleepResults_cede :
    Ready ordered ∧ ordered.pfx = none ∧ (ordered.gridOf ordered.cur).ordered = true ∧ Settled ordered ∧
      ordered.me.pend = [] ∧ Ready free ∧ free.pfx = none ∧ (free.gridOf free.cur).ordered = false ∧ free.me.pend = [] ∧
      (0xFFFF#16) ≠ 0 := by decide +kernel

theorem witness_MonitorAndSleepResults_mwait :
    UniformRegs free 31 1 ∧ UniformRegs free 0 1 ∧ free.me.armed = [] ∧ free.me.rg 0 = 0 ∧ Ready (armed free true) ∧
      (∃ l ∈ (armed free true).me.armed, l.fired = true) ∧ Ready (armed ordered false) ∧
      (∀ l ∈ (armed ordered false).me.armed, l.fired = false) ∧
      ¬((armed ordered false).me.armed = [] ∧ (armed ordered false).me.rg 0 = 0) ∧ (armed ordered false).me.pend = [] ∧
      Settled (armed ordered false) := by decide +kernel

theorem witness_MonitorAndSleepResults_mon :
    Ready free ∧ free.pfx = none ∧ InRound free 1 ∧ ThreadRegs free 22 2 ∧ (free.rootOf free.cur).wrote = [] ∧
      (∀ k ∈ free.me.path, free.check free.cur k .mon (free.me.rx64 k 22) 0 1 false = (free, .ok inScratch)) ∧
      [(⟨true, 0, 0, 0, false, false⟩ : ArmedLine)].length ≤ 4 ∧ free.me.armed = [] ∧
      free.syncQuota (free.gridOf free.cur).fn = none ∧ (free.monitorsUsed free.me.core).length + 4 ≤ 63 :=
  ⟨by decide, by decide, by decide, by decide, by decide, passes_ok (by decide), by decide, by decide, by decide, by decide⟩

/-- A barrier of count 1 at offset 0x40 of scratchpad; g4 is its handle, g5 = 1, g6 = 1024, g7 = 2^31 − 1. -/
def barrier (s : State) : State :=
  unis { s with scratch := writeBytes s.scratch 0x40 (leBytes 16 (1 + 2 ^ 28)) } [(4, 0x40), (5, 1), (6, 1024), (7, 0x7FFFFFFF)]

theorem witness_BarrierResults :
    let s := barrier free
    Ready s ∧ s.pfx = none ∧ s.me.path = s.me.alive ∧ s.poison = [] ∧ s.mxu = [] ∧ s.late = false ∧ UniformRegs s 4 1 ∧
      UniformRegs s 5 1 ∧ s.checkHandle s.cur s.me.lowestAlive (s.me.rg 4) 16 16 = none ∧
      (∀ r ∈ [5, 6], let v := (s.me.rg r).toNat
        0 < v % 2 ^ 11 ∧ v % 2 ^ 11 ≤ 1024 ∧ v / 2 ^ 11 % 2 ^ 5 = 0 ∧ v / 2 ^ 17 = 0) ∧ (s.me.rg 7).toNat < 2 ^ 31 ∧
      (s.gridOf s.cur).ordered = false ∧ (Barrier.ofNat (s.seeObj s.cur (s.me.rg 4) 16)).valid = true ∧ UniformRegs s 31 1 ∧
      InRound s 1 ∧ (Barrier.ofNat (s.seeObj s.cur (s.me.rg 4) 16)).phase ≠ decide ((s.me.rg 5).toNat % 2 = 1) ∧
      ¬(Barrier.ofNat (s.seeObj s.cur (s.me.rg 4) 16)).phase ≠ decide ((s.me.rg 0).toNat % 2 = 1) ∧
      (Barrier.ofNat (s.seeObj s.cur (s.me.rg 4) 16)).ovr = false := by decide +kernel

theorem witness_BarrierResults_ordered :
    let s := barrier ordered
    Ready s ∧ s.pfx = none ∧ s.me.path = s.me.alive ∧ s.poison = [] ∧ s.mxu = [] ∧ s.late = false ∧
      s.checkHandle s.cur s.me.lowestAlive (s.me.rg 4) 16 16 = none ∧ (s.gridOf s.cur).ordered = true ∧ InRound s 1 ∧
      (Barrier.ofNat (s.seeObj s.cur (s.me.rg 4) 16)).valid = true ∧ Settled s ∧ s.me.pend = [] := by decide +kernel

theorem witness_BarrierResults_phases :
    0 < 1024 ∧ (Barrier.init 1024 true).arrived = 0 ∧ (Barrier.init 1024 true).pend = 0 ∧
      (Barrier.init 1024 true).expect = 1024 % 1024 := by decide +kernel

/-- A ring of two slots at offset 0x40 with one filled slot, number 0; g4 is its handle, g5 its base, g6 a
configuration. -/
def ring (s : State) : State :=
  unis { s with scratch := writeBytes s.scratch 0x40 (leBytes 32
      ({ Ring.init 0x1000 0x00010001 with widx := 1 } : Ring).toNat) } [(4, 0x40), (5, 0x1000), (6, 0x00010001)]

theorem witness_RingResults :
    let s := ring free
    let old := Ring.ofNat (s.seeObj s.cur (s.me.rg 4) 32)
    Ready s ∧ s.pfx = none ∧ s.me.path = s.me.alive ∧ s.poison = [] ∧ s.mxu = [] ∧ UniformRegs s 4 1 ∧ UniformRegs s 5 1 ∧
      s.checkHandle s.cur s.me.lowestAlive (s.me.rg 4) 32 32 = none ∧ UniformRegs s 6 1 ∧
      s.checkHandle s.cur s.me.lowestAlive ((s.me.rg 4).extractLsb' 27 5 ++ (s.me.rg 5).extractLsb' 0 27) 1 1 = none ∧
      cfgBad (s.me.rg 6) (handleOff (s.me.rg 5)) (s.gridOf s.cur).scratchBytes = false ∧ (s.gridOf s.cur).ordered = false ∧
      old.valid = true ∧ old.err = false ∧ old.widx ≠ old.ridx ∧ (28#5) ≠ 0 ∧ UniformRegs s 28 4 ∧ InRound s 1 ∧
      0 < (old.widx - s.me.rg 0).toNat ∧ (old.widx - s.me.rg 0).toNat < 2 ^ 31 ∧
      (s.me.rg 0 - old.ridx).toNat < 2 ^ old.lcount := by decide +kernel

theorem witness_RingResults_ordered :
    let s := ring ordered
    let old := Ring.ofNat (s.seeObj s.cur (s.me.rg 4) 32)
    Ready s ∧ s.pfx = none ∧ s.me.path = s.me.alive ∧ s.poison = [] ∧ s.mxu = [] ∧
      s.checkHandle s.cur s.me.lowestAlive (s.me.rg 4) 32 32 = none ∧ (s.gridOf s.cur).ordered = true ∧ Settled s ∧
      s.me.pend = [] ∧ InRound s 1 ∧ old.valid = true ∧ old.err = false := by decide +kernel

/-- Words 0 to 3 of a copy descriptor at offset 0x80 of scratchpad, whose handle is g4. -/
def copying (src dst ext ctl : Nat) : State :=
  unis { free with
    scratch := writeBytes free.scratch 0x80 ([src, dst, ext, ctl].flatMap (leBytes 8)), late := true } [(4, 0x80)]

/-- The descriptor. -/
def descriptor (src dst ext ctl : Nat) : BitVec 512 :=
  BitVec.ofNat 512 (src + 2 ^ 64 * dst + 2 ^ 128 * ext + 2 ^ 192 * ctl)

theorem value_of {ε α : Type} {r : Except ε α} {x : α} (h : r.toOption = some x) : r = .ok x := by
  cases r with
  | error => simp [Except.toOption] at h
  | ok => simp_all [Except.toOption]

/-- A copy of one byte within scratchpad. -/
def oneByte : State := copying (2 ^ 60) (2 ^ 60 + 0x100) 1 0

theorem witness_CopyAccepted :
    Ready oneByte ∧ InRound oneByte 2 ∧ oneByte.pfx = none ∧ oneByte.me.path = oneByte.me.alive ∧ oneByte.late = true ∧
      oneByte.mxu = [] ∧ (oneByte.gridOf oneByte.cur).producer = oneByte.me.gix ∧
      (oneByte.gridOf oneByte.cur).producer ≠ 0xFF ∧
      (oneByte.copies.filter (fun x => x.wg == oneByte.me.wg && copyOpen x.st)).length < 64 ∧
      UniformRegs oneByte 4 1 ∧ UniformRegs oneByte 0 1 := by decide +kernel

theorem witness_CopyAccepted_checked :
    (∀ p ∈ [(Desc.ofBits (descriptor (2 ^ 60) (2 ^ 60 + 0x100) 1 0)).src,
      (Desc.ofBits (descriptor (2 ^ 60) (2 ^ 60 + 0x100) 1 0)).dst], p.toNat / 2 ^ 60 < 4) ∧
      oneByte.cur = 0 ∧ oneByte.me.rg 4 = 0x80 ∧ oneByte.me.rg 0 = 0 ∧
      oneByte.copyCheck 0 0 0x80 0 0 = .ok (descriptor (2 ^ 60) (2 ^ 60 + 0x100) 1 0) :=
  ⟨List.forall_mem_cons.mpr ⟨by decide, List.forall_mem_cons.mpr ⟨by decide, nofun⟩⟩, by decide, by decide, by decide,
    value_of (by decide +kernel)⟩

theorem witness_CopyAccepted_forms :
    (copying 0x20000 (2 ^ 60 + 0x100) (1 + 2 ^ 32) (2 ^ 18)).copyCheck 0 1 0x80 0 0 =
        .ok (descriptor 0x20000 (2 ^ 60 + 0x100) (1 + 2 ^ 32) (2 ^ 18)) ∧
      (copying (2 ^ 60) 0x20000 1 0).copyCheck 0 2 0x80 0 0 = .ok (descriptor (2 ^ 60) 0x20000 1 0) ∧
      (copying (2 ^ 60) (2 ^ 60 + 0x100) 1 (2 ^ 32)).copyCheck 0 3 0x80 0 0 =
        .ok (descriptor (2 ^ 60) (2 ^ 60 + 0x100) 1 (2 ^ 32)) ∧
      (copying (2 ^ 60) 0x20000 1 (2 * 2 ^ 16)).copyCheck 0 4 0x80 0 0 = .ok (descriptor (2 ^ 60) 0x20000 1 (2 * 2 ^ 16)) :=
  ⟨value_of (by decide +kernel), value_of (by decide +kernel), value_of (by decide +kernel), value_of (by decide +kernel)⟩

/-- Format slot 1 holds TYPE 1. -/
def formats (s : State) : State := recByte s 0x50 1

theorem witness_MatrixAccepted :
    let s := formats free
    Ready s ∧ InRound s 4 ∧ s.pfx = none ∧ s.me.path = s.me.alive ∧ s.poison = [] ∧ s.follower s.cur = false ∧
      (7#3).toNat < (s.gridOf s.cur).accs ∧ (∀ q ∈ s.mxu, q.group ≠ s.cur ∨ (q.kind ≠ 3 ∧ q.kind ≠ 4)) ∧
      s.mxuDepth (s.homeCore s.cur) < 4 ∧ UniformRegs s 0 1 ∧ (s.tokens s.cur).getD 7 (.mxu 0) = .mxu s.me.gix ∧
      s.operandTrap 1 1 = none ∧
      s.rangeTrap [operandRange ((s.gridOf s.cur).fmt 1) 32 1 0, operandRange ((s.gridOf s.cur).fmt 1) 32 1 0] = none ∧
      mmaK (slotType ((s.gridOf s.cur).fmt 1)) (slotType ((s.gridOf s.cur).fmt 1)) = 32 ∧
      slotBad 4 ((s.gridOf s.cur).fmt 0) 0 = false ∧ s.rangeTrap [⟨0, 0, 16384, 16⟩] = none ∧ s.drainTrap 1 0 = none ∧
      (s.gridOf s.cur).ordered = false ∧
      s.rangeTrap [⟨0, 0, drainBytes ((s.gridOf s.cur).fmt 1) * 1, operandAlign ((s.gridOf s.cur).fmt 1)⟩] = none := by
  decide +kernel

theorem witness_MatrixAccepted_twoshot :
    let s := recByte (formats (program 2)) 0x20 2
    Ready s ∧ InRound s 4 ∧ (s.gridOf s.cur).twoshot = true ∧ s.follower s.cur = false ∧ s.operandTrap 1 1 = none ∧
      s.rangeTrap [operandRange ((s.gridOf s.cur).fmt 1) 32 1 0, operandRange ((s.gridOf s.cur).fmt 1) 32 2 0] = none := by
  decide +kernel

/-- Group 0 holds tile 7. -/
def holds (s : State) : State :=
  { s with wgs := s.wgs.map (fun (w : Workgroup) => { w with tokens := w.tokens.set 7 (.held 0) }) }

theorem witness_MatrixAccepted_others :
    let s := formats ordered
    Ready s ∧ InRound s 4 ∧ (s.gridOf s.cur).ordered = true ∧ s.mxu = [] ∧ slotBad 4 ((s.gridOf s.cur).fmt 0) 0 = false ∧
      s.rangeTrap [⟨0, 0, 16384, 16⟩] = none ∧ Ready (holds free) ∧
      ((holds free).tokens (holds free).cur).getD 7 (.mxu 0) ≠ .mxu (holds free).me.gix := by decide +kernel

theorem witness_TokenResults :
    let s := unis (holds ordered) [(6, 127), (7, 128)]
    Ready s ∧ InRound s 1 ∧ s.pfx = none ∧ s.me.path = s.me.alive ∧ s.mxu = [] ∧ s.follower s.cur = false ∧
      (7#3).toNat < (s.gridOf s.cur).accs ∧ s.me.wg < s.wgs.length ∧ (s.gridOf s.cur).ordered = true ∧
      (s.tokens s.cur).getD 7 (.mxu 0) = .held s.me.gix ∧ ThreadRegs s 63 1 ∧ UniformRegs s 6 1 ∧
      (s.me.rg 6).toNat < 128 * 1 ∧ 128 * 1 ≤ (s.me.rg 7).toNat ∧ (s.tokens s.cur).getD 0 (.mxu 0) = .mxu s.me.gix := by
  decide +kernel

theorem witness_TokenResults_others :
    let s := { free with wgs := free.wgs.map (fun (w : Workgroup) => { w with tokens := w.tokens.set 7 (.mxu 1) }) }
    Ready s ∧ (s.gridOf s.cur).ordered = false ∧ (s.tokens s.cur).getD 7 (.mxu 0) = .mxu 1 ∧ 1 ≠ s.me.gix ∧
      Ready (holds free) ∧ ((holds free).gridOf (holds free).cur).ordered = false ∧
      ((holds free).tokens (holds free).cur).getD 7 (.mxu 0) = .held (holds free).me.gix := by decide +kernel

/-- The group at supervisor privilege (2) or in its handler (1). -/
def privileged (s : State) (p : BitVec 2) : State :=
  grp0 s (fun g => { g with
    priv := p, st := if p = 1 then .handler else .running, savedSel := 0x10080, savedPc := [(0, 0x10080), (1, 0x10080)] })

theorem witness_SystemRegisterResults :
    Ready ordered ∧ InRound ordered 1 ∧ ordered.pfx = none ∧ ThreadRegs ordered 127 1 ∧ ordered.me.priv = 0 ∧
      Ready (privileged free 1) ∧ InRound (privileged free 1) 1 ∧ (privileged free 1).me.priv ≠ 0 ∧ 3 < 4 := by decide +kernel

theorem witness_SoftwareTrapEntersHandler :
    Ready handled ∧ InRound handled 1 ∧ handled.pfx = none ∧ handled.slots = [] ∧ handled.me.priv = 0 ∧
      (handled.gridOf handled.cur).handler = true ∧ (handled.gridOf handled.cur).hpc < 2 ^ 55 := by decide +kernel

theorem witness_TrapEntry :
    0 < handled.groups.length ∧ (handled.grp 0).priv = 0 ∧ (handled.gridOf 0).handler = true ∧ handled.slots = [] ∧
      (0xFF#8) ≠ 0x12 ∧ 31 < 32 ∧ (handled.gridOf 0).hpc < 2 ^ 55 := by decide +kernel

theorem witness_TrapEndsContext :
    0 < ordered.groups.length ∧ (ordered.gridOf 0).root < ordered.grids.length ∧ (ordered.grp 0).st ≠ .retired ∧
      ordered.slots = [] ∧ (0xFF#8) ≠ 0x12 ∧ 31 < 32 ∧ (ordered.grp 0).priv ≠ 1 ∧ (ordered.gridOf 0).handler = false ∧
      (ordered.gridOf 0).ordered = true ∧ ((privileged handled 1).grp 0).priv = 1 ∧
      ((privileged handled 1).grp 0).st ≠ .retired ∧ ((privileged handled 1).gridOf 0).ordered = true ∧
      ((privileged handled 2).grp 0).priv = 2 ∧ (free.grp 0).st ≠ .retired ∧ (free.gridOf 0).handler = false ∧
      (free.gridOf 0).ordered = false ∧ ((privileged free 1).grp 0).priv = 1 := by decide +kernel

theorem witness_ReturnFromTrapResults :
    let s := privileged handled 1
    Ready s ∧ s.pfx = none ∧ s.me.priv = 1 ∧ s.me.halter = false ∧
      (∃ k ∈ s.me.alive, inMask s.me.savedParked k = false ∧ (s.me.savedPc.get k).toNat = s.me.savedSel) ∧
      Ready free ∧ free.me.priv ≠ 1 ∧ Ready (grp0 s (fun g => { g with halter := true })) ∧
      (grp0 s (fun g => { g with halter := true })).me.halter = true := by decide +kernel

/-- A filter on EMIT is attached. -/
def watching : State := { ordered with slots := [⟨0, 3, 0, 0x60, 0, 0, [], true, 0, false⟩] }

theorem witness_EventCycleAndPrefixResults :
    Ready ordered ∧ InRound ordered 1 ∧ ordered.pfx = none ∧ ThreadRegs ordered 127 1 ∧ ThreadRegs ordered 126 2 ∧
      ordered.watched 0 0x60 (ordered.gridOf ordered.cur).tenant = false ∧ Ready watching ∧ InRound watching 1 ∧
      watching.watched 0 0x60 (watching.gridOf watching.cur).tenant = true ∧ ordered.me.core / 144 < ordered.dies.length ∧
      (ordered.gridOf ordered.cur).ordered = true ∧ (ordered.gridOf ordered.cur).timeread = false := by decide +kernel

theorem witness_EventCycleAndPrefixResults_others :
    Ready (program 9) ∧ InRound (program 9) 1 ∧ ((program 9).gridOf (program 9).cur).timeread = true ∧
      ((program 9).gridOf (program 9).cur).root < (program 9).grids.length ∧ (Instr.xtImm 0xFFFFFF).wf = true ∧
      (Instr.xtOpd 15 127).wf = true ∧ (Instr.xtMem 1 7 2 3).wf = true := by decide +kernel

/-- With no group on its way to a die, its landing slots take the next one. -/
theorem not_refused {s : State} {i die : Nat} (q : s.syncQuota (s.gridOf i).fn = none) (h : s.landingsAt die = []) :
    s.landingRefused i die = false := by
  have h1 : 0 < max 1 Config.landingSlots := by omega
  simp [State.landingRefused, State.landingSlot, State.groupSlot, State.entryFor, q, h, h1]

theorem witness_MigrationLaunchAndHaltResults :
    Ready free ∧ free.pfx = none ∧ free.poison = [] ∧ free.me.path = free.me.alive ∧ ThreadRegs free 20 2 ∧
      (free.me.rx64 free.me.lowestAlive 20).toNat < 2 ^ 55 ∧
      free.reachMemory free.cur free.me.lowestAlive .load (free.me.rx64 free.me.lowestAlive 20) = (free, .ok inData) ∧
      (free.gridOf free.cur).ordered = false ∧ (∀ q ∈ free.mxu, q.group ≠ free.cur) ∧ InRound free 1 ∧
      (free.rootOf free.cur).extLines = [] ∧ (free.me.rx64 free.me.lowestAlive 20).toNat % 256 = 0 ∧ UniformRegs free 31 1 ∧
      UniformRegs free 0 1 ∧ free.me.priv = 0 ∧ free.landingRefused free.cur (homeDie inData.addr) = false ∧ Coherent free ∧
      free.slots = [] ∧ (free.rootOf free.cur).extFrames = [] ∧ (free.rootOf free.cur).old = [] :=
  ⟨by decide, by decide, by decide, by decide, by decide, by decide, ok_of (by decide), by decide, by decide, by decide,
    by decide, by decide, by decide, by decide, by decide, not_refused (by decide) (by decide), by decide, by decide, by decide,
    by decide⟩

theorem witness_MigrationLaunchAndHaltResults_ordered :
    Ready ordered ∧ (ordered.gridOf ordered.cur).ordered = true ∧ Settled ordered ∧ ordered.me.windows = [] ∧
      Ready (privileged ordered 1) ∧ (privileged ordered 1).me.priv ≠ 0 ∧ InRound (privileged ordered 1) 1 ∧
      ((privileged ordered 1).grd ((privileged ordered 1).gridOf 0).root).halt = none ∧
      (∀ k, k < (privileged ordered 1).groups.length → ((privileged ordered 1).gridOf k).root =
        ((privileged ordered 1).gridOf (privileged ordered 1).cur).root →
        keyLt ((privileged ordered 1).key k) ((privileged ordered 1).key (privileged ordered 1).cur) = true →
        ((privileged ordered 1).grp k).past ((privileged ordered 1).me.lc / 64) = true) ∧
      (∀ k, k < (privileged ordered 1).grids.length → (privileged ordered 1).waitingTeams k = []) ∧
      ordered.landingRefused ordered.cur (homeDie inData.addr) = false ∧ Ready (privileged free 1) ∧ (privileged free 1).me.priv ≠ 0 ∧
      ((privileged free 1).gridOf (privileged free 1).cur).ordered = false :=
  ⟨by decide, by decide, by decide, by decide, by decide, by decide, by decide, by decide, by decide +kernel, by decide +kernel,
    not_refused (by decide) (by decide), by decide, by decide, by decide⟩

/-! ### Hypotheses that can be met: encoding and steps -/

theorem witness_EncodeDecodeRoundTrip :
    (Instr.bfe 127 127 31 0).wf = true ∧ encode (.bfe 127 127 31 0) = some 0x37FFFF80 := by decide +kernel

theorem witness_DecodeEncodeRoundTrip : decodeWord 0x37FFFF80 = .ok (.bfe 127 127 31 0) := rfl

/-- ADD x4, x5, x6 stands where the first group of a package that has just been reset issues next. -/
def atAdd : State := State.reset.withFetchWord 32 0x042050C0

/-- The translation of its page, before anything has used it. -/
def codePage : TlbEntry := ⟨0, 0xFFF, 1, 0x40000, 0x40219, 0x30008, none, 2, none, false⟩

theorem witness_StepRunsDecodedInstruction :
    atAdd.posted = [] ∧ atAdd.agenda = .issue 0 :: [] ∧ atAdd.canIssue 0 = true ∧ atAdd.atHaltRound 0 = false ∧
      (atAdd.grp 0).path ≠ [] ∧ atAdd.lookup (atAdd.gridOf 0) kindFetch (atAdd.grp 0).sel = .ok codePage ∧
      decodeWord (BitVec.ofNat 32 (readBytes (atAdd.gridOf 0).code (codePage.base + (atAdd.grp 0).sel % 65536) 4)) =
        .ok (.add 4 5 6) ∧
      (BitVec.ofNat 32 (readBytes (atAdd.gridOf 0).code (codePage.base + (atAdd.grp 0).sel % 65536) 4)).toNat / 2 ^ 26 ≠
        0x3F :=
  ⟨by decide, by decide, by decide, by decide, by decide, value_of (by decide), by rfl, by decide⟩

/-- ADDI x4, x5, 100000 there: two words. -/
def atAddi : State :=
  grid0 (State.reset.withFetchWord 32 0xFC000018) (fun g => { g with code := writeBytes g.code 0x40004 (leBytes 4 0x082056A0) })

/-- The state in which it fetches the second word. -/
def fetching : State :=
  ({ atAddi with agenda := [], cur := 0, at' := 0x10000, pfx := none, ir := 0 } : State).useEntry codePage kindFetch

theorem witness_StepRunsDecodedInstruction_prefix :
    atAddi.posted = [] ∧ atAddi.agenda = .issue 0 :: [] ∧ atAddi.canIssue 0 = true ∧ atAddi.atHaltRound 0 = false ∧
      (atAddi.grp 0).path ≠ [] ∧ atAddi.lookup (atAddi.gridOf 0) kindFetch 0x10000 = .ok codePage ∧
      (BitVec.ofNat 32 (readBytes (atAddi.gridOf 0).code 0x40000 4)).toNat / 2 ^ 26 = 0x3F ∧
      (fetching.lookup (atAddi.gridOf 0) kindFetch 0x10004).toOption.isSome = true ∧
      decodeWord (BitVec.ofNat 32 (readBytes (atAddi.gridOf 0).code 0x40004 4)) = .ok (.addi 4 5 0x6A0) :=
  ⟨by decide, by decide, by decide, by decide, by decide, value_of (by decide), by decide, by decide, by rfl⟩

theorem witness_StepRunsDecodedInstruction_others :
    ({ atAdd with posted := [.qtail 3 1] } : State).posted = .qtail 3 1 :: [] ∧
      ({ atAdd with agenda := [.event (.roundApply 0)] } : State).agenda = .event (.roundApply 0) :: [] ∧
      encode (.roundApply 0) = none ∧ (grp0 atAdd (fun g => { g with st := .sleeping })).canIssue 0 = false := by decide +kernel

theorem witness_IllegalWordTraps :
    decodeWord 0xD4000000 = .error .illegalMajor ∧ decodeWord 0x0420501F = .error .illegalCode ∧ free.pfx = none ∧
      Ready free := ⟨rfl, rfl, by decide, by decide⟩

/-- A window over x9. -/
def looking : State := grp0 free (fun g => { g with windows := [⟨9, false, 1, 2⟩] })

theorem witness_RegisterChecksTrap :
    Ready (recByte free 0x22 1) ∧ (recByte free 0x22 1).pfx = none ∧ ((recByte free 0x22 1).gridOf 0).nregs < 8 + 1 ∧
      Ready looking ∧ looking.pfx = none ∧ (∃ w ∈ looking.me.windows, w.uni = false ∧ w.reg ≤ 9 ∧ 9 < w.reg + w.count) ∧
      9 + 1 ≤ (looking.gridOf looking.cur).nregs := by decide +kernel

theorem witness_StepKeepsCanonical : Canonical State.reset ∧ ∃ t, step State.reset = .next t := by
  refine ⟨by decide, ?_⟩
  exact ⟨_, rfl⟩

/-! ### Hypotheses that can be met: rounds and events -/

/-- A second group of the same workgroup. -/
def pair (s : State) : State :=
  { s with groups := s.groups ++ s.groups.map (fun (g : Group) => { g with gix := 1 }) }

/-- Every group changed. -/
def every (s : State) (f : Group → Group) : State := { s with groups := s.groups.map f }

/-- Both groups have closed round 2, and both have stored to line 0x50000 / 64. -/
def closed : State :=
  grid0 (every (pair ordered) (fun g => { g with lc := 192 })) (fun g => { g with
    applied := 2
    contribs := [⟨2, 0, [⟨false, 0, 0x800, 0x1400, 0xFF, 0x1122334455667788, 0, false, false⟩], []⟩,
      ⟨2, 1, [⟨false, 0, 0x800, 0x1400, 0x3C, 0x99AABBCCDDEEFF11, 0, false, false⟩], []⟩] })

theorem witness_RoundApplicationResults :
    closed.roundDue 0 = true ∧ (closed.grd 0).ending = [] ∧ (closed.grd 0).halt = none ∧
      closed.endingDue 0 = none ∧ (closed.grd 0).area = none ∧
      (∀ c ∈ (closed.grd 0).contribs, c.round = (closed.grd 0).applied ∧ c.ops = [] ∧
        c.take.Pairwise (fun a b => a.scratch ≠ b.scratch ∨ a.place ≠ b.place)) ∧
      (closed.grd 0).contribs.Pairwise (fun a b => keyLt (closed.key a.group) (closed.key b.group) = true) := by
  decide +kernel

/-- Another agent has written byte 2 of the line behind the round. -/
theorem witness_RoundApplicationResults_behind :
    let s := grid0 closed (fun g => { g with old := [(0x1400, 0, 4)] })
    s.roundDue 0 = true ∧ s.endingDue 0 = none ∧ (s.grd 0).ending = [] ∧ (s.grd 0).halt = none ∧ (s.grd 0).area = none ∧
      ∃ e ∈ (s.grd 0).old, e.1 = 0x50002 / 64 ∧ e.2.2.getLsbD (0x50002 % 64) = true := by decide +kernel

/-- Group `i` asleep. -/
def asleep (s : State) (i : Nat) (k : SleepKind) (w : Option Nat) : State :=
  s.modGrp i (fun g => { g with
    st := .sleeping, sleep := some ⟨k, 0x10000, 3⟩, wake := w, armed := [⟨false, 0, 5, 5, true, false⟩] })

theorem witness_WakeResults :
    let s := asleep (asleep (grid0 (pair ordered) (fun g => { g with applied := 2 })) 0 (.mwait 5) (some 2)) 1 .cede (some 1)
    s.slots = [] ∧ s.wakeDue 0 = true ∧ s.wakeDue 1 = true ∧ (s.grp 0).wake = some 2 ∧ (s.grp 1).wake = some 1 ∧
      (s.grp 0).sleep = some ⟨.mwait 5, 0x10000, 3⟩ ∧ (s.grp 1).sleep = some ⟨.cede, 0x10000, 3⟩ := by decide +kernel

theorem witness_WakeResults_free :
    let s := asleep (asleep (pair free) 0 (.mwait 5) (some 1)) 1 .cede (some 1)
    s.slots = [] ∧ (s.gridOf 0).ordered = false ∧ (s.gridOf 0).st = .running ∧ (s.grp 0).st = .sleeping ∧
      (s.grp 0).wake ≠ none ∧ (s.grp 0).sleep = some ⟨.mwait 5, 0x10000, 3⟩ ∧ (s.grp 1).st = .sleeping ∧
      (s.grp 1).wake ≠ none ∧ (s.grp 1).sleep = some ⟨.cede, 0x10000, 3⟩ := by decide +kernel

theorem witness_WakeResults_deadlock :
    let s := asleep (asleep (pair handled) 0 (.mwait 5) none) 1 (.mwait 6) none
    s.slots = [] ∧ s.deadlocked 0 = true ∧ 0 ∈ s.sleepers 0 ∧
      (∀ k ∈ s.sleepers 0, k ≠ 0 → keyLt (s.key 0) (s.key k) = true) ∧ (s.grp 0).priv = 0 ∧
      (s.gridOf 0).handler = true ∧ (s.grp 0).sleep = some ⟨.mwait 5, 0x10000, 3⟩ := by decide +kernel

/-- A write of another agent that has not landed. -/
def pending : State := { free with ext := [⟨0x50002, [1, 2, 3], true⟩] }

/-- A copy of one byte that an ORDERED group has issued. -/
def copied : State := { ordered with
  copies := [⟨0, 0, 0, descriptor (2 ^ 60 + 4) (2 ^ 60 + 0x80) 1 0, 0x80, 0, 0, 0, 0, none, [], [], 0, [], none⟩] }

theorem witness_BoundaryEventResults :
    pending.externalDue 0 = true ∧ pending.ext[0]? = some ⟨0x50002, [1, 2, 3], true⟩ ∧
      free.linesOk noDomain (linesFrom 0x50000 1) = true ∧ free.ext = [] ∧ 0x50000 + [(1 : Byte)].length ≤ 2 ^ 47 ∧
      (grid0 ordered (fun g => { g with reads := [0x1400] })).linesOk noDomain (linesFrom 0x50000 1) = false ∧
      ∃ x ∈ pending.ext, x.host = true ∨ x.addr / 64 ∈ linesFrom 0x50000 1 := by decide +kernel

theorem witness_BoundaryEventResults_source :
    copied.sourceDue 0 = true ∧ copied.copies[0]? = some ⟨0, 0, 0, descriptor (2 ^ 60 + 4) (2 ^ 60 + 0x80) 1 0, 0x80, 0, 0,
        0, 0, none, [], [], 0, [], none⟩ ∧ copied.poison = [] ∧ (copied.grp 0).closing = none ∧
      (Desc.ofBits (descriptor (2 ^ 60 + 4) (2 ^ 60 + 0x80) 1 0)).src.toNat / 2 ^ 60 = 1 ∧
      (Desc.ofBits (descriptor (2 ^ 60 + 4) (2 ^ 60 + 0x80) 1 0)).dst.toNat / 2 ^ 60 = 1 := by decide +kernel

theorem witness_BoundaryEventResults_trap :
    let p : Trap := ⟨0x03, 1, 0x0102, 7, 9, 2, false⟩
    let s := grp0 handled (fun g => { g with pend := [p] })
    s.trapDue 0 = true ∧ (s.grp 0).pend = p :: [] ∧ (s.grp 0).flight = [] ∧ s.slots = [] ∧ p.code ≠ 0x12 ∧
      (s.grp 0).priv = 0 ∧ (s.gridOf 0).handler = true := by decide +kernel

/-- An access in flight: kind, place, what it carries. -/
def flying (kind : Nat) (scratch : Bool) (addr : Nat) (atom : Option AtomReq) : Flight :=
  ⟨0, kind, 1, false, 127, 0, 4, 4, false, scratch, addr, 0, 0, ⟨0, 0, false, false, none⟩, 0xDEADBEEF, atom, false⟩

/-- An ATOM.ADD of thread 1. -/
def adding : AtomReq := ⟨1, .add, false, false, 0x50010, 7, 0, 127⟩

/-- A load, a store and an atomic in flight. -/
def inFlight : State := grp0 free (fun g => { g with
  flight := [flying 0 true 0x44 none, flying 1 false 0x50000 none, flying 2 false 0x50010 (some adding)] })

theorem witness_ArrivalResults :
    inFlight.slots = [] ∧ (inFlight.grp 0).flight[0]? = some (flying 0 true 0x44 none) ∧
      (flying 0 true 0x44 none).gen = (inFlight.grp 0).gen ∧
      (∀ x ∈ (inFlight.grp 0).flight.take 0, x.meets true 0x44 4 = false) ∧
      (inFlight.grp 0).flight[1]? = some (flying 1 false 0x50000 none) ∧ inFlight.linesOk noDomain [0x50000 / 64] = true ∧
      homeDie 0x50000 = (inFlight.grp 0).core / 144 ∧ homeDie (2 ^ 44) ≠ (inFlight.grp 0).core / 144 ∧
      (∀ x ∈ (inFlight.grp 0).flight.take 1, x.meets false 0x50000 4 = false) ∧
      (inFlight.grp 0).flight[2]? = some (flying 2 false 0x50010 (some adding)) ∧
      (∀ x ∈ (inFlight.grp 0).flight.take 2, x.meets false 0x50010 4 = false) ∧ adding.op = .add ∧ adding.d < 128 := by
  decide +kernel

/-- A host access under way. -/
def asking (store : Bool) : HostReq := ⟨0x4000000000000100, 4, store, 1, false, 127, false, 0xCAFEBABE, 0⟩

theorem witness_ArrivalResults_host :
    (∀ b, (grp0 free (fun g => { g with hostReq := some (asking b) })).slots = [] ∧
      ((grp0 free (fun g => { g with hostReq := some (asking b) })).grp 0).hostReq = some (asking b) ∧
      ((grp0 free (fun g => { g with hostReq := some (asking b) })).gridOf 0).st ≠ .saved ∧
      ((grp0 free (fun g => { g with hostReq := some (asking b) })).grp 0).st ≠ .retired) ∧
      (asking true).ptr.getLsbD 54 = false ∧ (asking false).size = 4 ∧ (asking false).reg < 128 ∧ (asking false).gen = (free.grp 0).gen ∧ (0xFF#8) ≠ 0 := by
  decide +kernel

/-- A request for a monitor entry has been refused three times. -/
def refused (n : Nat) : State :=
  grp0 free (fun g => { g with nack := some ⟨0, 0, 3, false, false⟩, armed := (List.range n).map (fun k => ⟨true, 0, 5, 5, false, k == 0⟩) })

theorem witness_ArrivalResults_groups :
    (grp0 free (fun g => { g with st := .migrating, target := 0 })).arrivalOk 0 0 = true ∧ free.me.armed = [] ∧
      (grp0 free (fun g => { g with st := .migrating, target := 1 })).arrivalOk 0 144 = true ∧ free.me.core ≠ 144 ∧
      (grp0 ordered (fun g => { g with st := .migrating, target := 0 })).arrivalOk 0 0 = true ∧
      ((refused 0).grp 0).nack = some ⟨0, 0, 3, false, false⟩ ∧ ((refused 0).grp 0).st ≠ .retired ∧ (refused 0).creditsDue 0 = [] ∧
      ((refused 0).gridOf 0).st = .running ∧ (refused 0).stillRefused 0 ⟨0, 0, 3, false, false⟩ = false ∧
      (refused 64).stillRefused 0 ⟨0, 0, 3, false, false⟩ = true := by decide +kernel

/-- A message to the barrier. -/
def sent : State := { barrier free with barNet := [⟨0, 1, 0x40, 10, false⟩] }

/-- A HALTCTX at its end. -/
def halting : State := grp0 free (fun g => { g with haltWait := some (31, 0, 2) })

theorem witness_ArrivalResults_ends :
    sent.messageDue 0 = true ∧ sent.barNet[0]? = some ⟨0, 1, 0x40, 10, false⟩ ∧
      (Barrier.ofNat (readBytes sent.scratch (sent.handleKey 0 0x40) 16)).valid = true ∧ halting.slots = [] ∧
      (halting.grp 0).haltWait = some (31, 0, 2) ∧ (halting.gridOf 0).st = .running ∧
      halting.openCopies (halting.gridOf 0).root = [] ∧ halting.copies = [] ∧ (halting.gridOf 0).ordered = false ∧ (halting.grp 0).path ≠ [] ∧
      (halting.grp 0).walk = .none ∧ (halting.grp 0).windows = [] ∧ (halting.grp 0).pend = [] ∧
      (halting.grp 0).sel + 4 < 2 ^ 55 ∧ (halting.grp 0).st ≠ .retired := by decide +kernel

/-- The group of a copy within scratchpad, FREE. -/
def copying1 : State := { free with
  copies := [⟨0, 0, 0, descriptor (2 ^ 60 + 4) (2 ^ 60 + 0x80) 6 0x20000, 0x80, 0, 0, 0, 0, none, [], [], 0, [], none⟩] }

theorem witness_EngineResults_copy :
    let c : Copy := ⟨0, 0, 0, descriptor (2 ^ 60 + 4) (2 ^ 60 + 0x80) 6 0x20000, 0x80, 0, 0, 0, 0, none, [], [], 0, [], none⟩
    let d := Desc.ofBits (descriptor (2 ^ 60 + 4) (2 ^ 60 + 0x80) 6 0x20000)
    copying1.copies[0]? = some c ∧ copying1.copyDue 0 c = true ∧ copying1.poison = [] ∧ (copying1.grp c.group).flight = [] ∧
      d.dims = 0 ∧ d.ckind = 0 ∧ d.src.toNat / 2 ^ 60 = 1 ∧ d.dst.toNat / 2 ^ 60 = 1 ∧
      d.src.toNat % 2 ^ 55 + d.ext0 * d.es ≤ 2 ^ 19 ∧ d.dst.toNat % 2 ^ 55 + d.ext0 * d.es ≤ 2 ^ 19 ∧
      Apart (copying1.rankKey 0 (d.src.toNat / 2 ^ 55 % 32) (d.src.toNat % 2 ^ 55)) (d.ext0 * d.es)
        (copying1.rankKey 0 (d.dst.toNat / 2 ^ 55 % 32) (d.dst.toNat % 2 ^ 55)) (d.ext0 * d.es) := by decide +kernel

/-- An accepted ZACC or LDA of tile 7. -/
def accepted (kind : Nat) : State := { free with mxu := [⟨0, 0, kind, 7, false, 0, 0, 0, 0, [], [], 0, 0⟩] }

theorem witness_EngineResults_matrix :
    (accepted 5).mxu.find? (fun q => q.core == 0) = some ⟨0, 0, 5, 7, false, 0, 0, 0, 0, [], [], 0, 0⟩ ∧
      (accepted 2).mxu.find? (fun q => q.core == 0) = some ⟨0, 0, 2, 7, false, 0, 0, 0, 0, [], [], 0, 0⟩ ∧
      ((accepted 5).gridOf 0).st ≠ .saved ∧ 7 < 8 := by decide +kernel

/-- A grid with one workgroup that has not started. -/
def unstarted : State := { grid0 free (fun g => { g with nextTeam := 0 }) with wgs := [], groups := [] }

theorem witness_EngineResults_start : unstarted.startDue 0 0 0 = true := by decide +kernel

/-- A child grid whose last group has retired. -/
def finished : State :=
  let s := grp0 free (fun g => { g with st := .retired })
  { s with grids := s.grids ++ s.grids.map (fun (g : Grid) => { g with
      parent := some 0, root := 0, seq := 9, lrec := g.lrec.take 0x88 ++ leBytes 8 0x20040 ++ g.lrec.drop 0x90 }) }

theorem witness_GridCompletion :
    finished.drained 1 = true ∧ finished.completionOpen 1 = true ∧ (finished.grd 1).parent ≠ none ∧
      (finished.grd 1).status = none ∧
      finished.span (finished.grd 1) kindStore (finished.grd 1).crec 64 = some ([(0x50040, 64)], finished) := by
  decide +kernel

/-- Export entry 0 of this package serves virtual channel 63 from 0x20000 on. -/
def exportingAt (p : BitVec 10) : State := { free with
  regs := [(0x400000, 1), (0xC00000, 0#15 ++ p ++ 63#6 ++ 1#1), (0xC00002, 0x20000), (0xC00004, 0x10000),
    (0xC00006, 0x50000)] }

/-- A request of 4 bytes for the package `p` on channel 63. -/
def requestFor (p : BitVec 10) : Dword := p ++ 0xFC000000004#54

/-- What the fields of the request hold, whatever the index of the package is. -/
theorem request_fields : ∀ p : BitVec 10, (requestFor p).extractLsb' 54 10 = p ∧
    ((requestFor p).extractLsb' 0 9).toNat = 4 ∧ (requestFor p).extractLsb' 36 2 = 0 ∧
    (requestFor p).extractLsb' 38 6 = 63 ∧ (requestFor p).extractLsb' 20 16 = 0 := by decide +kernel

/-- What the fields of the entry hold. -/
theorem entry_fields : ∀ p : BitVec 10, ((0 : BitVec 32) ++ (0#15 ++ p ++ 63#6 ++ 1#1)).getLsbD 0 = true ∧
    ((0 : BitVec 32) ++ (0#15 ++ p ++ 63#6 ++ 1#1)).extractLsb' 1 6 = 63 ∧
    ((0 : BitVec 32) ++ (0#15 ++ p ++ 63#6 ++ 1#1)).extractLsb' 7 10 = p := by decide +kernel

/-- Entry 0 serves the request. -/
theorem export_found (p : BitVec 10) (h : p = Config.packageIndex) : (exportingAt p).exportOf 63 0x20010 4 = some 0 := by
  rw [State.exportOf, ← h, show List.range 64 = 0 :: (List.range 63).map (· + 1) from rfl]
  refine List.find?_cons_of_pos ?_
  have h0 : (exportingAt p).reg64 0x03000000 = (0 : BitVec 32) ++ (0#15 ++ p ++ 63#6 ++ 1#1) := rfl
  have h1 : (exportingAt p).reg64 (0x03000000 + 8) = 0x20000 := by
    show 0#32 ++ 0x20000#32 = 0x20000#64
    decide +kernel
  have h2 : (exportingAt p).reg64 (0x03000000 + 16) = 0x10000 := by
    show 0#32 ++ 0x10000#32 = 0x10000#64
    decide +kernel
  obtain ⟨a, b, c⟩ := entry_fields p
  simp only [Nat.mul_zero, Nat.add_zero, h0, h1, h2, a, b, c, beq_self_eq_true, Bool.and_true, Bool.true_and]
  decide +kernel

theorem witness_FabricResults :
    let p := Config.packageIndex
    let s := exportingAt p
    let w0 := requestFor p
    s.slots = [] ∧ (w0.extractLsb' 0 9).toNat = [1, 2, 3, 4].length ∧ w0.extractLsb' 54 10 = p ∧
      s.channelGen (w0.extractLsb' 38 6) = some (w0.extractLsb' 20 16) ∧ w0.extractLsb' 36 2 = 0 ∧
      s.exportOf (w0.extractLsb' 38 6) 0x20010 4 = some 0 ∧ s.writeOpen false 0x50010 4 = true := by
  intro p s w0
  obtain ⟨a, b, c, d, e⟩ := request_fields p
  have g : s.channelGen 63 = some 0 := by
    show some ((1 : BitVec 32).extractLsb' 16 16) = some 0
    decide +kernel
  exact ⟨rfl, b, a, by rw [d, e, g], c, by rw [d]; exact export_found p rfl, (by decide : free.writeOpen false 0x50010 4 = true)⟩

theorem witness_FabricResults_stale :
    ¬(free.channelGen 63 = some 5) ∧ ((2 ^ 44 * 0 + 5 * 2 ^ 20 + 63 * 2 ^ 38 : Dword).extractLsb' 20 16) = 5 := by decide +kernel

/-- Window 0 is at home here, with 3 contributors and a finished element. -/
def reduced : State := { free with
  regs := free.regs ++ [(0x800000, 0x83), (0x800002, 0x10000), (0x800004, 64), (0x800005, 3), (0x800008, 0x50000)]
  reduce := [⟨0, 8, 0, 3, 0x12345678⟩] }

theorem witness_FabricResults_reduction :
    (reduced.winCtl 0).getLsbD 0 = true ∧ reduced.winHome 0 = true ∧
      reduced.nodeAt 0 8 0 (reduced.winN 0) = some ⟨0, 8, 0, 3, 0x12345678⟩ ∧ reduced.writeOpen false 0x50008 4 = true := by decide +kernel

/-- A translation fault. -/
def fault (id : Word) (fn : Nat) (written : Bool) (group copy : Option Nat) : FaultEntry :=
  ⟨id, fn, [1, 2, 3], group, copy, ⟨0x03, 1, 0x0102, 0, 9, 0, false⟩, written, none⟩

/-- A fault of the group whose record is due, and the same with its record written, under which it is parked. -/
def faulted (written : Bool) : State :=
  { grp0 free (fun g => { g with st := .parked, faultId := some 5 }) with faults := [fault 5 0 written (some 0) none] }

/-- A copy that waits for a reply. -/
def copyFaulted : State := { free with
  faults := [fault 5 0 true none (some 0)], copies := [⟨0, 0, 0, 0, 0x80, 0, 0, 0, 0, none, [], [], 4, [], none⟩] }

theorem witness_TranslationResults :
    31 < 32 ∧ free.settled 0 = true ∧ (faulted false).recordDue 0 = true ∧
      (faulted false).faults[0]? = some (fault 5 0 false (some 0) none) ∧ (fault 5 0 false (some 0) none).words.length = 3 ∧
      (faulted true).repliedFault 0 5 = some (fault 5 0 true (some 0) none) ∧ ((faulted true).grp 0).st = .parked ∧
      ((faulted true).grp 0).faultId = some 5 ∧ ((faulted true).gridOf 0).st ≠ .saved ∧
      (grid0 (faulted true) (fun g => { g with st := .saved })).repliedFault 0 5 = some (fault 5 0 true (some 0) none) ∧ copyFaulted.repliedFault 0 5 = some (fault 5 0 true none (some 0)) ∧
      (copyFaulted.copies[0]?).map Copy.st = some 4 ∧ (copyFaulted.gridOf 0).ordered = false := by decide +kernel

/-- A command of the frame allocator is accepted: its word, for an entry at 0x60000. -/
def command (cmd : Nat) : State :=
  ((free.setReg64 0x10000 0x60000).setReg64 0x10008 (BitVec.ofNat 64 cmd)).setReg64 0x10010 0x8000000000000000

/-- A frame of the attic of die 1, and one of its cellar. -/
def attic : Nat := tierBase 1 false + 5

/-- Base page for tenant 0 and address space 3 on die 1. -/
def basePage : State := command (2 ^ 59 + 2 ^ 39 * 3)

theorem witness_FrameResults :
    attic < 2 ^ 32 ∧ (basePage.reg64 0x10010).getLsbD 63 = true ∧ (basePage.reg64 0x10008).toNat / 2 ^ 62 = 0 ∧
      (basePage.allocTier (basePage.reg64 0x10008) 1).toOption = some false ∧ basePage.runFree 0 1 false attic 1 = true ∧
      basePage.framesOk attic 1 = true ∧ basePage.entryOpen 0x60000 = true ∧ basePage.tenantFn 0 = some 0 ∧ ((command (2 ^ 59 + 2 ^ 51 * 7)).allocTier (2 ^ 59 + 2 ^ 51 * 7) 1).toOption = none ∧
      ((command (2 ^ 62 + 2 ^ 59)).reg64 0x10008).toNat / 2 ^ 62 = 1 ∧
      ((command (2 ^ 63 + 2 ^ 59)).reg64 0x10008).toNat / 2 ^ 62 = 2 := by decide +kernel

/-- A frame that is held, with the entry that names it. -/
def heldFrame (s : State) : State := { s with
  frames := [⟨attic, 0, 3, true, 0, 0x60000, false⟩], mem := writeBytes s.mem 0x60000 (leBytes 8 (2 ^ 16 * attic + 0x201)) }

theorem witness_FrameResults_release :
    let s := heldFrame (command (3 * 2 ^ 62 + 2 ^ 59 + 2 ^ 39 * 3))
    (s.reg64 0x10010).getLsbD 63 = true ∧ (s.reg64 0x10008).toNat / 2 ^ 62 = 3 ∧
      (s.reg64 0x10008).toNat / 2 ^ 57 % 4 ≠ 3 ∧ ((command (3 * 2 ^ 62 + 3 * 2 ^ 57)).reg64 0x10008).toNat / 2 ^ 57 % 4 = 3 ∧
      s.framesOf 0x60000 ≠ [] ∧ s.framesQuiet (s.framesOf 0x60000) = true ∧ s.entryOpen 0x60000 = true ∧ pteP (readPte s.tables 0x60000) = true ∧
      (∃ x ∈ s.frames, x.held = true ∧ x.back = 0x60000) ∧
      pteP (readPte (command (3 * 2 ^ 62 + 2 ^ 59)).tables 0x60000) = false := by decide +kernel

theorem witness_FrameResults_migration :
    let s := heldFrame free
    let frame := tierBase 1 true + 5
    frame < 2 ^ 32 ∧ s.migrationOk 0x60000 frame = some ⟨attic, 0, 3, true, 0, 0x60000, false⟩ ∧ s.ext = [] ∧
      0x60000 / 65536 ≠ attic ∧ 0x60000 / 65536 ≠ frame ∧ (0x60000 + 7) / 65536 ≠ attic ∧ (0x60000 + 7) / 65536 ≠ frame ∧
      frame / 2 ^ 27 % 2 ≠ attic / 2 ^ 27 % 2 := by decide +kernel

/-- Queue 3: 16 packets in host memory at 0x10000, completions at 0x20000, the root table, and QTAIL. -/
def queue (on : Bool) (tail : Nat) : State :=
  let b := 0x00200000 + 64 * 3
  [(b, 2 ^ 62 + 0x10000), (b + 0x18, 2 ^ 62 + 0x20000), (b + 0x10, 0x10000),
    (b + 8, (if on then 1 else 0) + 2 ^ 16 * 0xFFF), (b + 0x20, tail)].foldl
      (fun (s : State) e => s.setReg64 e.1 (BitVec.ofNat 64 e.2)) free

theorem witness_QueueResults :
    3 < 16384 ∧ ((queue false 0).reg64 (0x00200000 + 64 * 3 + 8)).getLsbD 0 = false ∧
      ((queue false 0).setReg64 (0x00200000 + 64 * 3) 8).enableFault 3 (1 + 2 ^ 16 * 0xFFF) ≠ none ∧
      ((queue true 1).reg64 (0x00200000 + 64 * 3 + 8)).getLsbD 0 = true ∧ (queue true 1).packets = [] ∧ (queue true 1).hostErr = [] ∧
      (queue true 1).fetchDue 3 = true ∧ ((queue true 1).reg64 (0x00200000 + 64 * 3)).toNat / 2 ^ 60 = 4 ∧
      ((queue true 1).reg64 (0x00200000 + 64 * 3)).toNat % 2 ^ 55 < 2 ^ 54 ∧
      ((queue true 1).reg64 (0x00200000 + 64 * 3)).toNat % 4096 = 0 ∧
      2 ^ (0 + 4) < ((17 : Word) - (queue true 0).reg (0x00200000 + 64 * 3 + 0x28)).toNat ∧
      ¬2 ^ (0 + 4) < ((16 : Word) - (queue true 0).reg (0x00200000 + 64 * 3 + 0x28)).toNat := by decide +kernel

/-- Queue 3 before it is enabled, in a package whose only other registers are those of its owner. -/
def disabled : State := { free with
  regs := [(0x80030, 0x10000), (0x80031, 0x40000000), (0x80034, 0x10000), (0x80036, 0x20000), (0x80037, 0x40000000),
    (0x400000, 1), (0x40000A, 0xFFFFFFFF)] }

/-- No queue of it is enabled. -/
theorem disabled_all (k : Nat) (h : k < 16384) : disabled.queueOn k = false := by
  have e : (queueBase k + 8) / 4 = 0x80000 + 16 * k + 2 := by unfold queueBase; omega
  have r : disabled.reg (queueBase k + 8) = 0 := by
    show Sparse.get disabled.regs ((queueBase k + 8) / 4) = 0
    rw [e]
    simp only [disabled, Sparse.get]
    repeat' split
    all_goals first | rfl | omega
  show ((disabled.reg (queueBase k + 8 + 4) ++ disabled.reg (queueBase k + 8) : BitVec 64)).getLsbD 0 = false
  rw [r, BitVec.getLsbD_append]
  rfl

theorem witness_QueueResults_enable : disabled.enableFault 3 (1 + 2 ^ 16 * 0xFFF) = none := by
  have h : ∀ p : Nat → Bool, (List.range 16384).any (fun k => k != 3 && disabled.queueOn k && p k) = false := by
    intro p
    rw [List.any_eq_false]
    intro k hk
    simp [disabled_all k (List.mem_range.mp hk)]
  have h' := h (fun k => disabled.queueOwner k == disabled.queueOwner 3 && ((disabled.qctl k).extractLsb' 16 12 ==
    (1 + 2 ^ 16 * 0xFFF : Dword).extractLsb' 16 12 && disabled.reg64 (queueBase k + 0x10) != disabled.reg64 (queueBase 3 + 0x10)))
  simp only [← Bool.and_assoc] at h'
  unfold State.enableFault
  simp only [h']
  decide +kernel

/-- The record of a program in the data page, its packet and the program of a filter behind it. -/
def records : State :=
  let s := queue true 1
  { s with
    mem := writeBytes (writeBytes s.mem 0x50100 fetchRecord) 0x50400 (leBytes 4 2 ++ leBytes 4 0x8000005 ++ leBytes 4 0xA8000000) }

/-- Packet 1 of queue 3. -/
def packet (ws : List Dword) (st : PacketState) : Packet := ⟨3, 1, (ws ++ List.replicate 8 0).take 8, st, none, true⟩

/-- It alone has been fetched. -/
def fetchedOne (ws : List Dword) : State := { records with packets := [packet ws .fetched] }

/-- What a packet needs to begin. -/
def begins (s : State) (p : Packet) : Bool :=
  s.packetIx 3 p.seq == some 0 && s.packets[0]? == some p && s.turnOf p && s.ready p && s.topPrio p && s.packetOpen p

theorem witness_PacketResults :
    begins (fetchedOne [0]) (packet [0] .fetched) = true ∧ HostRing (fetchedOne [0]) 3 ∧
      (packet [0] .fetched).badBits = false ∧ begins (fetchedOne [6]) (packet [6] .fetched) = true ∧
      (packet [6] .fetched).badBits = true ∧ begins (fetchedOne [2, 0, 0]) (packet [2, 0, 0] .fetched) = true ∧
      (packet [2, 0, 0] .fetched).badBits = false := by decide +kernel

/-- A NOP of queue 3 and one of queue 4, which take one and two packets in a turn; queue 3 was served last. -/
def rotating : State :=
  let a := packet [0] .fetched
  { (queue true 1).setReg64 (0x00200000 + 64 * 4 + 8) (1 + 2 ^ 9 + 2 ^ 16 * 0xFFF) with
    packets := [a, { a with queue := 4 }]
    served := [(0, 3, 1)] }

/-- R224: queue 3 has taken its share, so queue 4 is next, and stays so for a second packet. -/
theorem test_rotation :
    rotating.topPrio (packet [0] .fetched) = false ∧ (run (.nopPacket 3 1) rotating).served = [(0, 3, 1)] ∧
      (run (.nopPacket 4 1) rotating).served = [(0, 4, 1)] ∧ (rotating.serve 4).servedNext 0 = some 4 ∧
      ((rotating.serve 4).serve 4).servedNext 0 = some 3 := by decide +kernel

theorem witness_PacketResults_signal :
    begins (fetchedOne [3, 2 ^ 62 + 0x3008]) (packet [3, 2 ^ 62 + 0x3008] .fetched) = true ∧
      (packet [3, 2 ^ 62 + 0x3008] .fetched).badBits = false ∧ plainPtr (2 ^ 62 + 0x3008) 8 = true ∧ (2 ^ 62 + 0x3008 : Dword).getLsbD 54 = false ∧
      begins (fetchedOne [3, 2 ^ 61]) (packet [3, 2 ^ 61] .fetched) = true ∧ plainPtr (2 ^ 61) 8 = false := by decide +kernel

/-- The record as it reads. -/
def record : List Byte := fetchRecord

/-- The state of a launch once it has begun. -/
def launching : State := { fetchedOne [1, 0x20100] with
  packets := [packet [1, 0x20100] .begun]
  served := [(0, 3, 1)] }

theorem witness_PacketResults_launch :
    begins (fetchedOne [1, 0x20100]) (packet [1, 0x20100] .fetched) = true ∧
      (packet [1, 0x20100] .fetched).badBits = false ∧
      launching.packetRecord 3 0x20100 = some (record, launching) ∧
      launchFault (packet [1, 0x20100] .begun) record (launching.usableDies 0 0) = none ∧
      launching.packetRecord 3 0x20180 = none ∧
      launchFault (packet [1, 0x20100] .begun) (List.replicate 256 0) (launching.usableDies 0 0) ≠ none := by decide +kernel

/-- An ORDERED launch of queue 3, sequence number 1, and a QUIESCE behind it. -/
def quiescer (st : GridState) (ws : List Dword) : State :=
  { grid0 records (fun g => { g with queue := 3, seq := 1, st := st, lrec := g.lrec.set 0x2B 1 }) with
    packets := [{ packet [1] .begun with grid := some 0 }, { packet ws .fetched with seq := 2 }] }

theorem witness_PacketResults_quiesce :
    (∀ op ∈ [(0 : Dword), 1, 2, 3], let s := quiescer .running [4, 1, 0, op]
      let p := { packet [4, 1, 0, op] .fetched with seq := 2 }
      s.packetIx 3 2 = some 1 ∧ s.turnOf p = true ∧ s.ready p = true ∧ s.topPrio p = true ∧ s.packetOpen p = true ∧
        p.badBits = false ∧ s.quiesceTarget { p with st := .begun } = some 0 ∧ (s.grd 0).st ≠ .done) ∧
      (quiescer .done [4, 1]).quiesceTarget (packet [4, 1] .begun) = some 0 ∧
      (quiescer .running [4, 2]).quiesceTarget (packet [4, 2] .begun) = none := by
  refine ⟨List.forall_mem_cons.mpr ⟨?_, List.forall_mem_cons.mpr ⟨?_, List.forall_mem_cons.mpr ⟨?_,
    List.forall_mem_cons.mpr ⟨?_, nofun⟩⟩⟩⟩, ?_⟩ <;> decide +kernel

theorem witness_PacketResults_telem :
    begins (fetchedOne [5, 0x20400, 0x1001000]) (packet [5, 0x20400, 0x1001000] .fetched) = true ∧
      (packet [5, 0x20400, 0x1001000] .fetched).badBits = false ∧
      records.readProgram (records.queueGrid 3) 0x20400 = some ([0x8000005, 0xA8000000], records) ∧
      programOk true [0x8000005, 0xA8000000] = true ∧ 0x10 ∈ eventKinds ∧ records.ownsSlot 0 1 0 = true ∧
      records.readProgram (records.queueGrid 3) 0x20800 = none ∧
      begins (fetchedOne [5, 0, 0x1001040]) (packet [5, 0, 0x1001040] .fetched) = true ∧
      (fetchedOne [5, 0, 0x1001040]).slotBusy 1 0 = false ∧ (fetchedOne [5, 0, 0x1001040]).detachDue 3 1 = none := by decide +kernel

/-- A run of the slot that a DETACH names is still to be performed. -/
def detaching : State := { fetchedOne [5, 0, 0x1001040] with
  slots := [⟨1, 0, 0, 0x10, 0, 0, [0xA8000000], true, 0, false⟩], tcoRuns := [⟨1, 0, 0, 5, [0xA8000000], 0, List.replicate 8 0⟩] }

theorem witness_PacketResults_detach :
    begins detaching (packet [5, 0, 0x1001040] .fetched) = true ∧ detaching.detachDue 3 1 = none ∧
      detaching.slotBusy 1 0 = true := by decide +kernel

/-- R223, R415: it has begun, its slot takes no record, and the next packets may begin; the slot is free once the run is done. -/
theorem test_detach :
    let s := run (.telemDetach 3 1) detaching
    s.packets.map Packet.st = [.begun] ∧ s.slots.map TcoSlot.leaving = [true] ∧ s.detachDue 3 1 = none ∧
      (run (.tcoRun 1 0) s).detachDue 3 1 = some 0 ∧ (run (.telemDetach 3 1) (run (.tcoRun 1 0) s)).slots = [] := by decide +kernel

/-- A grid of queue 3 in state `st` without a resident workgroup; PAREA names 1 MiB at 0x80000. -/
def contextOf (st : GridState) : State :=
  let s := (queue true 0).setReg64 (0x00300000 + 32 * 3 + 8) (16 * 2 ^ 48 + 0x80000)
  { grid0 s (fun g => { g with queue := 3, seq := 1, st := st }) with wgs := [], groups := [] }

/-- The save area of the context stands at PAREA. -/
def areaPlaced : State :=
  let s := contextOf .saved
  { s with mem := s.mem ++ ((s.areaBytes [0] 0).zipIdx.filterMap (fun e => if e.1 = 0 then none else some (0x80000 + e.2, e.1))) }

/-- PAREA is zero. -/
def noArea (st : GridState) : State := (contextOf st).setReg64 (0x00300000 + 32 * 3 + 8) 0

theorem witness_PreemptionResults :
    3 < 16384 ∧ ((contextOf .running).setReg64 (0x00300000 + 32 * 3 + 0x10) 4).queueCmd 3 = true ∧ 3 ∉ (contextOf .running).restores ∧
      (contextOf .running).queueCmd 3 = false ∧ (contextOf .done).queueGrids 3 = [] ∧
      (contextOf .running).queueGrids 3 = [0] ∧ ((contextOf .running).grd 0).sliced = false ∧ (noArea .running).queueGrids 3 = [0] ∧ (noArea .running).parea 3 = 0 ∧
      (contextOf .running).parea 3 ≠ 0 ∧ (contextOf .running).psize 3 ≤ ((contextOf .running).parea 3).toNat / 2 ^ 48 * 65536 ∧
      (contextOf .running).savedGrids 3 = [] ∧ (contextOf .saved).savedGrids 3 = [0] ∧
      (noArea .saved).savedGrids 3 = [0] ∧ (noArea .saved).parea 3 = 0 := by decide +kernel

theorem witness_PreemptionResults_restore :
    areaPlaced.savedGrids 3 = [0] ∧ areaPlaced.slots = [] ∧ areaPlaced.copies = [] ∧ areaPlaced.faults = [] ∧
      let s1 := ({ areaPlaced with heldQueues := areaPlaced.heldQueues.filter (fun k => k != 3) } : State).startCmd 3
      (s1.areaAt 3).any (fun r => s1.sectionsFit [0] r.2.2 && (s1.resume [0] r.1 r.2.2).isSome &&
        r.2.2.all (fun x => x.groups.all (fun g => leAt g 0x38 4 == 0))) = true := by decide +kernel

/-- A SAVE under way. -/
def saving : State := { contextOf .saved with saves := [⟨3, 0x0010000000080000, false⟩] }

/-- A domain of queue 3 that a QUIESCE has told to stop after round 2. -/
def stopping : State :=
  { grid0 (quiescer .running [4, 1]) (fun g => { g with quiesce := [(2, 1)], applied := 3 }) with
    packets := [packet [1] .begun, { packet [4, 1] .begun with seq := 2 }] }

theorem witness_PreemptionResults_ends :
    saving.saveOpen [0] = true ∧ saving.saveJob 3 = some ⟨3, 0x0010000000080000, false⟩ ∧ saving.savedGrids 3 ≠ [] ∧
      saving.queueFn 3 = 0 ∧ saving.slots = [] ∧ saving.copies = [] ∧ saving.barNet = [] ∧ saving.mxu = [] ∧
      saving.poison = [] ∧ stopping.quiesced 0 = true ∧ stopping.quiescing 0 = some (2, 1) ∧
      stopping.packets[1]? = some { packet [4, 1] .begun with seq := 2 } ∧ HostRing stopping 3 ∧
      ((packet [4, 1] .begun).word 3).toNat % 4 ≠ 2 := by decide +kernel

/-- Function 2 is enabled and time-sliced, and has the only grid. -/
def sliced : State := { grid0 (free.setReg64 0x01002000 3) (fun g => { g with fn := 2 }) with slice := 1 }

theorem witness_PreemptionResults_slice :
    sliced.nextSlice = some 2 ∧ sliced.copies = [] ∧
      ∀ g ∈ sliced.grids, g.fn = sliced.slice ∨ g.fn = 2 → g.st = .done ∨ (g.fn = 2 ∧ g.st = .running) := by decide +kernel

/-- Function 0 has given cluster 5, a channel and 62,144 words up to function 2, which is not enabled yet; no grid runs. -/
def prepared : State :=
  [(0x01000008, 0x0000FFFFFFFFFFDF), (0x01000010, 0xFFFFFFFFFFFFFFFE), (0x01000028, 1), (0x01000048, 0x0404),
    (0x01000050, 200000), (0x01002008, 0x20), (0x01002010, 1), (0x01002048, 0x0402), (0x01002050, 62144)].foldl
      (fun (s : State) e => s.setReg64 e.1 (BitVec.ofNat 64 e.2)) { free with grids := [], wgs := [], groups := [] }

/-- Function 2 is enabled for tenant 2. -/
def enabled : State := prepared.setReg64 0x01002000 0x201

theorem witness_PartitionResults_enable :
    2 < 32 ∧ prepared.fnEnabled 2 = false ∧ prepared.failed = false ∧ (prepared.storePcr 2 0x201).enableReason 2 = none ∧
      (prepared.storePcr 2 0x3F01).enableReason 2 = some 5 ∧
      (prepared.storePcr 2 0x201).standsOn ((prepared.storePcr 2 0x201).takes 2) = false ∧ prepared.fnEnabled 31 = false := by decide +kernel

theorem witness_PartitionResults_reset :
    enabled.fnEnabled 2 = true ∧ enabled.flr.contains 2 = false ∧ (∀ g ∈ enabled.grids, g.fn = 2 → g.st = .done) ∧
      enabled.saves = [] ∧ enabled.reduce = [] ∧ ((0x201 : Dword) ^^^ enabled.reg64 0x01002000) &&& 0x0000FFFF00003FF6 = 0 ∧
      ({ enabled with flr := [2] } : State).flr.contains 2 = true := by decide +kernel

theorem witness_PartitionResults_resources :
    (62144 : Word).toNat + ((enabled.others 2).map (fun k => (enabled.reg (0x01000000 + 0x1000 * k + 0x050)).toNat)).sum =
        262144 ∧
      (262145 - 200000 : Word).toNat +
        ((enabled.others 2).map (fun k => (enabled.reg (0x01000000 + 0x1000 * k + 0x050)).toNat)).sum = 262145 ∧
      (enabled.fnEnabled 2 = true ∧ enabled.fnSliced 2 = false ∧ (0x21 : Dword) &&& enabled.reg64 (0x01002000 + 0x010) ≠ 0) ∧
      enabled.fnEnabled 0 = true := by decide +kernel

theorem witness_PartitionResults_clash : ∀ k, k < 32 → k ≠ 0 → enabled.fnEnabled k = true → enabled.fnSliced k = false →
    (2 : Dword) &&& enabled.reg64 (0x01000000 + 0x1000 * k + 0x010) = 0 := by decide +kernel

theorem witness_PartitionResults_ways :
    (enabled.setReg64 0x01000200 0x000F).mayGive 0 32 = true ∧ (enabled.setReg64 0x01000200 0x0007).mayTake 0 0 = true ∧
      (enabled.setReg64 0x01000200 0x00FF).mayGive 0 0 = true ∧
      (enabled.setReg64 0x01000200 0x00FF).mayTake 0 32 = true ∧ enabled.mayTake 127 32 = true ∧ 0 ≠ 32 := by decide +kernel

/-- A record of kind 0x10 of tenant 0 on its way to coprocessor 1, and a filter on it in slot `slot`, with a count. -/
def observed (sample : Nat) (count : Word) : State := { free with
  tcoIn := [⟨3, 5⟩, ⟨1, 0x10000000⟩], slots := [⟨1, 63, 0, 0x10, sample, count, [1, 2, 3], true, 9, false⟩] }

theorem witness_TelemetryResults_intake :
    8 < 9 ∧ 31 < 32 ∧ (observed 0 5).tcoIn.findIdx? (fun x => x.tco == 1) = some 1 ∧
      (observed 0 5).tcoIn[1]? = some ⟨1, 0x10000000⟩ ∧
      (observed 0 5).slotTakes ⟨1, 63, 0, 0x10, 0, 5, [1, 2, 3], true, 9, false⟩ 1 0x10000000 = true ∧
      (∀ x ∈ (observed 0 5).slots, (observed 0 5).slotTakes x 3 5 = false) ∧ (5 : Word).toNat % 2 ^ 0 = 0 ∧
      (5 : Word).toNat % 2 ^ 1 ≠ 0 ∧
      ((observed 0 5).reg 0x00401028).toNat + 3 ≤ ((observed 0 5).reg 0x01000050).toNat := by decide +kernel

/-- A run that adds to word 4095, and a merge of four words at the end of the state memory. -/
def counting : State := { free with
  tcoRuns := [⟨1, 0, 63, 5, [0x81FFFFF + 7 * 2 ^ 24, 0x9FE00FFF, 0xA8000000], 0, List.replicate 8 0⟩], merges := [(0, 0x2FC000040FFC0FFC)] }

theorem witness_TelemetryResults_run :
    counting.tcoRuns.findIdx? (fun r => r.tco == 1 && r.fn == 0) = some 0 ∧
      counting.tcoRuns[0]?.map TcoRun.prog = some [BitVec.ofNat 32 (2 ^ 27 + 2 ^ 24 * 7 + (0x1FFFFF#21).toNat),
        BitVec.ofNat 32 (0x13 * 2 ^ 27 + 2 ^ 24 * 7 + 2 ^ 21 * 7 + 4095), 0xA8000000] ∧
      counting.merges.find? (fun m => m.1 == 0) = some (0, 0x2FC000040FFC0FFC) ∧ mergeOk 0x2FC000040FFC0FFC = true ∧ 3 ≤ counting.cyclesLeft 1 0 ∧
      counting.tcoRuns[0]?.map (fun r => (r.pc, r.regs)) = some (0, List.replicate 8 0) ∧
      (counting.setReg64 0x01000050 1).cyclesLeft 1 0 = 1 ∧
      (free.reg 0x00408088).getLsbD 0 = false ∧ ((free.setReg 0x00408088 1).reg 0x00408088).getLsbD 0 = true := by
  decide +kernel

theorem witness_PackageResults :
    free.slots = [] ∧ 5 ≤ (7#4).toNat ∧ (7#4).toNat ≤ 7 ∧ (0x1000 : Dword).getLsbD 63 = false ∧ 3 ≤ (4#4).toNat ∧
      (4#4).toNat ≤ 4 ∧ (0x1000 : Dword).toNat / 2 ^ 47 % 2 ^ 16 < free.groups.length ∧ (free.grp 0).st ≠ .retired ∧
      free.saving 0 = false ∧ 1 ≤ (9#4).toNat ∧ (9#4).toNat ≤ 9 ∧ ((queue true 0).reg64 (0x00200000 + 64 * 3 + 8)).getLsbD 0 = true ∧
      ((queue true 0).reg64 (0x00200000 + 64 * 4 + 8)).getLsbD 0 = false ∧ (free.reg64 0x10010).getLsbD 63 = false ∧
      State.reset.failed = false ∧ (∀ d ∈ State.reset.dies, d.up = false) ∧ 31 < free.tdi.length := by decide +kernel

end Sys2Proof.Tests
end

/-! ## What reset leaves

The register file right after reset is two runs of words, so each register of the physical function's partition block is
read from a list of words, and everything else is 0. -/

namespace Sys2Proof.Machine

/-! ### Tables made of runs of words -/

/-- The entries of a run of words lie within the run. -/
theorem regEntries_key {base : Nat} {ws : List Word} {e : Nat × Word} (he : e ∈ regEntries base ws) :
    base ≤ e.1 ∧ e.1 < base + ws.length := by
  induction ws generalizing base with
  | nil => simp [regEntries] at he
  | cons v r ih =>
    have tail : e ∈ regEntries (base + 1) r → base ≤ e.1 ∧ e.1 < base + (v :: r).length := fun h => by
      have := ih h
      simp only [List.length_cons]
      omega
    simp only [regEntries] at he
    split at he
    · exact tail he
    · rcases List.mem_cons.1 he with rfl | he
      · simp
      · exact tail he

theorem regEntries_wf (base : Nat) (ws : List Word) : (regEntries base ws).wf = true := by
  induction ws generalizing base with
  | nil => rfl
  | cons v r ih =>
    simp only [regEntries]
    split
    · exact ih _
    · next hv => exact (Sparse.wf_cons _ _ _).2 ⟨hv, fun e he => (regEntries_key he).1, ih _⟩

/-- A run of words reads back as the list it was made of, and as 0 before and after it. -/
theorem get_regEntries (base k : Nat) (ws : List Word) :
    (regEntries base ws).get k = if base ≤ k then ws.getD (k - base) 0 else 0 := by
  induction ws generalizing base with
  | nil => simp [regEntries]
  | cons v r ih =>
    have head : (regEntries base (v :: r)).get k = if base = k then v else (regEntries (base + 1) r).get k := by
      simp only [regEntries]
      split
      · next hv =>
        split
        · next hk => rw [ih, if_neg (by omega), hv]
        · rfl
      · rfl
    rw [head, ih]
    rcases Nat.lt_trichotomy base k with hlt | rfl | hgt
    · obtain ⟨j, rfl⟩ : ∃ j, k = base + 1 + j := ⟨k - (base + 1), by omega⟩
      have skip : base + 1 + j - base = j + 1 := by omega
      simp [show base ≠ base + 1 + j by omega, show base ≤ base + 1 + j by omega, skip]
    · simp
    · rw [if_neg (by omega), if_neg (by omega), if_neg (by omega)]

/-- A list of words reads 0 past its end. -/
theorem getD_word_past {ws : List Word} {k : Nat} (hk : ws.length ≤ k) : ws.getD k 0 = 0 := by
  rw [List.getD_eq_getElem?_getD, List.getElem?_eq_none hk, Option.getD_none]

/-- Two canonical tables, the second with larger keys, make a canonical one. -/
theorem Sparse.wf_append {w : Nat} {m n : Sparse w} (hm : m.wf = true) (hn : n.wf = true)
    (hlt : ∀ e ∈ m, ∀ e' ∈ n, e.1 < e'.1) : Sparse.wf (m ++ n) = true := by
  induction m with
  | nil => exact hn
  | cons x r ih =>
    obtain ⟨hx, hr, hwf⟩ := (Sparse.wf_cons x.1 x.2 r).1 hm
    refine (Sparse.wf_cons x.1 x.2 (r ++ n)).2 ⟨hx, fun e he => ?_, ih hwf fun e he => hlt e (by simp [he])⟩
    rcases List.mem_append.1 he with he | he
    · exact hr e he
    · exact hlt x (by simp) e he

theorem Sparse.get_append {w : Nat} {m : Sparse w} (hm : m.wf = true) (n : Sparse w) (k : Nat) :
    Sparse.get (m ++ n) k = if m.get k = 0 then n.get k else m.get k := by
  induction m with
  | nil => simp
  | cons x r ih =>
    obtain ⟨a, v⟩ := x
    obtain ⟨hv, -, hwf⟩ := (Sparse.wf_cons a v r).1 hm
    rw [List.cons_append, Sparse.get_cons, Sparse.get_cons, ih hwf]
    by_cases hk : a = k
    · rw [if_pos hk, if_pos hk, if_neg hv]
    · rw [if_neg hk, if_neg hk]

/-! ### The register file right after reset -/

/-- Words 0x000 to 0x144 of the physical function's partition block in the Reset column of R437. -/
def partitionWords : List Word :=
  [1, 0, 0xFFFFFFFF, 0xFFFF] ++ List.replicate 6 0xFFFFFFFF ++ List.replicate 8 0xFFFFFFFF ++
    [0x1010, 0, 65536, 0, 0, 0, 0, 0, 0, 0, 0, 0, 0, 0] ++
    (List.replicate 8 [45056, 0, 2359296, 0]).flatten ++ List.replicate 18 0xFFFFFFFF

/-- WAYMAP, words 0x200 to 0x2FC of that block (R437). -/
def wayMapWords : List Word := List.replicate 64 0xFFFFFFFF

theorem regsReset_eq : regsReset =
    regEntries (0x01000000 / 4) partitionWords ++ regEntries (0x01000200 / 4) wayMapWords := rfl

/-- A register of reset, from the two runs of words. -/
theorem reset_reg (o : Nat) : State.reset.reg o =
    if o / 4 < 0x400080 then (if 0x400000 ≤ o / 4 then partitionWords.getD (o / 4 - 0x400000) 0 else 0)
    else wayMapWords.getD (o / 4 - 0x400080) 0 := by
  show regsReset.get (o / 4) = _
  rw [regsReset_eq, Sparse.get_append (regEntries_wf _ _), get_regEntries, get_regEntries]
  have hlen : partitionWords.length = 82 := rfl
  by_cases hlow : o / 4 < 0x400080
  · rw [if_pos hlow, if_neg (c := 0x01000200 / 4 ≤ o / 4) (by omega)]
    exact ite_eq_right_iff.2 Eq.symm
  · have hpast : partitionWords.getD (o / 4 - 0x01000000 / 4) 0 = 0 :=
      getD_word_past (by omega)
    rw [if_neg hlow, hpast, ite_self, if_pos rfl, if_pos (by omega)]

/-- Outside the physical function's partition block every register is 0. -/
theorem reset_reg_outside {o : Nat} (ho : o < 0x01000000 ∨ 0x01000300 ≤ o) : State.reset.reg o = 0 := by
  rw [reset_reg]
  rcases ho with hlow | hhigh
  · rw [if_pos (by omega), if_neg (by omega)]
  · have hlen : wayMapWords.length = 64 := rfl
    rw [if_neg (by omega)]
    exact getD_word_past (by omega)

/-- Word `k` of the partition block, below WAYMAP. -/
theorem reset_reg_partition {k : Nat} (hk : k < 128) :
    State.reset.reg (partBase 0 + 4 * k) = partitionWords.getD k 0 := by
  have hword : (partBase 0 + 4 * k) / 4 = 0x400000 + k := by unfold partBase; omega
  rw [reset_reg, hword, if_pos (by omega), if_pos (by omega), Nat.add_sub_cancel_left]

/-- The 64-bit register `k` of the partition block, from its two words. -/
theorem reset_reg64_partition {k : Nat} (hk : k < 64) :
    State.reset.reg64 (partBase 0 + 8 * k) =
      partitionWords.getD (2 * k + 1) 0 ++ partitionWords.getD (2 * k) 0 := by
  have hlow : partBase 0 + 8 * k = partBase 0 + 4 * (2 * k) := by omega
  have hhigh : partBase 0 + 8 * k + 4 = partBase 0 + 4 * (2 * k + 1) := by omega
  rw [State.reg64, hhigh, hlow, reset_reg_partition (by omega), reset_reg_partition (by omega)]

/-- No queue is enabled: QCTL of every queue lies outside the partition blocks (R218). -/
theorem reset_qctl_disabled {q : Nat} (hq : q < 16384) :
    (State.reset.reg (queueBase q + 8)).getLsbD 0 = false := by
  rw [reset_reg_outside (.inl (by unfold queueBase; omega))]
  rfl

/-- The physical function's 64-bit registers number `a` to `a + n - 1`, where their words all make one value. -/
theorem reset_reg64_row {a n : Nat} {v : Dword} (han : a + n ≤ 64)
    (hwords : ∀ k, k < n → partitionWords.getD (2 * (a + k) + 1) 0 ++ partitionWords.getD (2 * (a + k)) 0 = v)
    {k : Nat} (hk : k < n) : State.reset.reg64 (partBase 0 + 8 * a + 8 * k) = v := by
  rw [Nat.add_assoc, ← Nat.mul_add, reset_reg64_partition (by omega)]
  exact hwords k hk

/-- The attic and cellar quotas of die `d`, FQUOTA 2d and 2d + 1 (R437). -/
theorem reset_quotas {d : Nat} (hd : d < 8) :
    State.reset.reg64 (partBase 0 + 0x080 + 16 * d) = 45056 ∧
      State.reset.reg64 (partBase 0 + 0x088 + 16 * d) = 2359296 := by
  have hfirst : partBase 0 + 0x080 + 16 * d = partBase 0 + 8 * (16 + 2 * d) := by omega
  have hsecond : partBase 0 + 0x088 + 16 * d = partBase 0 + 8 * (17 + 2 * d) := by omega
  have hwords : ∀ i, i < 8 →
      partitionWords.getD (2 * (16 + 2 * i) + 1) 0 ++ partitionWords.getD (2 * (16 + 2 * i)) 0 = (45056 : Dword) ∧
      partitionWords.getD (2 * (17 + 2 * i) + 1) 0 ++ partitionWords.getD (2 * (17 + 2 * i)) 0 = (2359296 : Dword) := by
    decide
  rw [hfirst, hsecond, reset_reg64_partition (by omega), reset_reg64_partition (by omega)]
  exact hwords d hd

theorem regsReset_wf : regsReset.wf = true := by
  rw [regsReset_eq]
  refine Sparse.wf_append (regEntries_wf _ _) (regEntries_wf _ _) fun e he e' he' => ?_
  have hlen : partitionWords.length = 82 := rfl
  have := (regEntries_key he).2
  have := (regEntries_key he').1
  omega

theorem canonical_reset : Canonical State.reset := by
  obtain ⟨hmem, hhost, hscratch⟩ := reset_memory_wf
  exact ⟨hmem, hhost, hscratch, rfl, regsReset_wf, rfl, rfl, rfl, rfl⟩

/-- Settles O44: the records of reset are read off, the partition block is read word by word from its list, and the
other registers lie outside both runs of words. -/
theorem resetLeaves : Obligations.ResetLeaves := by
  refine ⟨fun d hd => ?dies, rfl, rfl, rfl, fun q => reset_qctl_disabled, ?pcr, ?clusters, fun k => ?channels,
    fun k => ?queueBlocks, ?slots, ?state, fun d => reset_quotas, fun t => ?rows, fun o => reset_reg_outside,
    canonical_reset⟩
  case dies => rw [List.eq_of_mem_replicate hd]
  case pcr => exact reset_reg_partition (k := 0) (by decide)
  case clusters => exact reset_reg64_partition (k := 1) (by decide)
  case channels => exact reset_reg64_row (a := 2) (by decide) (by decide)
  case queueBlocks => exact reset_reg64_row (a := 5) (by decide) (by decide)
  case slots => exact reset_reg64_partition (k := 9) (by decide)
  case state => exact reset_reg64_partition (k := 10) (by decide)
  case rows => exact reset_reg64_row (a := 32) (by decide) (by decide)

end Sys2Proof.Machine

/-! ## Tier migration and the canonical form

A page that moves is copied entry by entry. In a canonical memory the new frame then reads as the old one did. A
memory that lists one address twice reads its first entry, and the copy leaves the last. -/

namespace Sys2Proof.Machine

/-! ### The bytes of a page that moves -/

/-- A table of some of the keys reads as the whole one at those keys, and 0 elsewhere. -/
theorem Sparse.get_filter_key {w : Nat} (q : Nat → Bool) (m : Sparse w) (k : Nat) :
    Sparse.get (m.filter (fun e => q e.1)) k = if q k then m.get k else 0 := by
  induction m with
  | nil => simp
  | cons e r ih =>
    obtain ⟨a, v⟩ := e
    by_cases hk : a = k
    · subst hk
      by_cases hq : q a = true <;> simp [hq, Sparse.get_cons, ih]
    · by_cases hq : q a = true <;> simp [hq, Sparse.get_cons, ih, hk]

/-- A key that a table does not list reads as 0. -/
theorem Sparse.get_eq_zero {w : Nat} {m : Sparse w} {k : Nat} (hk : ∀ e ∈ m, e.1 ≠ k) : m.get k = 0 := by
  induction m with
  | nil => rfl
  | cons e r ih =>
    obtain ⟨a, v⟩ := e
    rw [Sparse.get_cons, if_neg (hk (a, v) (by simp)), ih fun e he => hk e (by simp [he])]

/-- An address of a page keeps its offset in the frame that the page moves to. -/
theorem moved_eq_iff {src dst k o : Nat} (hk : k / 65536 = src) :
    65536 * dst + o = moved src dst k ↔ k = 65536 * src + o := by
  unfold moved
  rw [if_pos hk]
  omega

/-- Copied one after another, the entries of a page put each byte at its offset in the new frame; a byte that the page
does not list stays as it was there. -/
theorem get_foldl_moved {src dst o : Nat} {l : Sparse 8} (hwf : l.wf = true)
    (hpage : ∀ e ∈ l, e.1 / 65536 = src) (m : Sparse 8) :
    (l.foldl (fun m e => m.set (moved src dst e.1) e.2) m).get (65536 * dst + o) =
      if l.get (65536 * src + o) = 0 then m.get (65536 * dst + o) else l.get (65536 * src + o) := by
  induction l generalizing m with
  | nil => simp
  | cons e r ih =>
    obtain ⟨k, v⟩ := e
    obtain ⟨hv, habove, hr⟩ := (Sparse.wf_cons k v r).1 hwf
    have hkey := moved_eq_iff (dst := dst) (o := o) (hpage (k, v) (by simp))
    rw [List.foldl_cons, ih hr fun e he => hpage e (by simp [he]), Sparse.get_set, Sparse.get_cons]
    by_cases hk : k = 65536 * src + o
    · have hlater : Sparse.get r (65536 * src + o) = 0 :=
        Sparse.get_eq_zero fun e he => Nat.ne_of_gt (hk ▸ habove e he : 65536 * src + o < e.1)
      rw [if_pos hlater, if_pos (hkey.2 hk), if_pos hk, if_neg hv]
    · rw [if_neg (mt hkey.1 hk), if_neg hk]

/-- In a canonical memory the bytes of a page stand, offset by offset, in the frame to which they were copied. -/
theorem get_moveBytes {m : Sparse 8} (hwf : m.wf = true) (src dst : Nat) {o : Nat} (ho : o < 65536) :
    (moveBytes src dst m).get (65536 * dst + o) = m.get (65536 * src + o) := by
  have hsource : Sparse.get (m.filter (fun e => e.1 / 65536 == src)) (65536 * src + o) = m.get (65536 * src + o) := by
    rw [Sparse.get_filter_key (fun k => k / 65536 == src), if_pos (beq_iff_eq.2 (by omega))]
  have hcleared : (m.clear (dst * 65536) ((dst + 1) * 65536)).get (65536 * dst + o) = 0 := by
    rw [Sparse.clear, Sparse.get_filter_key (fun k => decide (k < dst * 65536) || decide ((dst + 1) * 65536 ≤ k)),
      if_neg (by simp; omega)]
  have hpage : ∀ e ∈ m.filter (fun e => e.1 / 65536 == src), e.1 / 65536 = src := fun e he =>
    beq_iff_eq.1 (List.mem_filter.1 he).2
  rw [moveBytes, get_foldl_moved (Sparse.wf_filter _ hwf) hpage, hsource, hcleared]
  exact ite_eq_right_iff.2 Eq.symm

/-- The bytes under the lines of a page change nothing outside the page. -/
theorem State.get_underLines (s : State) {src k : Nat} (hk : k / 65536 ≠ src) (m : Sparse 8) :
    (s.underLines src m).get k = m.get k := by
  unfold State.underLines
  refine List.foldlRecOn _ _ (motive := fun m' => Sparse.get m' k = m.get k) rfl fun m' ih x hx => ?_
  have hsector : x.sector / 2048 = src := by simpa using (Bool.and_eq_true_iff.1 (List.mem_filter.1 hx).2).2
  rw [get_writeBytes, length_leBytes, if_neg (by omega), ih]

/-- The memory that a move leaves: the page copied, what its L2 lines hid restored in the old frame, and the entry. -/
theorem State.get_movePage_outside_entry (s : State) {a frame k : Nat} (x : Frame) (ha : a / 65536 ≠ x.frame)
    (hk : k < a ∨ a + 8 ≤ k) (hsrc : k / 65536 ≠ x.frame) :
    (s.movePage a frame x).mem.get k = (moveBytes x.frame frame s.mem).get k := by
  have hentry : moved x.frame frame a = a := if_neg ha
  show Sparse.get (writeBytes (s.underLines x.frame (moveBytes x.frame frame s.mem)) (moved x.frame frame a) _) k = _
  rw [get_writeBytes, length_leBytes, hentry, if_neg (by omega), s.get_underLines hsrc]

theorem exec_tierMigration {s : State} {a frame : Nat} {x : Frame} (h : s.migrationOk a frame = some x) :
    exec (.tierMigration a frame) s = .next (s.movePage a frame x) := by
  show Host.Outcome.next _ = _
  rw [h]

/-- R102 where the memory is canonical: after the move the new frame reads as the old one did. -/
theorem tierMigration_copies_page {s : State} (hwf : Memory.wf s.mem = true) {a frame : Nat} {x : Frame}
    (hok : s.migrationOk a frame = some x) (hne : frame ≠ x.frame) (ha : a / 65536 ≠ x.frame) (hfirst : a / 65536 ≠ frame)
    (hlast : (a + 7) / 65536 ≠ frame) :
    ∃ t, exec (.tierMigration a frame) s = .next t ∧
      ∀ o, o < 65536 → t.mem.get (65536 * frame + o) = s.mem.get (65536 * x.frame + o) := by
  refine ⟨_, exec_tierMigration hok, fun o ho => ?_⟩
  rw [s.get_movePage_outside_entry x ha (by omega) (by omega)]
  exact get_moveBytes hwf x.frame frame ho

/-! ### A memory that lists a byte twice -/

/-- Frame 5 of the attic of die 1, the page that moves. -/
def atticPage : Frame := ⟨tierBase 1 false + 5, 0, 3, true, 0, 0x60000, false⟩

/-- Its entry stands at 0x60000, and `page` is all else that memory holds. -/
def beforeMove (page : Sparse 8) : State := { State.reset with
  frames := [atticPage]
  mem := writeBytes [] 0x60000 (leBytes 8 (2 ^ 16 * atticPage.frame + 0x201)) ++ page }

/-- A canonical memory, in which the first byte of the page is 1. -/
def listedOnce : State := beforeMove [(65536 * atticPage.frame, 1)]

/-- The same byte listed as 1 and then as 2. -/
def listedTwice : State := beforeMove [(65536 * atticPage.frame, 1), (65536 * atticPage.frame, 2)]

theorem witness_tierMigration_copies_page : ∃ t, exec (.tierMigration 0x60000 (tierBase 1 true + 5)) listedOnce = .next t ∧
    ∀ o, o < 65536 → t.mem.get (65536 * (tierBase 1 true + 5) + o) = listedOnce.mem.get (65536 * atticPage.frame + o) :=
  tierMigration_copies_page (by decide +kernel) (by decide +kernel) (by decide) (by decide) (by decide) (by decide)

theorem listedTwice_migrationOk : listedTwice.migrationOk 0x60000 (tierBase 1 true + 5) = some atticPage := by
  decide +kernel

theorem listedTwice_reads_first : listedTwice.mem.get (65536 * atticPage.frame) = 1 := by decide +kernel

/-- The move leaves the second entry in the new frame. -/
theorem listedTwice_moves_second :
    (listedTwice.movePage 0x60000 (tierBase 1 true + 5) atticPage).mem.get (65536 * (tierBase 1 true + 5)) = 2 := by
  decide +kernel

/-- Refutes O54: it speaks of every state, also of one whose memory is not canonical, and there a page that moves to the
other tier need not read as before. `tierMigration_copies_page` is the clause for a canonical memory. -/
theorem not_frameResults : ¬ Obligations.FrameResults := by
  unfold Obligations.FrameResults
  intro h
  obtain ⟨-, -, -, -, -, -, hmoves⟩ := h listedTwice (tierBase 1 true + 5) (by decide)
  obtain ⟨t, hexec, hcopy, -⟩ := hmoves 0x60000 atticPage listedTwice_migrationOk rfl (by decide) (by decide) (by decide)
    (by decide) (by decide)
  cases (exec_tierMigration listedTwice_migrationOk).symm.trans hexec
  have hbyte := hcopy 0 (by decide)
  have hread : (2 : Byte) = 1 := listedTwice_moves_second.symm.trans (hbyte.trans listedTwice_reads_first)
  exact absurd hread (by decide)

end Sys2Proof.Machine
